-- ==== Sys2Proof/Word.lean ====
section
/-! DEFINITION. The 64-bit word of a g register and the byte of memory (R1, R52). -/

namespace Sys2Proof

/-- A general register's contents. -/
abbrev Word := BitVec 64
/-- A byte of memory. -/
abbrev Byte := BitVec 8

end Sys2Proof
end

