-- ==== Sys2Proof/Syntax.lean ====
section
/-! DEFINITION. The instruction set and the events of the Spaet module, one constructor per row of
spec/opcode_table.json. A word's operands are its fields (R118, R119). An event has no word, and what it strikes
(a thread, a device context, a line, a unit) is named by the State field `ev`, of the type Operands below. -/

namespace Sys2Proof

/-- A context handle, R323: device context [31:27], launch slot [26:22], dense number [21:0]. -/
abbrev Handle := BitVec 32
/-- A device context number, 0 to 31 (R10). -/
abbrev DctxId := BitVec 5
/-- A ring of a device context, 0 to 63; 64 + p is the virtual ring of the packets of priority p that SIGARM.LAUNCH
submits (R327). -/
abbrev RingId := BitVec 7
/-- A launch slot of a device context, 0 to 31 (R323). -/
abbrev LaunchSlot := BitVec 5
/-- A partition, 0 to 3 (R348). -/
abbrev PartId := BitVec 2
/-- A die number (R358). -/
abbrev DieId := BitVec 4
/-- A coherence agent: dies 0 to 8, and 9 for the host (R369). -/
abbrev AgentId := BitVec 4

/-- The host's answer to a page request (R304). -/
inductive PriAnswer where
  /-- the translation is retried -/
  | success
  /-- Invalid Request: the access fails -/
  | invalidRequest
  /-- Response Failure: the access fails -/
  | responseFailure
  deriving DecidableEq, Repr

/-- What a remote delivery does at the receiving package (R423). -/
inductive RemoteKind where
  /-- a semantic read (VGATH) -/
  | read
  /-- a semantic write (VSCAT) -/
  | write
  /-- an atomic without a tag (VSCADD) -/
  | combine
  /-- an atomic with a sequence tag (VRDST) -/
  | combineTagged
  deriving DecidableEq, Repr

/-- A delivery that arrives from another package (R423): the port it comes by, the device context number it
names, the element's address, width, operator and format (as `vcop`), value, and for VRDST the tag and the source. -/
structure RemoteDelivery where
  port   : BitVec 3
  dc     : DctxId
  kind   : RemoteKind
  addr   : BitVec 64
  bytes  : Nat
  op     : BitVec 4
  fmt    : BitVec 4
  value  : Nat
  tag    : BitVec 16
  source : Nat
  /-- the number by which its sender knows the answer -/
  number : Nat
  deriving DecidableEq, Repr

/-- The unit in which a detected error lies (R342, R345). -/
inductive EccUnit where
  /-- a 48-byte sector of device memory, by its physical sector number, in a bank of its home -/
  | memorySector (sector : Nat) (bank : Nat)
  /-- a 48-byte sector of a thread's névé window, by its offset ÷ 48 -/
  | neveSector (h : Handle) (sector : Nat)
  /-- a g register of a thread -/
  | gReg (h : Handle) (r : BitVec 5)
  /-- a 64-bit word of a physical vector register of a thread -/
  | vWord (h : Handle) (r : BitVec 6) (word : BitVec 5)
  /-- a predicate register of a thread -/
  | pReg (h : Handle) (r : BitVec 3)
  /-- a 64-bit word of a deep-file entry of a thread -/
  | deepWord (h : Handle) (entry : BitVec 8) (word : BitVec 5)
  /-- an element of an accumulator tile of a thread -/
  | accElem (h : Handle) (tile : BitVec 3) (elem : BitVec 10)
  /-- the header of a thread's save area (R347) -/
  | saveHeader (h : Handle)
  /-- a line of a scalar L1 data cache, by its physical address, refetched -/
  | l1Line (core : BitVec 13) (addr : BitVec 64)
  /-- a walk cache entry, by its number, dropped -/
  | walkCache (entry : Nat)
  /-- a 48-byte sector held in a slice of a die's L2 or in a control core's L1 data cache, which is counted as a slice -/
  | l2Sector (die : DieId) (sector : Nat) (slice : Nat)
  /-- an HBM directory word or a firn tag of a die, by the bank of its metadata and its address there -/
  | directory (die : DieId) (bank : Nat) (addr : BitVec 64)
  /-- the directory entry of a line of second-tier memory, in a bank of the M-die's metadata -/
  | cxlDirectory (line : Nat) (bank : Nat)
  /-- flits of the departure of a slot of a thread that is on its way (R365) -/
  | exchangeFlit (h : Handle) (slot : BitVec 8)
  /-- a cirque queue or arbiter entry, by its number -/
  | cirqueQueue (entry : Nat)
  deriving DecidableEq, Repr

/-- One entry of a node or rack table (R422). -/
structure Endpoint where
  valid    : Bool
  ports    : BitVec 8
  isSelf   : Bool
  /-- package count of a rack entry's node -/
  packages : BitVec 8
  /-- address of the package, or prefix of the node -/
  address  : BitVec 128
  deriving DecidableEq, Repr

/-- A management firmware image (R427): its bytes, security version and signature. -/
structure FwImage where
  bytes     : List (BitVec 8)
  version   : BitVec 32
  signature : List (BitVec 8)
  deriving DecidableEq, Repr

/-- What an event of the module strikes, and the value it brings. An event of the current thread needs none. -/
inductive Operands where
  /-- the current thread, or the module -/
  | none
  /-- a device context -/
  | dctx (dc : DctxId)
  /-- a ring of a device context -/
  | ring (dc : DctxId) (r : RingId)
  /-- a write of a kick register (R317) -/
  | kick (dc : DctxId) (r : BitVec 6) (tail : BitVec 64)
  /-- a launch -/
  | launch (dc : DctxId) (slot : LaunchSlot)
  /-- a gang of a launch, by its number in ascending dense order (R330) -/
  | gang (dc : DctxId) (slot : LaunchSlot) (g : Nat)
  /-- a host page of a device context, with the permissions that the host grants (R303) -/
  | page (dc : DctxId) (va : BitVec 64) (hpa : BitVec 52) (r w x : Bool)
  /-- the host's answer to a page request (R304) -/
  | answer (dc : DctxId) (va : BitVec 64) (a : PriAnswer)
  /-- a range of host pages that the host invalidates (R305) -/
  | pages (dc : DctxId) (va : BitVec 64) (count : Nat)
  /-- an invalidation by the host driver: every translation, or those of one page (R310) -/
  | invalidate (dc : DctxId) (va : Option (BitVec 64))
  /-- a partition -/
  | part (p : PartId)
  /-- a partition and a number -/
  | partVal (p : PartId) (n : Nat)
  /-- a meter update: the energy of the last complete window and the projection of the current one (R334, R335) -/
  | meter (p : PartId) (window projected : Nat)
  /-- a partition reset and its reason (R352) -/
  | reset (p : PartId) (reason : BitVec 8)
  /-- a delivery from another package (R423) -/
  | delivery (d : RemoteDelivery)
  /-- an item of a list of State, by its place -/
  | index (n : Nat)
  /-- an acknowledgement of a remote element by its place: positive, or the reason it was refused for (R351, R423) -/
  | ack (n : Nat) (refusal : Option (BitVec 8))
  /-- a detected error and whether its code corrects it (R342) -/
  | ecc (unit : EccUnit) (correctable : Bool)
  /-- a die or its link -/
  | die (d : DieId)
  /-- a coherence message for a line, at or from an agent (R371) -/
  | line (line : Nat) (agent : AgentId)
  /-- an eviction of a line by an agent (R374) -/
  | evict (line : Nat) (agent : AgentId) (toFirn : Bool)
  /-- a value written -/
  | value (v : BitVec 64)
  /-- a value written to one of a set of registers -/
  | valueAt (k : BitVec 2) (v : BitVec 64)
  /-- a host write of a register (R416) -/
  | mmio (offset : BitVec 26) (v : BitVec 64)
  /-- a host store through CXL to bytes of one line of device memory (R369, R416) -/
  | hostStore (cell : Nat) (bytes : List (BitVec 8))
  /-- SET_PARTITION (R425): spokes by die bit, CXL windows, Ultra Ethernet ports, exchange channels -/
  | assign (p : PartId) (spokes : BitVec 10) (windows : BitVec 16) (ports : BitVec 8) (channels : Nat)
  /-- SET_ABORT_RING (R354) -/
  | abortRing (p : PartId) (desc : BitVec 64)
  /-- CREATE_DCTX: number, partition, descriptor's physical address (R314) -/
  | create (dc : DctxId) (p : PartId) (desc : BitVec 52)
  /-- SET_IROUTE (R314) -/
  | iroute (dc : DctxId) (target : BitVec 32)
  /-- SET_CXL_WINDOW (R419): window, partition, base, size, and port and device base in list order -/
  | window (i : BitVec 4) (p : PartId) (base size : BitVec 52) (ports : List (BitVec 2 × BitVec 52))
  /-- SET_ENDPOINT (R422) -/
  | endpoints (p : PartId) (rack : Bool) (entries : List (List (BitVec 8)))
  /-- FW_WRITE (R427) -/
  | firmware (image : FwImage)
  /-- LOAD_SUPERVISOR (R429) -/
  | supervisor (part : BitVec 8) (reserved : BitVec 56) (src dst bytes : BitVec 64)
  /-- SET_OWNER (R427) -/
  | owner (key signature : List (BitVec 8))
  /-- a new reading of a sensor (R426) -/
  | sensor (n : BitVec 6) (v : Nat)
  /-- an Ultra Ethernet or CXL port, and whether its link is up -/
  | port (n : BitVec 3) (up : Bool)
  deriving DecidableEq, Repr

/-- One constructor per row of spec/opcode_table.json. -/
inductive Instr where
  /-- R141. Writes g[a] + g[b] modulo 2^64 to g[d]. -/
  | add (d a b : BitVec 5)
  /-- R141. Writes g[a] − g[b] modulo 2^64 to g[d]. -/
  | sub (d a b : BitVec 5)
  /-- R141. Writes the bitwise AND of g[a] and g[b] to g[d]. -/
  | and (d a b : BitVec 5)
  /-- R141. Writes the bitwise OR of g[a] and g[b] to g[d]. -/
  | or (d a b : BitVec 5)
  /-- R141. Writes the bitwise XOR of g[a] and g[b] to g[d]. -/
  | xor (d a b : BitVec 5)
  /-- R141. Writes g[a] AND NOT g[b] to g[d]. -/
  | andn (d a b : BitVec 5)
  /-- R141. Shifts g[a] left by g[b][5:0] into g[d]. -/
  | sll (d a b : BitVec 5)
  /-- R141. Shifts g[a] logically right by g[b][5:0] into g[d]. -/
  | srl (d a b : BitVec 5)
  /-- R141. Shifts g[a] arithmetically right by g[b][5:0] into g[d]. -/
  | sra (d a b : BitVec 5)
  /-- R141. Rotates g[a] left by g[b][5:0] into g[d]. -/
  | rot (d a b : BitVec 5)
  /-- R141. Writes 1 to g[d] if g[a] < g[b] as s64, else 0. -/
  | slt (d a b : BitVec 5)
  /-- R141. Writes 1 to g[d] if g[a] < g[b] as n64, else 0. -/
  | sltn (d a b : BitVec 5)
  /-- R141. Writes the lesser of g[a] and g[b] as s64 to g[d]. -/
  | min (d a b : BitVec 5)
  /-- R141. Writes the greater of g[a] and g[b] as s64 to g[d]. -/
  | max (d a b : BitVec 5)
  /-- R141. Writes the lesser of g[a] and g[b] as n64 to g[d]. -/
  | minn (d a b : BitVec 5)
  /-- R141. Writes the greater of g[a] and g[b] as n64 to g[d]. -/
  | maxn (d a b : BitVec 5)
  /-- R141. Writes the count of leading zero bits of g[a] to g[d]. -/
  | clz (d a : BitVec 5)
  /-- R141. Writes the count of trailing zero bits of g[a] to g[d]. -/
  | ctz (d a : BitVec 5)
  /-- R141. Writes the count of one bits of g[a] to g[d]. -/
  | popc (d a : BitVec 5)
  /-- R141. Writes g[a] with its bits reversed to g[d]. -/
  | brev (d a : BitVec 5)
  /-- R141. Sign-extends g[a][7:0] into g[d]. -/
  | sextB (d a : BitVec 5)
  /-- R141. Sign-extends g[a][15:0] into g[d]. -/
  | sextH (d a : BitVec 5)
  /-- R141. Sign-extends g[a][31:0] into g[d]. -/
  | sextW (d a : BitVec 5)
  /-- R141. Zero-extends g[a][7:0] into g[d]. -/
  | zextB (d a : BitVec 5)
  /-- R141. Zero-extends g[a][15:0] into g[d]. -/
  | zextH (d a : BitVec 5)
  /-- R141. Zero-extends g[a][31:0] into g[d]. -/
  | zextW (d a : BitVec 5)
  /-- R143. Writes g[a] plus the sign-extended immediate to g[d]. -/
  | addi (d a : BitVec 5) (i : BitVec 16)
  /-- R143. Writes g[a] AND the sign-extended immediate to g[d]. -/
  | andi (d a : BitVec 5) (i : BitVec 16)
  /-- R143. Writes g[a] OR the zero-extended immediate to g[d]. -/
  | ori (d a : BitVec 5) (i : BitVec 16)
  /-- R143. Writes g[a] XOR the zero-extended immediate to g[d]. -/
  | xori (d a : BitVec 5) (i : BitVec 16)
  /-- R143. Shifts g[a] left by an immediate amount into g[d]. -/
  | slli (d a : BitVec 5) (n : BitVec 6)
  /-- R143. Shifts g[a] logically right by an immediate amount into g[d]. -/
  | srli (d a : BitVec 5) (n : BitVec 6)
  /-- R143. Shifts g[a] arithmetically right by an immediate amount into g[d]. -/
  | srai (d a : BitVec 5) (n : BitVec 6)
  /-- R143. Rotates g[a] left by an immediate amount into g[d]. -/
  | roti (d a : BitVec 5) (n : BitVec 6)
  /-- R143. Writes a 16-bit value at position 16k of g[d] and clears the other bits. -/
  | lih (d : BitVec 5) (k : BitVec 2) (v : BitVec 16)
  /-- R143. Inserts a 16-bit value at position 16k of g[d], keeping the other bits. -/
  | lihK (d : BitVec 5) (k : BitVec 2) (v : BitVec 16)
  /-- R143. Writes 1 to g[d] if g[a] is below the sign-extended immediate as s64. -/
  | slti (d a : BitVec 5) (i : BitVec 15)
  /-- R143. Writes 1 to g[d] if g[a] is below the sign-extended immediate as n64. -/
  | sltni (d a : BitVec 5) (i : BitVec 15)
  /-- R142. Writes the low 64 bits of the signed product of g[a] and g[b]. -/
  | mul (d a b : BitVec 5)
  /-- R142. Writes the high 64 bits of the signed product. -/
  | mulh (d a b : BitVec 5)
  /-- R142. Writes the high 64 bits of the unsigned product. -/
  | mulhn (d a b : BitVec 5)
  /-- R142. Writes the signed quotient rounded toward zero, with defined results for zero and overflow. -/
  | div (d a b : BitVec 5)
  /-- R142. Writes the unsigned quotient, all ones for a zero divisor. -/
  | divn (d a b : BitVec 5)
  /-- R142. Writes the signed remainder with the sign of the dividend. -/
  | rem (d a b : BitVec 5)
  /-- R142. Writes the unsigned remainder, the dividend for a zero divisor. -/
  | remn (d a b : BitVec 5)
  /-- R144. Branches by a word offset when g[d] equals g[a]. -/
  | beq (d a : BitVec 5) (o : BitVec 16)
  /-- R144. Branches when g[d] differs from g[a]. -/
  | bne (d a : BitVec 5) (o : BitVec 16)
  /-- R144. Branches when g[d] < g[a] as s64. -/
  | blt (d a : BitVec 5) (o : BitVec 16)
  /-- R144. Branches when g[d] ≥ g[a] as s64. -/
  | bge (d a : BitVec 5) (o : BitVec 16)
  /-- R144. Branches when g[d] < g[a] as n64. -/
  | bltn (d a : BitVec 5) (o : BitVec 16)
  /-- R144. Branches when g[d] ≥ g[a] as n64. -/
  | bgen (d a : BitVec 5) (o : BitVec 16)
  /-- R145. Writes the link to g[d] and jumps by a 21-bit word offset. -/
  | jmp (d : BitVec 5) (i : BitVec 21)
  /-- R145. Jumps to g[a] plus an immediate, writing the link, or traps if misaligned. -/
  | jr (d a : BitVec 5) (i : BitVec 16)
  /-- R146. Opens a hardware loop with the count in g[a], skipping the body for a zero count. -/
  | lp (a : BitVec 5) (o : BitVec 15)
  /-- R146. Opens a hardware loop with an immediate count held in the d field. -/
  | lpImmediate (n : BitVec 5) (o : BitVec 15)
  /-- R149. Loads 1 to 8 bytes at base plus offset into g[d], sign- or zero-extended. -/
  | ld (d b : BitVec 5) (z : BitVec 1) (s : BitVec 2) (o : BitVec 12)
  /-- R149. Loads at base plus index register into g[d]. -/
  | ldIndexed (d b : BitVec 5) (z : BitVec 1) (s : BitVec 2) (i : BitVec 5)
  /-- R149. Stores the low bytes of g[s] at base plus offset. -/
  | st (t b : BitVec 5) (s : BitVec 2) (o : BitVec 12)
  /-- R149. Stores the low bytes of g[s] at base plus index register. -/
  | stIndexed (t b : BitVec 5) (s : BitVec 2) (i : BitVec 5)
  /-- R151. Loads a naturally aligned value as an acquire at its scope. -/
  | ldq (d b : BitVec 5) (z : BitVec 1) (s : BitVec 2) (c : BitVec 5) (o : BitVec 7)
  /-- R151. Stores a naturally aligned value as a release at its scope. -/
  | stq (t b : BitVec 5) (s : BitVec 2) (c : BitVec 5) (o : BitVec 7)
  /-- R152. Performs one read-modify-write on an aligned 8-byte word and returns the old value. -/
  | atom (d b : BitVec 5) (k : BitVec 4) (c : BitVec 5) (r : BitVec 2) (s : BitVec 5)
  /-- R153. Compares the word with g[d] and writes g[s] on equality, returning the old value. -/
  | cas (d b c : BitVec 5) (r : BitVec 2) (s : BitVec 5)
  /-- R150. Hints a prefetch of a line to a cache level, with no architectural effect. -/
  | pref (h b : BitVec 5) (o : BitVec 12)
  /-- R154. Orders the named pairs of earlier and later path-C accesses at its scope. -/
  | fence (c : BitVec 5) (p : BitVec 4)
  /-- R155. Waits for the thread's covered writes and orders them before later accesses of the destination paths. -/
  | fencex (c : BitVec 5) (q p : BitVec 4)
  /-- R158. Arrives at a barrier with release and then waits for the generation to complete. -/
  | bar (c : BitVec 5)
  /-- R157. Performs the arrival RMW on the barrier word and returns the generation. -/
  | bara (c d : BitVec 5)
  /-- R157. Waits until the barrier generation differs from g[a], as an acquire. -/
  | barw (c a : BitVec 5)
  /-- R159. Barrier over a declared domain of the level below the named height. -/
  | bard (c : BitVec 5) (k : BitVec 3)
  /-- R160. Adds g[d] to a signal counter as a release RMW at its home. -/
  | sigadd (d a c : BitVec 5)
  /-- R160. Waits until the counter reaches the threshold, as an acquire. -/
  | sigwait (d a c : BitVec 5)
  /-- R161. Arms a wake action on a counter threshold. -/
  | sigarmWake (d a c : BitVec 5)
  /-- R161. Arms a post-record action on a counter threshold. -/
  | sigarmPost (d a b c : BitVec 5)
  /-- R161. Arms a launch-packet action on a counter threshold. -/
  | sigarmLaunch (d a b c : BitVec 5)
  /-- R165. Raises a watermark word to max(old, g[d]) as a release RMW. -/
  | snowpub (d a c : BitVec 5)
  /-- R166. Checks the ring descriptor and pushes a block-transfer request, stalling while the FIFO is full. -/
  | bxq (a : BitVec 5)
  /-- R166. Pushes a block-transfer request or returns 1 when the FIFO is full. -/
  | bxqS (d a : BitVec 5)
  /-- R171. Writes the thread's work identifier to g[d]. -/
  | wid (d : BitVec 5)
  /-- R171. Writes the thread's sibling index at a height to g[d]. -/
  | lvl (d h : BitVec 5)
  /-- R171. Writes the fan-out of a level to g[d]. -/
  | lvln (d h : BitVec 5)
  /-- R172. Writes the index of the physical instance holding the thread at a level. -/
  | phys (d : BitVec 5) (l : BitVec 3)
  /-- R173. Reads a control register into g[d], subject to the access rules. -/
  | crd (d : BitVec 5) (x : BitVec 12)
  /-- R173. Writes g[a] to a control register that has no row of its own, subject to the access rules. -/
  | cwr (a : BitVec 5) (x : BitVec 12)
  /-- R173. Exchanges a control register with g[a], returning the old value in g[d]. -/
  | cxg (d a : BitVec 5) (x : BitVec 12)
  /-- R174. Raises the system-call trap with its code. -/
  | sysc (n : BitVec 15)
  /-- R174. Raises the breakpoint trap with its code. -/
  | brk (n : BitVec 15)
  /-- R176. Requests a scheduler migration to a named class. -/
  | migh (c : BitVec 2)
  /-- R181. Scalar floating-point add, rounded once. -/
  | fadd (d a b : BitVec 5) (f : BitVec 2)
  /-- R181. Scalar floating-point subtract, rounded once. -/
  | fsub (d a b : BitVec 5) (f : BitVec 2)
  /-- R181. Scalar floating-point multiply, rounded once. -/
  | fmul (d a b : BitVec 5) (f : BitVec 2)
  /-- R181. Scalar floating-point divide, rounded once. -/
  | fdiv (d a b : BitVec 5) (f : BitVec 2)
  /-- R181. Scalar floating-point square root, rounded once. -/
  | fsqrt (d a : BitVec 5) (f : BitVec 2)
  /-- R182. Returns the lesser operand with NaN and signed-zero rules. -/
  | fmin (d a b : BitVec 5) (f : BitVec 2)
  /-- R182. Returns the greater operand with NaN and signed-zero rules. -/
  | fmax (d a b : BitVec 5) (f : BitVec 2)
  /-- R183. Writes 1 when the comparison condition holds. -/
  | fcmp (d a b : BitVec 5) (c f : BitVec 2)
  /-- R184. Writes a class word describing the operand. -/
  | fclass (d a : BitVec 5) (f : BitVec 2)
  /-- R185. Replaces the sign bit of x by the selected rule. -/
  | fsgn (d a b : BitVec 5) (g f : BitVec 2)
  /-- R186. Converts from the fmt format to a floating or integer type. -/
  | fcvt (d a : BitVec 5) (t : BitVec 3) (f : BitVec 2)
  /-- R186. Converts an integer of type 4–7 to the fmt format. -/
  | fcvtFromInt (d a : BitVec 5) (t f : BitVec 2)
  /-- R181. Writes g[a]·g[b] + g[c] rounded once. -/
  | fma (d a b c : BitVec 5) (f : BitVec 2)
  /-- R181. Writes g[a]·g[b] − g[c] rounded once. -/
  | fms (d a b c : BitVec 5) (f : BitVec 2)
  /-- R189. Element-wise integer add modulo 2^w. -/
  | vadd (d a b : BitVec 6) (p : BitVec 3) (z : BitVec 1)
  /-- R189. Element-wise integer subtract. -/
  | vsub (d a b : BitVec 6) (p : BitVec 3) (z : BitVec 1)
  /-- R189. Element-wise low-half integer multiply. -/
  | vmul (d a b : BitVec 6) (p : BitVec 3) (z : BitVec 1)
  /-- R189. Element-wise signed high-half multiply. -/
  | vmulh (d a b : BitVec 6) (p : BitVec 3) (z : BitVec 1)
  /-- R189. Element-wise unsigned high-half multiply. -/
  | vmulhn (d a b : BitVec 6) (p : BitVec 3) (z : BitVec 1)
  /-- R189. Element-wise signed minimum. -/
  | vmin (d a b : BitVec 6) (p : BitVec 3) (z : BitVec 1)
  /-- R189. Element-wise signed maximum. -/
  | vmax (d a b : BitVec 6) (p : BitVec 3) (z : BitVec 1)
  /-- R189. Element-wise unsigned minimum. -/
  | vminn (d a b : BitVec 6) (p : BitVec 3) (z : BitVec 1)
  /-- R189. Element-wise unsigned maximum. -/
  | vmaxn (d a b : BitVec 6) (p : BitVec 3) (z : BitVec 1)
  /-- R189. Element-wise bitwise AND. -/
  | vand (d a b : BitVec 6) (p : BitVec 3) (z : BitVec 1)
  /-- R189. Element-wise bitwise OR. -/
  | vor (d a b : BitVec 6) (p : BitVec 3) (z : BitVec 1)
  /-- R189. Element-wise bitwise XOR. -/
  | vxor (d a b : BitVec 6) (p : BitVec 3) (z : BitVec 1)
  /-- R189. Element-wise left shift. -/
  | vsll (d a b : BitVec 6) (p : BitVec 3) (z : BitVec 1)
  /-- R189. Element-wise logical right shift. -/
  | vsrl (d a b : BitVec 6) (p : BitVec 3) (z : BitVec 1)
  /-- R189. Element-wise arithmetic right shift. -/
  | vsra (d a b : BitVec 6) (p : BitVec 3) (z : BitVec 1)
  /-- R189. Element-wise multiply-accumulate into vd. -/
  | vmacc (d a b : BitVec 6) (p : BitVec 3) (z : BitVec 1)
  /-- R189. Element-wise signed saturating add. -/
  | vsadd (d a b : BitVec 6) (p : BitVec 3) (z : BitVec 1)
  /-- R189. Element-wise signed saturating subtract. -/
  | vssub (d a b : BitVec 6) (p : BitVec 3) (z : BitVec 1)
  /-- R189. Element-wise unsigned saturating add. -/
  | vsaddn (d a b : BitVec 6) (p : BitVec 3) (z : BitVec 1)
  /-- R189. Element-wise unsigned saturating subtract. -/
  | vssubn (d a b : BitVec 6) (p : BitVec 3) (z : BitVec 1)
  /-- R189. Element-wise signed absolute value. -/
  | vabs (d a : BitVec 6) (p : BitVec 3) (z : BitVec 1)
  /-- R189. Element-wise leading-zero count. -/
  | vclz (d a : BitVec 6) (p : BitVec 3) (z : BitVec 1)
  /-- R189. Element-wise population count. -/
  | vpopc (d a : BitVec 6) (p : BitVec 3) (z : BitVec 1)
  /-- R191. Element-wise floating-point add. -/
  | vfadd (d a b : BitVec 6) (p : BitVec 3) (z : BitVec 1)
  /-- R191. Element-wise floating-point subtract. -/
  | vfsub (d a b : BitVec 6) (p : BitVec 3) (z : BitVec 1)
  /-- R191. Element-wise floating-point multiply. -/
  | vfmul (d a b : BitVec 6) (p : BitVec 3) (z : BitVec 1)
  /-- R191. Element-wise floating-point minimum. -/
  | vfmin (d a b : BitVec 6) (p : BitVec 3) (z : BitVec 1)
  /-- R191. Element-wise floating-point maximum. -/
  | vfmax (d a b : BitVec 6) (p : BitVec 3) (z : BitVec 1)
  /-- R191. Clears the sign bit of each element. -/
  | vfabs (d a : BitVec 6) (p : BitVec 3) (z : BitVec 1)
  /-- R191. Inverts the sign bit of each element. -/
  | vfneg (d a : BitVec 6) (p : BitVec 3) (z : BitVec 1)
  /-- R191. Element-wise fused va·vb + vd. -/
  | vfma (d a b : BitVec 6) (p : BitVec 3) (z : BitVec 1)
  /-- R191. Element-wise fused −(va·vb) + vd. -/
  | vfnma (d a b : BitVec 6) (p : BitVec 3) (z : BitVec 1)
  /-- R192. Writes predicate bits from an integer compare. -/
  | vcmp (c q : BitVec 3) (a b : BitVec 6) (p : BitVec 3) (z : BitVec 1)
  /-- R192. Writes predicate bits from a floating-point compare. -/
  | vfcmp (c q : BitVec 3) (a b : BitVec 6) (p : BitVec 3) (z : BitVec 1)
  /-- R193. Selects each element from va or vb by a predicate. -/
  | vsel (d a b : BitVec 6) (p : BitVec 3)
  /-- R194. Combines two predicates bit by bit. -/
  | plog (o q a b p : BitVec 3) (z : BitVec 1)
  /-- R195. Counts set predicate bits into g[d]. -/
  | pcnt (d : BitVec 5) (a p : BitVec 3)
  /-- R196. Branches when any tested predicate bit below vcount is set. -/
  | bpany (o : BitVec 18) (p : BitVec 3)
  /-- R196. Branches when no tested predicate bit below vcount is set. -/
  | bpnone (o : BitVec 18) (p : BitVec 3)
  /-- R197. Copies va to vd in each active element. -/
  | vmov (d a : BitVec 6) (p : BitVec 3) (z : BitVec 1)
  /-- R198. Converts elements of vform to a type T, including MX blocks. -/
  | vcvtTo (d a : BitVec 6) (s : BitVec 1) (t : BitVec 5) (p : BitVec 3) (z : BitVec 1)
  /-- R198. Converts elements of type T to vform, including MX and rime-2 decode. -/
  | vcvtFrom (d a : BitVec 6) (s : BitVec 1) (t : BitVec 5) (p : BitVec 3) (z : BitVec 1)
  /-- R197. Writes each active element's index. -/
  | vidx (d : BitVec 6) (p : BitVec 3) (z : BitVec 1)
  /-- R197. Extracts one element into g[d]. -/
  | vext (d : BitVec 5) (a : BitVec 6) (i : BitVec 5)
  /-- R201. Unit-stride vector load. -/
  | vld (d : BitVec 6) (b : BitVec 5) (p : BitVec 3) (z n : BitVec 1)
  /-- R201. Unit-stride vector store. -/
  | vst (s : BitVec 6) (b : BitVec 5) (p : BitVec 3) (z n : BitVec 1)
  /-- R201. Strided vector load. -/
  | vlds (d : BitVec 6) (b r : BitVec 5) (p : BitVec 3) (z n : BitVec 1)
  /-- R201. Strided vector store. -/
  | vsts (s : BitVec 6) (b r : BitVec 5) (p : BitVec 3) (z n : BitVec 1)
  /-- R204. First-fault vector load that trims vcount at a later faulting element. -/
  | vldf (d : BitVec 6) (b : BitVec 5) (p : BitVec 3) (z n : BitVec 1)
  /-- R190. Adds a scalar or immediate to each element. -/
  | vaddScalar (d a : BitVec 6) (g : BitVec 5) (p : BitVec 3) (z m : BitVec 1)
  /-- R190. Subtracts a scalar or immediate from each element. -/
  | vsubScalar (d a : BitVec 6) (g : BitVec 5) (p : BitVec 3) (z m : BitVec 1)
  /-- R190. Multiplies each element by a scalar or immediate. -/
  | vmulScalar (d a : BitVec 6) (g : BitVec 5) (p : BitVec 3) (z m : BitVec 1)
  /-- R190. Signed minimum with a scalar. -/
  | vminScalar (d a : BitVec 6) (g : BitVec 5) (p : BitVec 3) (z m : BitVec 1)
  /-- R190. Signed maximum with a scalar. -/
  | vmaxScalar (d a : BitVec 6) (g : BitVec 5) (p : BitVec 3) (z m : BitVec 1)
  /-- R190. Unsigned minimum with a scalar. -/
  | vminnScalar (d a : BitVec 6) (g : BitVec 5) (p : BitVec 3) (z m : BitVec 1)
  /-- R190. Unsigned maximum with a scalar. -/
  | vmaxnScalar (d a : BitVec 6) (g : BitVec 5) (p : BitVec 3) (z m : BitVec 1)
  /-- R190. Bitwise AND with a scalar. -/
  | vandScalar (d a : BitVec 6) (g : BitVec 5) (p : BitVec 3) (z m : BitVec 1)
  /-- R190. Bitwise OR with a scalar. -/
  | vorScalar (d a : BitVec 6) (g : BitVec 5) (p : BitVec 3) (z m : BitVec 1)
  /-- R190. Bitwise XOR with a scalar. -/
  | vxorScalar (d a : BitVec 6) (g : BitVec 5) (p : BitVec 3) (z m : BitVec 1)
  /-- R190. Left shift by a scalar amount. -/
  | vsllScalar (d a : BitVec 6) (g : BitVec 5) (p : BitVec 3) (z m : BitVec 1)
  /-- R190. Logical right shift by a scalar amount. -/
  | vsrlScalar (d a : BitVec 6) (g : BitVec 5) (p : BitVec 3) (z m : BitVec 1)
  /-- R190. Arithmetic right shift by a scalar amount. -/
  | vsraScalar (d a : BitVec 6) (g : BitVec 5) (p : BitVec 3) (z m : BitVec 1)
  /-- R190. Floating-point add of a scalar from g[gs]. -/
  | vfaddScalar (d a : BitVec 6) (g : BitVec 5) (p : BitVec 3) (z : BitVec 1)
  /-- R190. Floating-point multiply by a scalar from g[gs]. -/
  | vfmulScalar (d a : BitVec 6) (g : BitVec 5) (p : BitVec 3) (z : BitVec 1)
  /-- R190. Writes a scalar or immediate into every active element. -/
  | vbcast (d : BitVec 6) (g : BitVec 5) (p : BitVec 3) (z m : BitVec 1)
  /-- R187. Sets the active VL grant within the launch range and returns the new vcount. -/
  | vconf (d g : BitVec 5) (m : BitVec 1)
  /-- R188. Ends a pipelined iteration: decrements the counter, rotates registers and stage predicates. -/
  | vloop (g : BitVec 5)
  /-- R217. Copies a deep-file entry into a vector register. -/
  | vrget (d : BitVec 6) (g : BitVec 5)
  /-- R217. Copies a vector register into a deep-file entry. -/
  | vrput (s : BitVec 6) (g : BitVec 5)
  /-- R207. Element-wise correctly rounded divide. -/
  | vfdiv (d a b : BitVec 6) (p : BitVec 3) (z : BitVec 1)
  /-- R207. Element-wise correctly rounded square root. -/
  | vfsqrt (d a : BitVec 6) (p : BitVec 3) (z : BitVec 1)
  /-- R207. Element-wise correctly rounded 2^a. -/
  | vfexp2 (d a : BitVec 6) (p : BitVec 3) (z : BitVec 1)
  /-- R207. Element-wise correctly rounded log2 a. -/
  | vflog2 (d a : BitVec 6) (p : BitVec 3) (z : BitVec 1)
  /-- R207. Element-wise correctly rounded tanh a. -/
  | vftanh (d a : BitVec 6) (p : BitVec 3) (z : BitVec 1)
  /-- R208. Element-wise signed integer divide. -/
  | vdiv (d a b : BitVec 6) (p : BitVec 3) (z : BitVec 1)
  /-- R208. Element-wise unsigned integer divide. -/
  | vdivn (d a b : BitVec 6) (p : BitVec 3) (z : BitVec 1)
  /-- R208. Element-wise signed remainder. -/
  | vrem (d a b : BitVec 6) (p : BitVec 3) (z : BitVec 1)
  /-- R208. Element-wise unsigned remainder. -/
  | vremn (d a b : BitVec 6) (p : BitVec 3) (z : BitVec 1)
  /-- R216. Writes counter-based random bits into each active element. -/
  | vrng (d : BitVec 6) (g : BitVec 5) (p : BitVec 3) (z : BitVec 1)
  /-- R209. Exchanges elements with the butterfly partner at distance 2^k. -/
  | vxch (d a : BitVec 6) (k p : BitVec 3) (z : BitVec 1)
  /-- R210. Permutes elements by an index vector. -/
  | vpermIx (d a b : BitVec 6) (p : BitVec 3) (z : BitVec 1)
  /-- R210. Permutes elements into bit-reversed order. -/
  | vpermBr (d a : BitVec 6) (p : BitVec 3) (z : BitVec 1)
  /-- R211. Slides elements up by n, filling with zero. -/
  | vslideUp (d a : BitVec 6) (n : BitVec 5) (p : BitVec 3) (z : BitVec 1)
  /-- R211. Slides elements down by n, filling with zero. -/
  | vslideDn (d a : BitVec 6) (n : BitVec 5) (p : BitVec 3) (z : BitVec 1)
  /-- R212. Packs the selected elements to the low positions. -/
  | vcompact (d a : BitVec 6) (p : BitVec 3) (z : BitVec 1)
  /-- R212. Unpacks low elements into the selected positions. -/
  | vexpand (d a : BitVec 6) (p : BitVec 3) (z : BitVec 1)
  /-- R214. Writes an inclusive or exclusive tree scan of the elements. -/
  | vscan (d a : BitVec 6) (e : BitVec 1) (o p : BitVec 3) (z : BitVec 1)
  /-- R215. Writes a tree reduction of the elements to element 0. -/
  | vred (d a : BitVec 6) (o p : BitVec 3) (z : BitVec 1)
  /-- R222. Gathers elements from base plus index-vector offsets. -/
  | vgath (d : BitVec 6) (b : BitVec 5) (i : BitVec 6) (p : BitVec 3) (z c : BitVec 1)
  /-- R222. Scatters elements to base plus index-vector offsets. -/
  | vscat (s : BitVec 6) (b : BitVec 5) (i : BitVec 6) (p : BitVec 3) (z c : BitVec 1)
  /-- R224. Sends a combining RMW of each element to its home on path R. -/
  | vscadd (s : BitVec 6) (b : BitVec 5) (i : BitVec 6) (p : BitVec 3) (z c : BitVec 1)
  /-- R227. Sends tagged unit-stride combining updates to their homes on path R. -/
  | vrdst (s : BitVec 6) (b t : BitVec 5) (p : BitVec 3) (z : BitVec 1)
  /-- R229. Loads whole MX or rime-2 segments with their scales. -/
  | vldseg (d : BitVec 6) (b t : BitVec 5) (p : BitVec 3) (z : BitVec 1)
  /-- R229. Stores whole MX or rime-2 segments with their scales. -/
  | vstseg (s : BitVec 6) (b t : BitVec 5) (p : BitVec 3) (z : BitVec 1)
  /-- R240. Multiplies A and B névé tiles into an accumulator tile on the row schedule. -/
  | tmma (w c : BitVec 3) (a b : BitVec 5)
  /-- R239. Tile multiply with A rows gathered by an index vector. -/
  | tmmagM (w c : BitVec 3) (a b : BitVec 5) (v : BitVec 6)
  /-- R239. Tile multiply with B slices gathered by an index vector. -/
  | tmmagK (w c : BitVec 3) (a b : BitVec 5) (v : BitVec 6)
  /-- R241. Tile multiply with A in 2:4 sparse form. -/
  | tmmas (w c : BitVec 3) (a b : BitVec 5)
  /-- R253. Copies 32 rows from memory into the névé. -/
  | tload (w : BitVec 3) (a b s : BitVec 5)
  /-- R253. Copies 32 rows from the névé to memory. -/
  | tstore (w : BitVec 3) (a b s : BitVec 5)
  /-- R249. Zeroes every element of an accumulator tile. -/
  | tzero (w c : BitVec 3)
  /-- R252. Converts an accumulator tile by a descriptor and writes it to the névé. -/
  | tacc (w c : BitVec 3) (a b : BitVec 5)
  /-- R250. Adds a névé tile into an accumulator tile. -/
  | tadda (w c : BitVec 3) (a : BitVec 5)
  /-- R242. Compresses dense rows into 2:4 form with metadata. -/
  | tcmp (w : BitVec 3) (a b : BitVec 5)
  /-- R254. Decodes 32 rime-2 blocks into rows of the tfb format. -/
  | tdec (w : BitVec 3) (a b : BitVec 5)
  /-- R255. Transposes a 32 × 32 tile in the névé. -/
  | ttrn (w : BitVec 3) (a b : BitVec 5)
  /-- R268. Stages 256 névé bytes and binds them to the slot's departure in the current window. -/
  | xsend (w : BitVec 3) (g : BitVec 5) (k : BitVec 8)
  /-- R268. Consumes a fresh arrival of the slot or waits for the next one. -/
  | xrecv (w : BitVec 3) (k : BitVec 8)
  /-- R268. Waits until an issue window of the owned slot opens. -/
  | xwait (w : BitVec 3) (k : BitVec 8)
  /-- R268. Writes the frame number and frame position to g[d]. -/
  | xslot (w : BitVec 3) (g : BitVec 5)
  /-- R268. Consumes a fresh arrival or takes a slot fault without waiting. -/
  | xrecvS (w : BitVec 3) (k : BitVec 8)
  /-- R295. Removes the translations of one PASID. -/
  | tlbinvP (a : BitVec 5)
  /-- R295. Removes the leaf of one PASID that covers an address. -/
  | tlbinvPv (a b : BitVec 5)
  /-- R293. Stops a target thread, writes its image and makes it held. -/
  | ctxsave (a b : BitVec 5)
  /-- R293. Checks an image and loads it into a held target, making it runnable. -/
  | ctxload (a b : BitVec 5)
  /-- R294. Makes a scheduler migration of a thread to a named core. -/
  | migr (a b : BitVec 5)
  /-- R294. Sets an interrupt line of a target thread as a release at SYSTEM. -/
  | ipi (a b : BitVec 5)
  /-- R120. A fetched word whose major, sub-field or field marked 0 holds an unassigned value raises the illegal-instruction trap on every class. -/
  | unassignedEncoding (word : BitVec 32)
  /-- R121. A major-0x1E word with a hint code other than 0 or 1 executes as a no-operation, retires and ends its convoy. -/
  | hint (code : BitVec 26)
  /-- R155. A waiting FENCEX finishes once the thread's block transfers and remote deliveries have completed. -/
  | fencexComplete
  /-- R157. A thread waiting in BARW or a barrier's wait half completes when it reads a new generation. -/
  | barrierWaitComplete
  /-- R109. A waiting SIGWAIT completes when a read of its counter meets its threshold. -/
  | sigwaitComplete
  /-- R162. A SIGARM stalled on a full action table resumes once a firing frees an entry. -/
  | sigarmTableFree
  /-- R107. A stalled governed vector element proceeds once the watermark exceeds its index. -/
  | snowlineRelease
  /-- R166. A blocking BXQ stalled on a full command FIFO re-executes once an entry frees. -/
  | bxqFifoFree
  /-- R169. An engine starts the next request of a context's FIFO, refusing it if a field is bad. -/
  | bxqRequestStart
  /-- R169. An engine translates and commits one destination page of a request, or ends it on a fault. -/
  | bxqPage
  /-- R169. A finished request posts its completion record in FIFO order, waiting while the ring is full. -/
  | bxqCompletionRecord
  /-- R435. A held device access is retried each millisecond or after TLBINV or fqresume, until it succeeds. -/
  | heldAccessRetry
  /-- R64. A write to vform reinterprets the vector registers and resets vcount to G divided by the new width. -/
  | vformWrite
  /-- R175. Gives up the context's issue slot for at least one core cycle. -/
  | yield
  /-- R290. Returns from supervisor level to the trap state, or ends the thread when end is set. -/
  | tret
  /-- R291. Waits until an unmasked interrupt line is pending. -/
  | idle
  /-- R291. A waiting IDLE completes when an unmasked line becomes pending. -/
  | idleComplete
  /-- R121. Hint code 0, executing as a no-operation that ends a convoy. -/
  | nop
  /-- R121. Convoy break hint, whose only effect is ending the convoy. -/
  | cvb
  /-- R218. Waits until every cluster of the thread has completed its earlier instructions. -/
  | vsync
  /-- R224. A home L2 bank applies an arriving VSCADD or VRDST element update as one RMW. -/
  | homeCombine
  /-- R253. The transfer unit moves one row of a running TLOAD or TSTORE. -/
  | tileRowTransfer
  /-- R247. A running T instruction finishes its last row, frees its unit and clears tresume. -/
  | tensorComplete
  /-- R268. A waiting XWAIT completes when the slot's next issue window opens. -/
  | xwaitComplete
  /-- R261. At each departure cycle a slot sends its bound bytes, or is void. -/
  | slotDeparture
  /-- R265. At each arrival cycle bound bytes are written to the receiver and fresh is set, completing a waiting XRECV. -/
  | slotArrival
  /-- R295. Removes all translations of the partition. -/
  | tlbinv
  /-- R312. A TLBINV completes once every access translated by a removed entry has performed. -/
  | tlbinvComplete
  /-- R293. A CTXSAVE completes when the target's image has been written. -/
  | ctxsaveComplete
  /-- R15. The streamer moves the thread's context to the nearest eligible core, writing back névé as needed. -/
  | trapMigration
  /-- R336. A freed context is given to the earliest FIFO waiter whose mask contains it. -/
  | arbiterFifoGrant
  /-- R336. A thread in transit is restored at the destination and resumes execution. -/
  | migrationArrive
  /-- R18. The scheduler moves a resident thread to another class or retries the move at a boundary. -/
  | schedulerMigration
  /-- R24. mighold instructions without proxy or trap migration release the anchor. -/
  | anchorRelease
  /-- R25. A proxy slot serves a queued request in arrival order. -/
  | proxyService
  /-- R23. The proxied result returns and the core writes the destination and flags. -/
  | proxyResult
  /-- R32. A convoy completes, releasing its held memory writes and register values. -/
  | convoyComplete
  /-- R409. A watched store with stop set stops its thread within a skid of 64 instructions. -/
  | sliceWatchStop
  /-- R292. A pending unmasked line is taken at a stop point with ie set and tip clear. -/
  | interrupt
  /-- R284. Line 8 becomes pending when cyc reaches tcmp. -/
  | timerCompareMatch
  /-- R303. The host's ATS completion supplies a 4 KiB translation to a waiting access. -/
  | atsCompletion
  /-- R304. The host's page response retries the translation or fails the access. -/
  | priResponse
  /-- R305. The host's ATS invalidation removes cached translations and completes after affected accesses perform. -/
  | atsInvalidation
  /-- R309. A waiting fault record is posted when its ring has space or a valid descriptor. -/
  | faultRecordPost
  /-- R310. A write of act 0 makes a parked thread re-execute its instruction. -/
  | fqresumeRetry
  /-- R310. A write of act 1 ends a parked thread. -/
  | fqresumeEnd
  /-- R310. A write of act 2 makes a parked thread held. -/
  | fqresumeHold
  /-- R310. A write to fqdesc installs the fault ring and releases waiting records. -/
  | fqdescWrite
  /-- R309. A written 1 clears the fqstat overflow bit. -/
  | fqstatClear
  /-- R284. A written 1 clears pending interrupt lines other than line 8. -/
  | ipendClear
  /-- R317. A write to a ring's kick register is accepted as the new tail or discarded and counted. -/
  | kickWrite
  /-- R319. A NOP packet is consumed and does nothing else. -/
  | packetNop
  /-- R319. A SIGNAL packet adds its value to a counter at SYSTEM and posts its record. -/
  | packetSignal
  /-- R319. A LAUNCH packet reads its header and starts a launch, or is refused. -/
  | packetLaunch
  /-- R326. A waiting launch's dependence counter reaches its threshold. -/
  | dependenceMet
  /-- R334. A launch is admitted once capacity and the energy account allow it. -/
  | launchAdmit
  /-- R330. A waiting gang is placed on free cores and made resident. -/
  | gangDispatch
  /-- R320. A launch whose threads have all ended posts its completion record and csig add. -/
  | launchCompletion
  /-- R332. A gang resident for its slice becomes pre-emptible for a waiting gang of equal priority. -/
  | sliceExpiry
  /-- R338. The command processor stops a gang, writes back névé, saves each thread and frees the contexts. -/
  | preemption
  /-- R335. Each 10 µs meter update adjusts the partition's issue cap and energy admission. -/
  | energyMeterUpdate
  /-- R423. A delivery from another package is applied in the receiving device context or refused. -/
  | remoteDeliveryReceive
  /-- R423. An acknowledgement completes a remote element, or a negative one produces a delivery record. -/
  | remoteAck
  /-- R423. A remote element unacknowledged within 100 ms produces a delivery record. -/
  | remoteTimeout
  /-- R342. A detected error is corrected, poisons its unit, or escalates by class. -/
  | eccError
  /-- R350. A flit failing its CRC is retransmitted as a corrected error. -/
  | linkCrcRetry
  /-- R350. A failed GCM tag resets the owning partition or every partition. -/
  | linkIntegrityFailure
  /-- R352. A stop not honoured within 1 ms is partition-fatal. -/
  | stopWatchdogExpiry
  /-- R353. A partition stops, aborts its work, destroys contexts, scrubs memory, rekeys and reports ready. -/
  | partitionReset
  /-- R371. The home handles a GetS request for a line. -/
  | homeGets
  /-- R371. The home handles a GetM request for a line. -/
  | homeGetm
  /-- R371. The home handles an upgrade request for a line. -/
  | homeUpg
  /-- R371. The home handles a PutM write-back. -/
  | homePutm
  /-- R371. The home handles a PutO write-back. -/
  | homePuto
  /-- R371. The home handles a PutE. -/
  | homePute
  /-- R371. The home collects an invalidation acknowledgement and completes a pending transaction. -/
  | homeInvAck
  /-- R372. The home takes an owner's forward reply and relays the data to the requester. -/
  | homeFwdReply
  /-- R362. A directory-cache miss completes its read of the entry from the home's metadata. -/
  | directoryFill
  /-- R372. An agent receives an invalidation, drops its copy and acknowledges. -/
  | agentInv
  /-- R372. An agent receives FwdGetS and supplies data to the home. -/
  | agentFwdgets
  /-- R372. An agent receives FwdGetM, supplies data and goes to I. -/
  | agentFwdgetm
  /-- R372. An agent receives Data-S and holds the line in S. -/
  | agentDataS
  /-- R373. An agent receives Data-E, holds E and performs its access. -/
  | agentDataE
  /-- R373. An agent receives Data-M, holds M and performs its store. -/
  | agentDataM
  /-- R373. An agent receives UpgAck, holds M and performs its store. -/
  | agentUpgack
  /-- R372. An agent receives PutAck and goes to I. -/
  | agentPutack
  /-- R374. An L2 or firn eviction moves the line to firn or issues a Put. -/
  | agentEviction
  /-- R383. Events, engines and moves waiting on a full moraine ring proceed once space frees. -/
  | moraineRingSpace
  /-- R382. A write to mrdesc installs the moraine ring and releases waiting records. -/
  | mrdescWrite
  /-- R382. A written 1 clears the mrstat high-water bit. -/
  | mrstatClear
  /-- R386. A replayed access or device record performs when all lower-numbered accesses to its object have. -/
  | replayTurn
  /-- R391. A write of 1 to mpctl free ends replay enforcement. -/
  | mpctlFree
  /-- R406. Setting en installs a slice watchpoint or refuses it with a status. -/
  | dsmInstall
  /-- R406. Clearing en removes a slice watchpoint's comparators. -/
  | dsmRemove
  /-- R406. A write to dsa while installed removes and re-installs the watchpoint. -/
  | dsaWrite
  /-- R368. A write to ttq makes ttr report the travel time of a core pair. -/
  | ttqWrite
  /-- R416. A host write to a CXL.io register without its own row is performed or discarded. -/
  | mmioRegisterWrite
  /-- R425. Returns the module identity, blend, enables and firmware versions. -/
  | identify
  /-- R425. Assigns spokes, windows, ports and exchange channels to a partition and resets it. -/
  | setPartition
  /-- R425. Resets a partition with reason 0x01. -/
  | resetPartition
  /-- R425. Sets a partition's energy budget. -/
  | setBudget
  /-- R368. Chooses the firn carve-out for the next partition reset. -/
  | setCarveout
  /-- R354. Registers a partition's abort ring. -/
  | setAbortRing
  /-- R314. Creates a device context from its descriptor and negotiates capabilities. -/
  | createDctx
  /-- R425. Destroys a device context and discards its armed actions. -/
  | destroyDctx
  /-- R316. Rereads a ring descriptor, enabling or disabling the ring. -/
  | updateRing
  /-- R314. Updates the thread that receives lines 9–11 and delivers held lines. -/
  | setIroute
  /-- R419. Maps a second-tier memory window across ports. -/
  | setCxlWindow
  /-- R422. Writes a partition's node or rack endpoint table. -/
  | setEndpoint
  /-- R426. Returns a record for each sensor. -/
  | readSensors
  /-- R356. Returns entries of the persistent error log. -/
  | readLog
  /-- R427. Writes the inactive firmware slot. -/
  | fwWrite
  /-- R427. Verifies the inactive slot and marks it active from the next reset. -/
  | fwActivate
  /-- R428. Verifies a signed supervisor image and copies it into write-protected partition memory. -/
  | loadSupervisor
  /-- R427. Replaces the owner key given a valid signature. -/
  | setOwner
  /-- R426. A sensor update caps a hot die's issue or escalates an overheat to module-fatal. -/
  | sensorUpdate
  /-- R420. A second-tier port link loss is partition-fatal to partitions with windows on it. -/
  | cxlPortFailure
  /-- R432. Power-on or module reset runs bring-up to the controller's ready report. -/
  | moduleReset
  /-- R427. Firmware not ready within 2 s makes the controller fall back to the other slot. -/
  | fwBootTimeout
  /-- R246. At its scheduled core cycle a running multiply or accumulator instruction reads or writes one accumulator row, and a waiting stop may land at that row boundary. -/
  | accumulatorRowAccess
  /-- R423. An Ultra Ethernet port's link goes down or comes up, which changes the port that later remote deliveries use. -/
  | ultraEthernetLinkChange
  /-- R310. An invalidation request from the host driver through a device context has the effect of TLBINV. -/
  | hostInvalidationRequest
  deriving DecidableEq, Repr

end Sys2Proof
end

