-- ==== Sys2Proof/WellFormed.lean ====
section
/-! DEFINITION. Which terms of Instr are instructions of the map: the sub-field values that R5, R120, R123 to R129
leave unassigned are ill-formed. Every other limit of a field is its width in Syntax. -/

namespace Sys2Proof

/-- Element type codes of VCVT, R127: 0x12 and 0x16 to 0x1F are unassigned. -/
def cvtType (t : BitVec 5) : Bool := decide (t.toNat ≤ 0x15) && decide (t.toNat ≠ 0x12)

/-- Element type codes of VLDSEG and VSTSEG, R228: 0x0D to 0x11 and 0x13. -/
def segType (t : BitVec 5) : Bool :=
  (decide (0x0D ≤ t.toNat) && decide (t.toNat ≤ 0x11)) || decide (t.toNat = 0x13)

/-- Whether every sub-field of the instruction holds an assigned value (R120). An event is always well formed. -/
def Instr.wellFormed : Instr → Bool
  -- R123: the offset 0 is unassigned, and the register form has a ≠ 0
  | .lp a o => decide (a ≠ 0) && decide (o ≠ 0)
  | .lpImmediate _ o => decide (o ≠ 0)
  -- R123: .dn is unassigned
  | .ld _ _ z s _ | .ldIndexed _ _ z s _ | .ldq _ _ z s _ _ => !(decide (z = 1) && decide (s = 3))
  -- R123: op 9 is CAS, 10 to 15 are unassigned
  | .atom _ _ k _ _ _ => decide (k.toNat ≤ 8)
  -- R124
  | .pref h _ _ => decide (h.toNat ≤ 2)
  -- R124 table: non-zero pairs and masks
  | .fence _ p => decide (p ≠ 0)
  | .fencex _ q p => decide (q ≠ 0) && decide (p ≠ 0)
  -- R125: four request registers from a, 1 to 28
  | .bxq a | .bxqS _ a => decide (1 ≤ a.toNat) && decide (a.toNat ≤ 28)
  | .lvl _ h | .lvln _ h => decide (h.toNat ≠ 31)
  | .migh c => decide (c ≠ 0)
  -- R126: .AB reads no y
  | .fsgn _ _ b g _ => decide (g ≠ 3) || decide (b = 0)
  -- R127
  | .vcmp c _ _ _ _ _ => decide (c.toNat ≤ 5)
  | .vfcmp c _ _ _ _ _ => decide (c.toNat ≤ 6)
  | .vcvtTo _ _ _ t _ _ | .vcvtFrom _ _ _ t _ _ => cvtType t
  | .vscan _ _ _ o _ _ | .vred _ _ o _ _ => decide (o.toNat ≤ 5)
  -- R187: the immediate form takes 7 to 11
  | .vconf _ g m => decide (m = 0) || (decide (7 ≤ g.toNat) && decide (g.toNat ≤ 11))
  | .vldseg _ _ t _ _ | .vstseg _ _ t _ _ => segType t
  -- R121: codes 0 and 1 are NOP and CVB
  | .hint code => decide (2 ≤ code.toNat)
  | _ => true

end Sys2Proof
end

