-- ==== Sys2Proof/Decode.lean ====
section
/-! DEFINITION. Decode step 1 of R13: the formats (R118, R119), the major map (R120) and the function tables
(R123 to R129). `decode` is total: a word that no row assigns is rejected by name. `encode` writes the word of a
well-formed instruction from the same tables. -/

namespace Sys2Proof

/-- Why decode step 1 rejects a word (R120). -/
inductive DecodeError where
  /-- the major is illegal or reserved -/
  | majorUnassigned
  /-- the function, kind or mode field holds a value that no row assigns -/
  | functionUnassigned
  /-- a condition, type, operation or other sub-field holds an unassigned value -/
  | subfieldUnassigned
  /-- a field marked 0 is not zero -/
  | zeroFieldSet
  deriving DecidableEq, Repr

/-- The result of decode step 1. -/
abbrev Decoded := Except DecodeError Instr

/-! ### Fields (R118) -/

/-- Bits [lo+n-1:lo] of a word. -/
def field (w : BitVec 32) (lo n : Nat) : BitVec n := w.extractLsb' lo n

/-- A word's major opcode, bits [31:26]. -/
def major (w : BitVec 32) : BitVec 6 := field w 26 6

/-- Accept `i` when every field marked 0 is zero. -/
def zeros (z : Bool) (i : Instr) : Decoded := if z then .ok i else .error .zeroFieldSet

/-- Accept `i` when its sub-fields hold assigned values. -/
def assigned (i : Instr) : Decoded := if i.wellFormed then .ok i else .error .subfieldUnassigned

/-- As `assigned`, with fields marked 0 checked first. -/
def zerosAssigned (z : Bool) (i : Instr) : Decoded := if z then assigned i else .error .zeroFieldSet

/-! ### Base group (R123 to R125) -/

/-- Major 0x01. -/
def decodeInt (w : BitVec 32) : Decoded :=
  let d := field w 21 5; let a := field w 16 5; let b := field w 11 5
  let u := decide (b = 0)
  match (field w 0 11).toNat with
  | 0x000 => .ok (.add d a b) | 0x001 => .ok (.sub d a b) | 0x002 => .ok (.and d a b) | 0x003 => .ok (.or d a b)
  | 0x004 => .ok (.xor d a b) | 0x005 => .ok (.andn d a b) | 0x006 => .ok (.sll d a b) | 0x007 => .ok (.srl d a b)
  | 0x008 => .ok (.sra d a b) | 0x009 => .ok (.rot d a b) | 0x00A => .ok (.slt d a b) | 0x00B => .ok (.sltn d a b)
  | 0x00C => .ok (.min d a b) | 0x00D => .ok (.max d a b) | 0x00E => .ok (.minn d a b) | 0x00F => .ok (.maxn d a b)
  | 0x010 => zeros u (.clz d a) | 0x011 => zeros u (.ctz d a) | 0x012 => zeros u (.popc d a) | 0x013 => zeros u (.brev d a)
  | 0x014 => zeros u (.sextB d a) | 0x015 => zeros u (.sextH d a) | 0x016 => zeros u (.sextW d a)
  | 0x018 => zeros u (.zextB d a) | 0x019 => zeros u (.zextH d a) | 0x01A => zeros u (.zextW d a)
  | _ => .error .functionUnassigned

/-- Major 0x09. -/
def decodeMul (w : BitVec 32) : Decoded :=
  let d := field w 21 5; let a := field w 16 5; let b := field w 11 5
  match (field w 0 11).toNat with
  | 0 => .ok (.mul d a b) | 1 => .ok (.mulh d a b) | 2 => .ok (.mulhn d a b) | 3 => .ok (.div d a b)
  | 4 => .ok (.divn d a b) | 5 => .ok (.rem d a b) | 6 => .ok (.remn d a b)
  | _ => .error .functionUnassigned

/-- Major 0x06: imm16[15:14] selects, imm16[13:6] = 0. -/
def decodeShift (w : BitVec 32) : Decoded :=
  let d := field w 21 5; let a := field w 16 5; let n := field w 0 6
  let z := decide (field w 6 8 = 0)
  match (field w 14 2).toNat with
  | 0 => zeros z (.slli d a n) | 1 => zeros z (.srli d a n) | 2 => zeros z (.srai d a n) | _ => zeros z (.roti d a n)

/-- Major 0x07: LIH. -/
def decodeLih (w : BitVec 32) : Decoded :=
  let d := field w 21 5; let k := field w 19 2; let v := field w 0 16
  let z := decide (field w 16 2 = 0)
  if field w 18 1 = 1 then zeros z (.lihK d k v) else zeros z (.lih d k v)

/-- Major 0x12: LP. -/
def decodeLp (w : BitVec 32) : Decoded :=
  let n := field w 21 5; let a := field w 16 5; let o := field w 0 15
  if field w 15 1 = 1 then .error .subfieldUnassigned
  else if a = 0 then assigned (.lpImmediate n o)
  else zerosAssigned (decide (n = 0)) (.lp a o)

/-- Majors 0x13 and 0x14: LD and ST, unindexed and indexed. -/
def decodeLoadStore (st : Bool) (w : BitVec 32) : Decoded :=
  let d := field w 21 5; let b := field w 16 5
  let z := field w 14 1; let s := field w 12 2
  if st && decide (z = 1) then .error .functionUnassigned
  else if field w 15 1 = 1 then
    let i := field w 0 5
    zerosAssigned (decide (field w 5 7 = 0)) (if st then .stIndexed d b s i else .ldIndexed d b z s i)
  else
    let o := field w 0 12
    assigned (if st then .st d b s o else .ld d b z s o)

/-- Major 0x15: LDQ and STQ. -/
def decodeOrdered (w : BitVec 32) : Decoded :=
  let d := field w 21 5; let b := field w 16 5
  let z := field w 14 1; let s := field w 12 2; let c := field w 7 5; let o := field w 0 7
  if field w 15 1 = 1 then
    if z = 1 then .error .functionUnassigned else .ok (.stq d b s c o)
  else assigned (.ldq d b z s c o)

/-- Major 0x16: ATOM and CAS. -/
def decodeAtomic (w : BitVec 32) : Decoded :=
  let d := field w 21 5; let b := field w 16 5; let k := field w 12 4
  let c := field w 7 5; let r := field w 5 2; let s := field w 0 5
  if k = 9 then .ok (.cas d b c r s) else assigned (.atom d b k c r s)

/-- Major 0x18: fences and barriers. -/
def decodeSync (w : BitVec 32) : Decoded :=
  let c := field w 21 5; let a := field w 16 5; let b := field w 11 5; let low := field w 0 8
  match (field w 8 3).toNat with
  | 0 => zerosAssigned (decide (a = 0) && decide (b = 0) && decide (field w 4 4 = 0)) (.fence c (field w 0 4))
  | 1 => zerosAssigned (decide (a = 0) && decide (b = 0)) (.fencex c (field w 4 4) (field w 0 4))
  | 2 => zeros (decide (a = 0) && decide (b = 0) && decide (low = 0)) (.bar c)
  | 3 => zeros (decide (b = 0) && decide (low = 0)) (.bara c a)
  | 4 => zeros (decide (b = 0) && decide (low = 0)) (.barw c a)
  | 5 => zeros (decide (a = 0) && decide (b = 0) && decide (field w 3 5 = 0)) (.bard c (field w 0 3))
  | _ => .error .functionUnassigned

/-- Major 0x19: signals and SNOWPUB. -/
def decodeSignal (w : BitVec 32) : Decoded :=
  let d := field w 21 5; let a := field w 16 5; let b := field w 11 5; let c := field w 0 5
  let act := field w 5 3
  match (field w 8 3).toNat with
  | 0 => zeros (decide (b = 0) && decide (act = 0)) (.sigadd d a c)
  | 1 => zeros (decide (b = 0) && decide (act = 0)) (.sigwait d a c)
  | 2 =>
    match act.toNat with
    | 0 => zeros (decide (b = 0)) (.sigarmWake d a c)
    | 1 => .ok (.sigarmPost d a b c)
    | 2 => .ok (.sigarmLaunch d a b c)
    | _ => .error .subfieldUnassigned
  | 3 => zeros (decide (b = 0) && decide (act = 0)) (.snowpub d a c)
  | _ => .error .functionUnassigned

/-- Major 0x1A: BXQ. -/
def decodeBxq (w : BitVec 32) : Decoded :=
  let d := field w 21 5; let a := field w 16 5; let b := field w 11 5
  match (field w 0 11).toNat with
  | 0 => zerosAssigned (decide (d = 0) && decide (b = 0)) (.bxq a)
  | 1 => zerosAssigned (decide (b = 0)) (.bxqS d a)
  | _ => .error .functionUnassigned

/-- Major 0x1B: tree queries. -/
def decodeTree (w : BitVec 32) : Decoded :=
  let d := field w 21 5
  let z := decide (field w 16 5 = 0) && decide (field w 11 5 = 0)
  match (field w 8 3).toNat with
  | 0 => zeros (z && decide (field w 0 8 = 0)) (.wid d)
  | 1 => zerosAssigned (z && decide (field w 5 3 = 0)) (.lvl d (field w 0 5))
  | 2 => zerosAssigned (z && decide (field w 5 3 = 0)) (.lvln d (field w 0 5))
  | 3 => zeros (z && decide (field w 3 5 = 0)) (.phys d (field w 0 3))
  | _ => .error .functionUnassigned

/-- Major 0x1C: control registers (R125). The index is not checked here. -/
def decodeControl (w : BitVec 32) : Decoded :=
  let d := field w 21 5; let a := field w 16 5; let x := field w 0 12
  let z := decide (field w 12 2 = 0)
  match (field w 14 2).toNat with
  | 0 => zeros (z && decide (a = 0)) (.crd d x)
  | 1 => zeros (z && decide (d = 0)) (.cwr a x)
  | 2 => zeros z (.cxg d a x)
  | _ => .error .functionUnassigned

/-- Major 0x1D: system forms. -/
def decodeSystem (w : BitVec 32) : Decoded :=
  let n := field w 11 15
  match (field w 0 11).toNat with
  | 0 => .ok (.sysc n)
  | 1 => .ok (.brk n)
  | 2 => zeros (decide (n = 0)) .yield
  | 3 => zerosAssigned (decide (field w 23 3 = 0) && decide (field w 11 10 = 0)) (.migh (field w 21 2))
  | 4 => zeros (decide (n = 0)) .tret
  | 5 => zeros (decide (n = 0)) .idle
  | _ => .error .functionUnassigned

/-- Major 0x1E: the hint space (R121). -/
def decodeHint (w : BitVec 32) : Decoded :=
  let code := field w 0 26
  if code = 0 then .ok .nop else if code = 1 then .ok .cvb else .ok (.hint code)

/-! ### Scalar floating point (R126) -/

/-- Major 0x20. -/
def decodeScalarFloat (w : BitVec 32) : Decoded :=
  let d := field w 21 5; let a := field w 16 5; let b := field w 11 5
  let f := field w 0 2; let sub := field w 2 4
  let s0 := decide (sub = 0); let u := s0 && decide (b = 0)
  match (field w 6 5).toNat with
  | 0 => zeros s0 (.fadd d a b f) | 1 => zeros s0 (.fsub d a b f) | 2 => zeros s0 (.fmul d a b f)
  | 3 => zeros s0 (.fdiv d a b f) | 4 => zeros u (.fsqrt d a f)
  | 5 => zeros s0 (.fmin d a b f) | 6 => zeros s0 (.fmax d a b f)
  | 7 => if field w 4 2 = 0 then .ok (.fcmp d a b (field w 2 2) f) else .error .subfieldUnassigned
  | 8 => zeros u (.fclass d a f)
  | 9 => if field w 4 2 = 0 then assigned (.fsgn d a b (field w 2 2) f) else .error .subfieldUnassigned
  | 10 =>
    if b ≠ 0 then .error .zeroFieldSet
    else if field w 5 1 = 0 then .ok (.fcvt d a (field w 2 3) f)
    else if field w 4 1 = 1 then .ok (.fcvtFromInt d a (field w 2 2) f)
    else .error .subfieldUnassigned
  | _ => .error .functionUnassigned

/-- Major 0x21. -/
def decodeFused (w : BitVec 32) : Decoded :=
  let d := field w 21 5; let a := field w 16 5; let b := field w 11 5; let c := field w 6 5; let f := field w 0 2
  match (field w 2 4).toNat with
  | 0 => .ok (.fma d a b c f)
  | 1 => .ok (.fms d a b c f)
  | _ => .error .functionUnassigned

/-! ### Vector groups (R127, R128) -/

/-- Major 0x22. -/
def decodeVInt (w : BitVec 32) : Decoded :=
  let d := field w 20 6; let a := field w 14 6; let b := field w 8 6; let p := field w 5 3; let z := field w 4 1
  match (field w 0 4).toNat with
  | 0 => .ok (.vadd d a b p z) | 1 => .ok (.vsub d a b p z) | 2 => .ok (.vmul d a b p z) | 3 => .ok (.vmulh d a b p z)
  | 4 => .ok (.vmulhn d a b p z) | 5 => .ok (.vmin d a b p z) | 6 => .ok (.vmax d a b p z) | 7 => .ok (.vminn d a b p z)
  | 8 => .ok (.vmaxn d a b p z) | 9 => .ok (.vand d a b p z) | 10 => .ok (.vor d a b p z) | 11 => .ok (.vxor d a b p z)
  | 12 => .ok (.vsll d a b p z) | 13 => .ok (.vsrl d a b p z) | 14 => .ok (.vsra d a b p z) | _ => .ok (.vmacc d a b p z)

/-- Major 0x23. -/
def decodeVInt2 (w : BitVec 32) : Decoded :=
  let d := field w 20 6; let a := field w 14 6; let b := field w 8 6; let p := field w 5 3; let z := field w 4 1
  let u := decide (b = 0)
  match (field w 0 4).toNat with
  | 0 => .ok (.vsadd d a b p z) | 1 => .ok (.vssub d a b p z) | 2 => .ok (.vsaddn d a b p z) | 3 => .ok (.vssubn d a b p z)
  | 4 => zeros u (.vabs d a p z) | 5 => zeros u (.vclz d a p z) | 6 => zeros u (.vpopc d a p z)
  | _ => .error .functionUnassigned

/-- Major 0x24. -/
def decodeVFloat (w : BitVec 32) : Decoded :=
  let d := field w 20 6; let a := field w 14 6; let b := field w 8 6; let p := field w 5 3; let z := field w 4 1
  let u := decide (b = 0)
  match (field w 0 4).toNat with
  | 0 => .ok (.vfadd d a b p z) | 1 => .ok (.vfsub d a b p z) | 2 => .ok (.vfmul d a b p z)
  | 3 => .ok (.vfmin d a b p z) | 4 => .ok (.vfmax d a b p z)
  | 5 => zeros u (.vfabs d a p z) | 6 => zeros u (.vfneg d a p z)
  | _ => .error .functionUnassigned

/-- Major 0x25. -/
def decodeVFused (w : BitVec 32) : Decoded :=
  let d := field w 20 6; let a := field w 14 6; let b := field w 8 6; let p := field w 5 3; let z := field w 4 1
  match (field w 0 4).toNat with
  | 0 => .ok (.vfma d a b p z)
  | 1 => .ok (.vfnma d a b p z)
  | _ => .error .functionUnassigned

/-- Major 0x26. -/
def decodeVPred (w : BitVec 32) : Decoded :=
  let d := field w 20 6; let a := field w 14 6; let b := field w 8 6; let p := field w 5 3; let z := field w 4 1
  let c := field w 23 3; let q := field w 20 3; let z0 := decide (z = 0)
  match (field w 0 4).toNat with
  | 0 => assigned (.vcmp c q a b p z)
  | 1 => assigned (.vfcmp c q a b p z)
  | 2 => zeros z0 (.vsel d a b p)
  | 3 => zeros (decide (field w 17 3 = 0) && decide (field w 11 3 = 0)) (.plog c q (field w 14 3) (field w 8 3) p z)
  | 4 => zeros (z0 && decide (field w 25 1 = 0) && decide (field w 17 3 = 0) && decide (b = 0))
      (.pcnt (field w 20 5) (field w 14 3) p)
  | 5 => zeros z0 (.bpany (field w 8 18) p)
  | 6 => zeros z0 (.bpnone (field w 8 18) p)
  | _ => .error .functionUnassigned

/-- Major 0x27. -/
def decodeVMove (w : BitVec 32) : Decoded :=
  let d := field w 20 6; let a := field w 14 6; let b := field w 8 6; let p := field w 5 3; let z := field w 4 1
  match (field w 0 4).toNat with
  | 0 => zeros (decide (b = 0)) (.vmov d a p z)
  | 1 => assigned (.vcvtTo d a (field w 13 1) (field w 8 5) p z)
  | 2 => assigned (.vcvtFrom d a (field w 13 1) (field w 8 5) p z)
  | 3 => zeros (decide (a = 0) && decide (b = 0)) (.vidx d p z)
  | 4 => zeros (decide (field w 25 1 = 0) && decide (field w 13 1 = 0) && decide (p = 0) && decide (z = 0))
      (.vext (field w 20 5) a (field w 8 5))
  | _ => .error .functionUnassigned

/-- Major 0x28: mode[4:2] selects, mode[1:0] is 0 or 1. -/
def decodeVMem (w : BitVec 32) : Decoded :=
  let d := field w 20 6; let b := field w 15 5; let r := field w 9 5
  let p := field w 6 3; let z := field w 5 1; let n := field w 0 1
  let i0 := decide (field w 9 6 = 0); let h0 := decide (field w 14 1 = 0)
  if field w 1 1 = 1 then .error .subfieldUnassigned
  else match (field w 2 3).toNat with
  | 0 => zeros i0 (.vld d b p z n)
  | 1 => zeros i0 (.vst d b p z n)
  | 2 => zeros h0 (.vlds d b r p z n)
  | 3 => zeros h0 (.vsts d b r p z n)
  | 4 => zeros i0 (.vldf d b p z n)
  | _ => .error .functionUnassigned

/-- Major 0x29. -/
def decodeVScalar (w : BitVec 32) : Decoded :=
  let d := field w 20 6; let a := field w 14 6; let g := field w 9 5; let p := field w 2 3
  let z := field w 1 1; let m := field w 0 1
  let s0 := decide (m = 0)
  match (field w 5 4).toNat with
  | 0 => .ok (.vaddScalar d a g p z m) | 1 => .ok (.vsubScalar d a g p z m) | 2 => .ok (.vmulScalar d a g p z m)
  | 3 => .ok (.vminScalar d a g p z m) | 4 => .ok (.vmaxScalar d a g p z m) | 5 => .ok (.vminnScalar d a g p z m)
  | 6 => .ok (.vmaxnScalar d a g p z m) | 7 => .ok (.vandScalar d a g p z m) | 8 => .ok (.vorScalar d a g p z m)
  | 9 => .ok (.vxorScalar d a g p z m) | 10 => .ok (.vsllScalar d a g p z m) | 11 => .ok (.vsrlScalar d a g p z m)
  | 12 => .ok (.vsraScalar d a g p z m)
  | 13 => if s0 then .ok (.vfaddScalar d a g p z) else .error .subfieldUnassigned
  | 14 => if s0 then .ok (.vfmulScalar d a g p z) else .error .subfieldUnassigned
  | _ => zeros (decide (a = 0)) (.vbcast d g p z m)

/-- Major 0x2A. -/
def decodeVMath (w : BitVec 32) : Decoded :=
  let d := field w 20 6; let a := field w 14 6; let b := field w 8 6; let p := field w 5 3; let z := field w 4 1
  let u := decide (b = 0)
  match (field w 0 4).toNat with
  | 0 => .ok (.vfdiv d a b p z) | 1 => zeros u (.vfsqrt d a p z) | 2 => zeros u (.vfexp2 d a p z)
  | 3 => zeros u (.vflog2 d a p z) | 4 => zeros u (.vftanh d a p z)
  | 5 => .ok (.vdiv d a b p z) | 6 => .ok (.vdivn d a b p z) | 7 => .ok (.vrem d a b p z) | 8 => .ok (.vremn d a b p z)
  | 9 => zeros (u && decide (field w 19 1 = 0)) (.vrng d (field w 14 5) p z)
  | _ => .error .functionUnassigned

/-- Major 0x2B. -/
def decodeVLane (w : BitVec 32) : Decoded :=
  let d := field w 20 6; let a := field w 14 6; let b := field w 8 6; let p := field w 5 3; let z := field w 4 1
  let u := decide (b = 0); let h3 := decide (field w 11 3 = 0); let h1 := decide (field w 13 1 = 0)
  match (field w 0 4).toNat with
  | 0 => zeros h3 (.vxch d a (field w 8 3) p z)
  | 1 => .ok (.vpermIx d a b p z)
  | 2 => zeros u (.vpermBr d a p z)
  | 3 => zeros h1 (.vslideUp d a (field w 8 5) p z)
  | 4 => zeros h1 (.vslideDn d a (field w 8 5) p z)
  | 5 => zeros u (.vcompact d a p z)
  | 6 => zeros u (.vexpand d a p z)
  | 7 => zerosAssigned (decide (field w 12 2 = 0)) (.vscan d a (field w 11 1) (field w 8 3) p z)
  | 8 => zerosAssigned h3 (.vred d a (field w 8 3) p z)
  | 9 => zeros (decide (field w 4 22 = 0)) .vsync
  | _ => .error .functionUnassigned

/-- Major 0x2C. -/
def decodeVIndexed (w : BitVec 32) : Decoded :=
  let d := field w 20 6; let b := field w 15 5; let i := field w 9 6; let t := field w 9 5
  let p := field w 6 3; let z := field w 5 1; let c := field w 0 1
  let h0 := decide (field w 14 1 = 0); let m0 := decide (c = 0)
  if field w 1 1 = 1 then .error .subfieldUnassigned
  else match (field w 2 3).toNat with
  | 0 => .ok (.vgath d b i p z c)
  | 1 => .ok (.vscat d b i p z c)
  | 2 => .ok (.vscadd d b i p z c)
  | 3 => zeros (h0 && m0) (.vrdst d b t p z)
  | 4 => zerosAssigned (h0 && m0) (.vldseg d b t p z)
  | 5 => zerosAssigned (h0 && m0) (.vstseg d b t p z)
  | _ => .error .functionUnassigned

/-- Major 0x2D. -/
def decodeVConf (w : BitVec 32) : Decoded :=
  let d := field w 20 6; let g := field w 9 5; let m := field w 0 1
  let pz := decide (field w 1 4 = 0); let a0 := decide (field w 14 6 = 0); let s0 := decide (m = 0)
  match (field w 5 4).toNat with
  | 0 => zerosAssigned (pz && a0 && decide (field w 25 1 = 0)) (.vconf (field w 20 5) g m)
  | 1 => if s0 then zeros (pz && a0 && decide (d = 0)) (.vloop g) else .error .subfieldUnassigned
  | 2 => if s0 then zeros (pz && a0) (.vrget d g) else .error .subfieldUnassigned
  | 3 => if s0 then zeros (pz && a0) (.vrput d g) else .error .subfieldUnassigned
  | _ => .error .functionUnassigned

/-! ### Tensor, exchange and privileged groups (R129) -/

/-- Majors 0x30 to 0x33. -/
def decodeTensor (m : Nat) (w : BitVec 32) : Decoded :=
  let wt := field w 23 3; let c := field w 20 3; let a := field w 15 5; let b := field w 10 5; let v := field w 4 6
  let c0 := decide (c = 0); let a0 := decide (a = 0); let b0 := decide (b = 0); let v0 := decide (v = 0)
  match m, (field w 0 4).toNat with
  | 0x30, 0 => zeros v0 (.tmma wt c a b)
  | 0x30, 1 => .ok (.tmmagM wt c a b v)
  | 0x30, 2 => .ok (.tmmagK wt c a b v)
  | 0x30, 3 => zeros v0 (.tmmas wt c a b)
  | 0x31, 0 => zeros (c0 && decide (field w 9 1 = 0)) (.tload wt a b (field w 4 5))
  | 0x31, 1 => zeros (c0 && decide (field w 9 1 = 0)) (.tstore wt a b (field w 4 5))
  | 0x32, 0 => zeros (a0 && b0 && v0) (.tzero wt c)
  | 0x32, 1 => zeros v0 (.tacc wt c a b)
  | 0x32, 2 => zeros (b0 && v0) (.tadda wt c a)
  | 0x33, 0 => zeros (c0 && v0) (.tcmp wt a b)
  | 0x33, 1 => zeros (c0 && v0) (.tdec wt a b)
  | 0x33, 2 => zeros (c0 && v0) (.ttrn wt a b)
  | _, _ => .error .functionUnassigned

/-- Major 0x34. -/
def decodeExchange (w : BitVec 32) : Decoded :=
  let wt := field w 23 3; let g := field w 18 5; let k := field w 10 8
  let r0 := decide (field w 4 6 = 0); let g0 := decide (g = 0)
  match (field w 0 4).toNat with
  | 0 => zeros r0 (.xsend wt g k)
  | 1 => zeros (r0 && g0) (.xrecv wt k)
  | 2 => zeros (r0 && g0) (.xwait wt k)
  | 3 => zeros (r0 && decide (k = 0)) (.xslot wt g)
  | 4 => zeros (r0 && g0) (.xrecvS wt k)
  | _ => .error .functionUnassigned

/-- Majors 0x38 to 0x3A. -/
def decodePriv (m : Nat) (w : BitVec 32) : Decoded :=
  let a := field w 16 5; let b := field w 11 5
  let d0 := decide (field w 21 5 = 0); let a0 := decide (a = 0); let b0 := decide (b = 0)
  match m, (field w 0 11).toNat with
  | 0x38, 0 => zeros (d0 && a0 && b0) .tlbinv
  | 0x38, 1 => zeros (d0 && b0) (.tlbinvP a)
  | 0x38, 2 => zeros d0 (.tlbinvPv a b)
  | 0x39, 0 => zeros d0 (.ctxsave a b)
  | 0x39, 1 => zeros d0 (.ctxload a b)
  | 0x3A, 0 => zeros d0 (.migr a b)
  | 0x3A, 1 => zeros d0 (.ipi a b)
  | _, _ => .error .functionUnassigned

/-- Decode step 1 (R13, R120): the major map. -/
def decode (w : BitVec 32) : Decoded :=
  let d := field w 21 5; let a := field w 16 5; let i := field w 0 16
  match (major w).toNat with
  | 0x01 => decodeInt w
  | 0x02 => .ok (.addi d a i) | 0x03 => .ok (.andi d a i) | 0x04 => .ok (.ori d a i) | 0x05 => .ok (.xori d a i)
  | 0x06 => decodeShift w
  | 0x07 => decodeLih w
  | 0x08 => if field w 15 1 = 0 then .ok (.slti d a (field w 0 15)) else .ok (.sltni d a (field w 0 15))
  | 0x09 => decodeMul w
  | 0x0A => .ok (.beq d a i) | 0x0B => .ok (.bne d a i) | 0x0C => .ok (.blt d a i)
  | 0x0D => .ok (.bge d a i) | 0x0E => .ok (.bltn d a i) | 0x0F => .ok (.bgen d a i)
  | 0x10 => .ok (.jmp d (field w 0 21))
  | 0x11 => .ok (.jr d a i)
  | 0x12 => decodeLp w
  | 0x13 => decodeLoadStore false w | 0x14 => decodeLoadStore true w
  | 0x15 => decodeOrdered w
  | 0x16 => decodeAtomic w
  | 0x17 => if field w 12 4 = 0 then assigned (.pref d a (field w 0 12)) else .error .functionUnassigned
  | 0x18 => decodeSync w | 0x19 => decodeSignal w | 0x1A => decodeBxq w | 0x1B => decodeTree w
  | 0x1C => decodeControl w | 0x1D => decodeSystem w | 0x1E => decodeHint w
  | 0x20 => decodeScalarFloat w | 0x21 => decodeFused w
  | 0x22 => decodeVInt w | 0x23 => decodeVInt2 w | 0x24 => decodeVFloat w | 0x25 => decodeVFused w
  | 0x26 => decodeVPred w | 0x27 => decodeVMove w | 0x28 => decodeVMem w | 0x29 => decodeVScalar w
  | 0x2A => decodeVMath w | 0x2B => decodeVLane w | 0x2C => decodeVIndexed w | 0x2D => decodeVConf w
  | 0x30 => decodeTensor 0x30 w | 0x31 => decodeTensor 0x31 w | 0x32 => decodeTensor 0x32 w | 0x33 => decodeTensor 0x33 w
  | 0x34 => decodeExchange w
  | 0x38 => decodePriv 0x38 w | 0x39 => decodePriv 0x39 w | 0x3A => decodePriv 0x3A w
  | _ => .error .majorUnassigned

/-! ### The encoder, from the same tables -/

/-- The word of an instruction, fields from bit 31 down (R118, R119, R123 to R129); an event has no word. -/
def encode : Instr → Option (BitVec 32)
  | .add d a b => some (0x1#6 ++ d ++ a ++ b ++ 0x0#11)
  | .sub d a b => some (0x1#6 ++ d ++ a ++ b ++ 0x1#11)
  | .and d a b => some (0x1#6 ++ d ++ a ++ b ++ 0x2#11)
  | .or d a b => some (0x1#6 ++ d ++ a ++ b ++ 0x3#11)
  | .xor d a b => some (0x1#6 ++ d ++ a ++ b ++ 0x4#11)
  | .andn d a b => some (0x1#6 ++ d ++ a ++ b ++ 0x5#11)
  | .sll d a b => some (0x1#6 ++ d ++ a ++ b ++ 0x6#11)
  | .srl d a b => some (0x1#6 ++ d ++ a ++ b ++ 0x7#11)
  | .sra d a b => some (0x1#6 ++ d ++ a ++ b ++ 0x8#11)
  | .rot d a b => some (0x1#6 ++ d ++ a ++ b ++ 0x9#11)
  | .slt d a b => some (0x1#6 ++ d ++ a ++ b ++ 0xA#11)
  | .sltn d a b => some (0x1#6 ++ d ++ a ++ b ++ 0xB#11)
  | .min d a b => some (0x1#6 ++ d ++ a ++ b ++ 0xC#11)
  | .max d a b => some (0x1#6 ++ d ++ a ++ b ++ 0xD#11)
  | .minn d a b => some (0x1#6 ++ d ++ a ++ b ++ 0xE#11)
  | .maxn d a b => some (0x1#6 ++ d ++ a ++ b ++ 0xF#11)
  | .clz d a => some (0x1#6 ++ d ++ a ++ 0x10#16)
  | .ctz d a => some (0x1#6 ++ d ++ a ++ 0x11#16)
  | .popc d a => some (0x1#6 ++ d ++ a ++ 0x12#16)
  | .brev d a => some (0x1#6 ++ d ++ a ++ 0x13#16)
  | .sextB d a => some (0x1#6 ++ d ++ a ++ 0x14#16)
  | .sextH d a => some (0x1#6 ++ d ++ a ++ 0x15#16)
  | .sextW d a => some (0x1#6 ++ d ++ a ++ 0x16#16)
  | .zextB d a => some (0x1#6 ++ d ++ a ++ 0x18#16)
  | .zextH d a => some (0x1#6 ++ d ++ a ++ 0x19#16)
  | .zextW d a => some (0x1#6 ++ d ++ a ++ 0x1A#16)
  | .addi d a i => some (0x2#6 ++ d ++ a ++ i)
  | .andi d a i => some (0x3#6 ++ d ++ a ++ i)
  | .ori d a i => some (0x4#6 ++ d ++ a ++ i)
  | .xori d a i => some (0x5#6 ++ d ++ a ++ i)
  | .slli d a n => some (0x6#6 ++ d ++ a ++ 0x0#10 ++ n)
  | .srli d a n => some (0x6#6 ++ d ++ a ++ 0x100#10 ++ n)
  | .srai d a n => some (0x6#6 ++ d ++ a ++ 0x200#10 ++ n)
  | .roti d a n => some (0x6#6 ++ d ++ a ++ 0x300#10 ++ n)
  | .lih d k v => some (0x7#6 ++ d ++ k ++ 0x0#3 ++ v)
  | .lihK d k v => some (0x7#6 ++ d ++ k ++ 0x4#3 ++ v)
  | .slti d a i => some (0x8#6 ++ d ++ a ++ 0x0#1 ++ i)
  | .sltni d a i => some (0x8#6 ++ d ++ a ++ 0x1#1 ++ i)
  | .mul d a b => some (0x9#6 ++ d ++ a ++ b ++ 0x0#11)
  | .mulh d a b => some (0x9#6 ++ d ++ a ++ b ++ 0x1#11)
  | .mulhn d a b => some (0x9#6 ++ d ++ a ++ b ++ 0x2#11)
  | .div d a b => some (0x9#6 ++ d ++ a ++ b ++ 0x3#11)
  | .divn d a b => some (0x9#6 ++ d ++ a ++ b ++ 0x4#11)
  | .rem d a b => some (0x9#6 ++ d ++ a ++ b ++ 0x5#11)
  | .remn d a b => some (0x9#6 ++ d ++ a ++ b ++ 0x6#11)
  | .beq d a o => some (0xA#6 ++ d ++ a ++ o)
  | .bne d a o => some (0xB#6 ++ d ++ a ++ o)
  | .blt d a o => some (0xC#6 ++ d ++ a ++ o)
  | .bge d a o => some (0xD#6 ++ d ++ a ++ o)
  | .bltn d a o => some (0xE#6 ++ d ++ a ++ o)
  | .bgen d a o => some (0xF#6 ++ d ++ a ++ o)
  | .jmp d i => some (0x10#6 ++ d ++ i)
  | .jr d a i => some (0x11#6 ++ d ++ a ++ i)
  | .lp a o => some (0x12#6 ++ 0x0#5 ++ a ++ 0x0#1 ++ o)
  | .lpImmediate n o => some (0x12#6 ++ n ++ 0x0#6 ++ o)
  | .ld d b z s o => some (0x13#6 ++ d ++ b ++ 0x0#1 ++ z ++ s ++ o)
  | .ldIndexed d b z s i => some (0x13#6 ++ d ++ b ++ 0x1#1 ++ z ++ s ++ 0x0#7 ++ i)
  | .st t b s o => some (0x14#6 ++ t ++ b ++ 0x0#2 ++ s ++ o)
  | .stIndexed t b s i => some (0x14#6 ++ t ++ b ++ 0x2#2 ++ s ++ 0x0#7 ++ i)
  | .ldq d b z s c o => some (0x15#6 ++ d ++ b ++ 0x0#1 ++ z ++ s ++ c ++ o)
  | .stq t b s c o => some (0x15#6 ++ t ++ b ++ 0x2#2 ++ s ++ c ++ o)
  | .atom d b k c r s => some (0x16#6 ++ d ++ b ++ k ++ c ++ r ++ s)
  | .cas d b c r s => some (0x16#6 ++ d ++ b ++ 0x9#4 ++ c ++ r ++ s)
  | .pref h b o => some (0x17#6 ++ h ++ b ++ 0x0#4 ++ o)
  | .fence c p => some (0x18#6 ++ c ++ 0x0#17 ++ p)
  | .fencex c q p => some (0x18#6 ++ c ++ 0x1#13 ++ q ++ p)
  | .bar c => some (0x18#6 ++ c ++ 0x200#21)
  | .bara c d => some (0x18#6 ++ c ++ d ++ 0x300#16)
  | .barw c a => some (0x18#6 ++ c ++ a ++ 0x400#16)
  | .bard c k => some (0x18#6 ++ c ++ 0xA0#18 ++ k)
  | .sigadd d a c => some (0x19#6 ++ d ++ a ++ 0x0#11 ++ c)
  | .sigwait d a c => some (0x19#6 ++ d ++ a ++ 0x8#11 ++ c)
  | .sigarmWake d a c => some (0x19#6 ++ d ++ a ++ 0x10#11 ++ c)
  | .sigarmPost d a b c => some (0x19#6 ++ d ++ a ++ b ++ 0x11#6 ++ c)
  | .sigarmLaunch d a b c => some (0x19#6 ++ d ++ a ++ b ++ 0x12#6 ++ c)
  | .snowpub d a c => some (0x19#6 ++ d ++ a ++ 0x18#11 ++ c)
  | .bxq a => some (0x1A#6 ++ 0x0#5 ++ a ++ 0x0#16)
  | .bxqS d a => some (0x1A#6 ++ d ++ a ++ 0x1#16)
  | .wid d => some (0x1B#6 ++ d ++ 0x0#21)
  | .lvl d h => some (0x1B#6 ++ d ++ 0x8#16 ++ h)
  | .lvln d h => some (0x1B#6 ++ d ++ 0x10#16 ++ h)
  | .phys d l => some (0x1B#6 ++ d ++ 0x60#18 ++ l)
  | .crd d x => some (0x1C#6 ++ d ++ 0x0#9 ++ x)
  | .cwr a x => some (0x1C#6 ++ 0x0#5 ++ a ++ 0x4#4 ++ x)
  | .cxg d a x => some (0x1C#6 ++ d ++ a ++ 0x8#4 ++ x)
  | .sysc n => some (0x1D#6 ++ n ++ 0x0#11)
  | .brk n => some (0x1D#6 ++ n ++ 0x1#11)
  | .yield => some (0x1D#6 ++ 0x2#26)
  | .migh c => some (0x1D#6 ++ 0x0#3 ++ c ++ 0x3#21)
  | .tret => some (0x1D#6 ++ 0x4#26)
  | .idle => some (0x1D#6 ++ 0x5#26)
  | .nop => some (0x1E#6 ++ 0x0#26)
  | .cvb => some (0x1E#6 ++ 0x1#26)
  | .fadd d a b f => some (0x20#6 ++ d ++ a ++ b ++ 0x0#9 ++ f)
  | .fsub d a b f => some (0x20#6 ++ d ++ a ++ b ++ 0x10#9 ++ f)
  | .fmul d a b f => some (0x20#6 ++ d ++ a ++ b ++ 0x20#9 ++ f)
  | .fdiv d a b f => some (0x20#6 ++ d ++ a ++ b ++ 0x30#9 ++ f)
  | .fsqrt d a f => some (0x20#6 ++ d ++ a ++ 0x40#14 ++ f)
  | .fmin d a b f => some (0x20#6 ++ d ++ a ++ b ++ 0x50#9 ++ f)
  | .fmax d a b f => some (0x20#6 ++ d ++ a ++ b ++ 0x60#9 ++ f)
  | .fcmp d a b c f => some (0x20#6 ++ d ++ a ++ b ++ 0x1C#7 ++ c ++ f)
  | .fclass d a f => some (0x20#6 ++ d ++ a ++ 0x80#14 ++ f)
  | .fsgn d a b g f => some (0x20#6 ++ d ++ a ++ b ++ 0x24#7 ++ g ++ f)
  | .fcvt d a t f => some (0x20#6 ++ d ++ a ++ 0x14#11 ++ t ++ f)
  | .fcvtFromInt d a t f => some (0x20#6 ++ d ++ a ++ 0x2B#12 ++ t ++ f)
  | .fma d a b c f => some (0x21#6 ++ d ++ a ++ b ++ c ++ 0x0#4 ++ f)
  | .fms d a b c f => some (0x21#6 ++ d ++ a ++ b ++ c ++ 0x1#4 ++ f)
  | .vadd d a b p z => some (0x22#6 ++ d ++ a ++ b ++ p ++ z ++ 0x0#4)
  | .vsub d a b p z => some (0x22#6 ++ d ++ a ++ b ++ p ++ z ++ 0x1#4)
  | .vmul d a b p z => some (0x22#6 ++ d ++ a ++ b ++ p ++ z ++ 0x2#4)
  | .vmulh d a b p z => some (0x22#6 ++ d ++ a ++ b ++ p ++ z ++ 0x3#4)
  | .vmulhn d a b p z => some (0x22#6 ++ d ++ a ++ b ++ p ++ z ++ 0x4#4)
  | .vmin d a b p z => some (0x22#6 ++ d ++ a ++ b ++ p ++ z ++ 0x5#4)
  | .vmax d a b p z => some (0x22#6 ++ d ++ a ++ b ++ p ++ z ++ 0x6#4)
  | .vminn d a b p z => some (0x22#6 ++ d ++ a ++ b ++ p ++ z ++ 0x7#4)
  | .vmaxn d a b p z => some (0x22#6 ++ d ++ a ++ b ++ p ++ z ++ 0x8#4)
  | .vand d a b p z => some (0x22#6 ++ d ++ a ++ b ++ p ++ z ++ 0x9#4)
  | .vor d a b p z => some (0x22#6 ++ d ++ a ++ b ++ p ++ z ++ 0xA#4)
  | .vxor d a b p z => some (0x22#6 ++ d ++ a ++ b ++ p ++ z ++ 0xB#4)
  | .vsll d a b p z => some (0x22#6 ++ d ++ a ++ b ++ p ++ z ++ 0xC#4)
  | .vsrl d a b p z => some (0x22#6 ++ d ++ a ++ b ++ p ++ z ++ 0xD#4)
  | .vsra d a b p z => some (0x22#6 ++ d ++ a ++ b ++ p ++ z ++ 0xE#4)
  | .vmacc d a b p z => some (0x22#6 ++ d ++ a ++ b ++ p ++ z ++ 0xF#4)
  | .vsadd d a b p z => some (0x23#6 ++ d ++ a ++ b ++ p ++ z ++ 0x0#4)
  | .vssub d a b p z => some (0x23#6 ++ d ++ a ++ b ++ p ++ z ++ 0x1#4)
  | .vsaddn d a b p z => some (0x23#6 ++ d ++ a ++ b ++ p ++ z ++ 0x2#4)
  | .vssubn d a b p z => some (0x23#6 ++ d ++ a ++ b ++ p ++ z ++ 0x3#4)
  | .vabs d a p z => some (0x23#6 ++ d ++ a ++ 0x0#6 ++ p ++ z ++ 0x4#4)
  | .vclz d a p z => some (0x23#6 ++ d ++ a ++ 0x0#6 ++ p ++ z ++ 0x5#4)
  | .vpopc d a p z => some (0x23#6 ++ d ++ a ++ 0x0#6 ++ p ++ z ++ 0x6#4)
  | .vfadd d a b p z => some (0x24#6 ++ d ++ a ++ b ++ p ++ z ++ 0x0#4)
  | .vfsub d a b p z => some (0x24#6 ++ d ++ a ++ b ++ p ++ z ++ 0x1#4)
  | .vfmul d a b p z => some (0x24#6 ++ d ++ a ++ b ++ p ++ z ++ 0x2#4)
  | .vfmin d a b p z => some (0x24#6 ++ d ++ a ++ b ++ p ++ z ++ 0x3#4)
  | .vfmax d a b p z => some (0x24#6 ++ d ++ a ++ b ++ p ++ z ++ 0x4#4)
  | .vfabs d a p z => some (0x24#6 ++ d ++ a ++ 0x0#6 ++ p ++ z ++ 0x5#4)
  | .vfneg d a p z => some (0x24#6 ++ d ++ a ++ 0x0#6 ++ p ++ z ++ 0x6#4)
  | .vfma d a b p z => some (0x25#6 ++ d ++ a ++ b ++ p ++ z ++ 0x0#4)
  | .vfnma d a b p z => some (0x25#6 ++ d ++ a ++ b ++ p ++ z ++ 0x1#4)
  | .vcmp c q a b p z => some (0x26#6 ++ c ++ q ++ a ++ b ++ p ++ z ++ 0x0#4)
  | .vfcmp c q a b p z => some (0x26#6 ++ c ++ q ++ a ++ b ++ p ++ z ++ 0x1#4)
  | .vsel d a b p => some (0x26#6 ++ d ++ a ++ b ++ p ++ 0x2#5)
  | .plog o q a b p z => some (0x26#6 ++ o ++ q ++ 0x0#3 ++ a ++ 0x0#3 ++ b ++ p ++ z ++ 0x3#4)
  | .pcnt d a p => some (0x26#6 ++ 0x0#1 ++ d ++ 0x0#3 ++ a ++ 0x0#6 ++ p ++ 0x4#5)
  | .bpany o p => some (0x26#6 ++ o ++ p ++ 0x5#5)
  | .bpnone o p => some (0x26#6 ++ o ++ p ++ 0x6#5)
  | .vmov d a p z => some (0x27#6 ++ d ++ a ++ 0x0#6 ++ p ++ z ++ 0x0#4)
  | .vcvtTo d a s t p z => some (0x27#6 ++ d ++ a ++ s ++ t ++ p ++ z ++ 0x1#4)
  | .vcvtFrom d a s t p z => some (0x27#6 ++ d ++ a ++ s ++ t ++ p ++ z ++ 0x2#4)
  | .vidx d p z => some (0x27#6 ++ d ++ 0x0#12 ++ p ++ z ++ 0x3#4)
  | .vext d a i => some (0x27#6 ++ 0x0#1 ++ d ++ a ++ 0x0#1 ++ i ++ 0x4#8)
  | .vld d b p z n => some (0x28#6 ++ d ++ b ++ 0x0#6 ++ p ++ z ++ 0x0#4 ++ n)
  | .vst s b p z n => some (0x28#6 ++ s ++ b ++ 0x0#6 ++ p ++ z ++ 0x2#4 ++ n)
  | .vlds d b r p z n => some (0x28#6 ++ d ++ b ++ 0x0#1 ++ r ++ p ++ z ++ 0x4#4 ++ n)
  | .vsts s b r p z n => some (0x28#6 ++ s ++ b ++ 0x0#1 ++ r ++ p ++ z ++ 0x6#4 ++ n)
  | .vldf d b p z n => some (0x28#6 ++ d ++ b ++ 0x0#6 ++ p ++ z ++ 0x8#4 ++ n)
  | .vaddScalar d a g p z m => some (0x29#6 ++ d ++ a ++ g ++ 0x0#4 ++ p ++ z ++ m)
  | .vsubScalar d a g p z m => some (0x29#6 ++ d ++ a ++ g ++ 0x1#4 ++ p ++ z ++ m)
  | .vmulScalar d a g p z m => some (0x29#6 ++ d ++ a ++ g ++ 0x2#4 ++ p ++ z ++ m)
  | .vminScalar d a g p z m => some (0x29#6 ++ d ++ a ++ g ++ 0x3#4 ++ p ++ z ++ m)
  | .vmaxScalar d a g p z m => some (0x29#6 ++ d ++ a ++ g ++ 0x4#4 ++ p ++ z ++ m)
  | .vminnScalar d a g p z m => some (0x29#6 ++ d ++ a ++ g ++ 0x5#4 ++ p ++ z ++ m)
  | .vmaxnScalar d a g p z m => some (0x29#6 ++ d ++ a ++ g ++ 0x6#4 ++ p ++ z ++ m)
  | .vandScalar d a g p z m => some (0x29#6 ++ d ++ a ++ g ++ 0x7#4 ++ p ++ z ++ m)
  | .vorScalar d a g p z m => some (0x29#6 ++ d ++ a ++ g ++ 0x8#4 ++ p ++ z ++ m)
  | .vxorScalar d a g p z m => some (0x29#6 ++ d ++ a ++ g ++ 0x9#4 ++ p ++ z ++ m)
  | .vsllScalar d a g p z m => some (0x29#6 ++ d ++ a ++ g ++ 0xA#4 ++ p ++ z ++ m)
  | .vsrlScalar d a g p z m => some (0x29#6 ++ d ++ a ++ g ++ 0xB#4 ++ p ++ z ++ m)
  | .vsraScalar d a g p z m => some (0x29#6 ++ d ++ a ++ g ++ 0xC#4 ++ p ++ z ++ m)
  | .vfaddScalar d a g p z => some (0x29#6 ++ d ++ a ++ g ++ 0xD#4 ++ p ++ z ++ 0x0#1)
  | .vfmulScalar d a g p z => some (0x29#6 ++ d ++ a ++ g ++ 0xE#4 ++ p ++ z ++ 0x0#1)
  | .vbcast d g p z m => some (0x29#6 ++ d ++ 0x0#6 ++ g ++ 0xF#4 ++ p ++ z ++ m)
  | .vconf d g m => some (0x2D#6 ++ 0x0#1 ++ d ++ 0x0#6 ++ g ++ 0x0#8 ++ m)
  | .vloop g => some (0x2D#6 ++ 0x0#12 ++ g ++ 0x20#9)
  | .vrget d g => some (0x2D#6 ++ d ++ 0x0#6 ++ g ++ 0x40#9)
  | .vrput s g => some (0x2D#6 ++ s ++ 0x0#6 ++ g ++ 0x60#9)
  | .vfdiv d a b p z => some (0x2A#6 ++ d ++ a ++ b ++ p ++ z ++ 0x0#4)
  | .vfsqrt d a p z => some (0x2A#6 ++ d ++ a ++ 0x0#6 ++ p ++ z ++ 0x1#4)
  | .vfexp2 d a p z => some (0x2A#6 ++ d ++ a ++ 0x0#6 ++ p ++ z ++ 0x2#4)
  | .vflog2 d a p z => some (0x2A#6 ++ d ++ a ++ 0x0#6 ++ p ++ z ++ 0x3#4)
  | .vftanh d a p z => some (0x2A#6 ++ d ++ a ++ 0x0#6 ++ p ++ z ++ 0x4#4)
  | .vdiv d a b p z => some (0x2A#6 ++ d ++ a ++ b ++ p ++ z ++ 0x5#4)
  | .vdivn d a b p z => some (0x2A#6 ++ d ++ a ++ b ++ p ++ z ++ 0x6#4)
  | .vrem d a b p z => some (0x2A#6 ++ d ++ a ++ b ++ p ++ z ++ 0x7#4)
  | .vremn d a b p z => some (0x2A#6 ++ d ++ a ++ b ++ p ++ z ++ 0x8#4)
  | .vrng d g p z => some (0x2A#6 ++ d ++ 0x0#1 ++ g ++ 0x0#6 ++ p ++ z ++ 0x9#4)
  | .vxch d a k p z => some (0x2B#6 ++ d ++ a ++ 0x0#3 ++ k ++ p ++ z ++ 0x0#4)
  | .vpermIx d a b p z => some (0x2B#6 ++ d ++ a ++ b ++ p ++ z ++ 0x1#4)
  | .vpermBr d a p z => some (0x2B#6 ++ d ++ a ++ 0x0#6 ++ p ++ z ++ 0x2#4)
  | .vslideUp d a n p z => some (0x2B#6 ++ d ++ a ++ 0x0#1 ++ n ++ p ++ z ++ 0x3#4)
  | .vslideDn d a n p z => some (0x2B#6 ++ d ++ a ++ 0x0#1 ++ n ++ p ++ z ++ 0x4#4)
  | .vcompact d a p z => some (0x2B#6 ++ d ++ a ++ 0x0#6 ++ p ++ z ++ 0x5#4)
  | .vexpand d a p z => some (0x2B#6 ++ d ++ a ++ 0x0#6 ++ p ++ z ++ 0x6#4)
  | .vscan d a e o p z => some (0x2B#6 ++ d ++ a ++ 0x0#2 ++ e ++ o ++ p ++ z ++ 0x7#4)
  | .vred d a o p z => some (0x2B#6 ++ d ++ a ++ 0x0#3 ++ o ++ p ++ z ++ 0x8#4)
  | .vsync => some (0x2B#6 ++ 0x9#26)
  | .vgath d b i p z c => some (0x2C#6 ++ d ++ b ++ i ++ p ++ z ++ 0x0#4 ++ c)
  | .vscat s b i p z c => some (0x2C#6 ++ s ++ b ++ i ++ p ++ z ++ 0x2#4 ++ c)
  | .vscadd s b i p z c => some (0x2C#6 ++ s ++ b ++ i ++ p ++ z ++ 0x4#4 ++ c)
  | .vrdst s b t p z => some (0x2C#6 ++ s ++ b ++ 0x0#1 ++ t ++ p ++ z ++ 0xC#5)
  | .vldseg d b t p z => some (0x2C#6 ++ d ++ b ++ 0x0#1 ++ t ++ p ++ z ++ 0x10#5)
  | .vstseg s b t p z => some (0x2C#6 ++ s ++ b ++ 0x0#1 ++ t ++ p ++ z ++ 0x14#5)
  | .tmma w c a b => some (0x30#6 ++ w ++ c ++ a ++ b ++ 0x0#10)
  | .tmmagM w c a b v => some (0x30#6 ++ w ++ c ++ a ++ b ++ v ++ 0x1#4)
  | .tmmagK w c a b v => some (0x30#6 ++ w ++ c ++ a ++ b ++ v ++ 0x2#4)
  | .tmmas w c a b => some (0x30#6 ++ w ++ c ++ a ++ b ++ 0x3#10)
  | .tload w a b s => some (0x31#6 ++ w ++ 0x0#3 ++ a ++ b ++ 0x0#1 ++ s ++ 0x0#4)
  | .tstore w a b s => some (0x31#6 ++ w ++ 0x0#3 ++ a ++ b ++ 0x0#1 ++ s ++ 0x1#4)
  | .tzero w c => some (0x32#6 ++ w ++ c ++ 0x0#20)
  | .tacc w c a b => some (0x32#6 ++ w ++ c ++ a ++ b ++ 0x1#10)
  | .tadda w c a => some (0x32#6 ++ w ++ c ++ a ++ 0x2#15)
  | .tcmp w a b => some (0x33#6 ++ w ++ 0x0#3 ++ a ++ b ++ 0x0#10)
  | .tdec w a b => some (0x33#6 ++ w ++ 0x0#3 ++ a ++ b ++ 0x1#10)
  | .ttrn w a b => some (0x33#6 ++ w ++ 0x0#3 ++ a ++ b ++ 0x2#10)
  | .xsend w g k => some (0x34#6 ++ w ++ g ++ k ++ 0x0#10)
  | .xrecv w k => some (0x34#6 ++ w ++ 0x0#5 ++ k ++ 0x1#10)
  | .xwait w k => some (0x34#6 ++ w ++ 0x0#5 ++ k ++ 0x2#10)
  | .xslot w g => some (0x34#6 ++ w ++ g ++ 0x3#18)
  | .xrecvS w k => some (0x34#6 ++ w ++ 0x0#5 ++ k ++ 0x4#10)
  | .tlbinv => some (0x38#6 ++ 0x0#26)
  | .tlbinvP a => some (0x38#6 ++ 0x0#5 ++ a ++ 0x1#16)
  | .tlbinvPv a b => some (0x38#6 ++ 0x0#5 ++ a ++ b ++ 0x2#11)
  | .ctxsave a b => some (0x39#6 ++ 0x0#5 ++ a ++ b ++ 0x0#11)
  | .ctxload a b => some (0x39#6 ++ 0x0#5 ++ a ++ b ++ 0x1#11)
  | .migr a b => some (0x3A#6 ++ 0x0#5 ++ a ++ b ++ 0x0#11)
  | .ipi a b => some (0x3A#6 ++ 0x0#5 ++ a ++ b ++ 0x1#11)
  | .hint code => some (0x1E#6 ++ code)
  | _ => none

/-! ### The opcode table's numbering -/

/-- The instruction that `decode` reads from a table row's word: one 32-bit word, bit 0 least significant. -/
def decodeTableWord (nbits w : Nat) : Option Instr :=
  if nbits ≤ 32 then
    match decode (BitVec.ofNat 32 w) with
    | .ok i => some i
    | .error _ => none
  else none

end Sys2Proof
end

