-- ==== Sys2Proof/Config.lean ====
section
/-! DEFINITION. What one module fixes, and the free values: choices and values that the spec leaves open. A free
value is an opaque constant without a body, applied to the counter `tick` of State (a fresh value each time) or to
the operands it depends on; nothing can be proved of it. Each stands in the assumption log under the number named. -/

namespace Sys2Proof.Config

/-- Log 10. Whether the free choice number n of step t takes one or the other of two allowed outcomes (R32, R169, R227, R292,
R354, R372, R409). -/
opaque pick : (t n : Nat) → Bool

/-- Log 10. Which of several allowed outcomes a choice takes: of the values that a unit has held since its reader last saw it,
from the oldest, 0 (R98, R102, R103, R118), of the translations that are still held (R307), of the directory entries (R370). -/
opaque which : (t n : Nat) → Nat

/-- Log 10. Steps after which every reader sees a write of step t (R51). -/
opaque fade : (t : Nat) → Nat

/-- Log 11. Core cycles beyond its own, up to a bound, for which the issue of step t takes its core's issue slot. -/
opaque stall : (t : Nat) → Nat

/-- Log 11. Core cycles beyond its own, up to a bound, for which the issue of step t keeps its thread from issuing. -/
opaque latency : (t : Nat) → Nat

/-- Log 12. Which of those that could act takes the turn of step t. -/
opaque turn : (t : Nat) → Nat

/-- Log 12. Steps after which something that could act is not passed over again. -/
opaque patience : Nat

/-- Log 13. Which L2 slice of a die serves a physical line, modulo the die's slices: unpublished by R406, the same for every
access. -/
opaque sliceOf : (die line : Nat) → Nat

/-- Log 14. Whether an ECDSA P-384 signature over bytes is good under the owner key with the given hash (R427). -/
opaque signatureGood : (ownerHash : BitVec 384) → (bytes : List (BitVec 8)) → (signature : List (BitVec 8)) → Bool

/-- Log 14. The SHA-384 hash of bytes. -/
opaque sha384 : List (BitVec 8) → BitVec 384

/-- Log 15. The low 64 bits of a result whose correct rounding the model's finite computation did not settle: VFEXP2,
VFLOG2 and VFTANH (R207); function code, format code, operand bits. -/
opaque transcendental : (function format : Nat) → Nat → Nat

/-- Log 16. Where a field lies in an output that the spec names but does not lay out, and the length of one (R425, R426). -/
opaque layoutPlace : (command field : Nat) → Nat

/-- Log 17. A reading that a physical unit supplies: bank-conflict cycles and TLB misses of a sample record (R404), counters of
caches (R411). -/
opaque measured : (t n : Nat) → Nat

/-- Log 19. Which of the values that a frame has held is read at a key of it, where leaves of different skews map it (R302). -/
opaque skewed : (t key : Nat) → Nat

/-- Log 20. A field that a record of the device has and that no rule gives a value: which field, and what it may depend
on. -/
opaque openField : (which x y : Nat) → BitVec 64

end Sys2Proof.Config
end

