-- ==== Sys2Proof/Machine/State.lean ====
section
/-! DEFINITION. The state of one Spaet module as plain data: the current thread and the others, device contexts,
launches, memory, the module's units, and the module's list of turns. Each field's docstring ends in
[file rule; reset value], from which INVENTORY.md's list is made. -/

namespace Sys2Proof.Machine

/-! ### A thread's registers -/

/-- Core classes (R12), coded as in `sinfo` cls and the save-area header (R284, R339). -/
inductive CoreClass where
  | none | control | vector | tensor
  deriving DecidableEq, Repr

/-- Feature groups (R12), in the order of the floe groups byte and the mix counters (R135, R339). -/
inductive Group where
  | b | s | f | va | vx | t | x | p
  deriving DecidableEq, Repr

/-- An entry of the hardware loop stack (R59). -/
structure LoopEntry where
  /-- start address [02_state R59] -/
  start : BitVec 64
  /-- end address [02_state R59] -/
  last : BitVec 64
  /-- iterations left [02_state R59] -/
  count : BitVec 32
  deriving DecidableEq, Repr

/-- The user state of a thread: its registers, loop stack and user control registers (R52 to R66). -/
structure Arch where
  /-- program counter [01_work_tree R9; reset DESIGN CHOICE 0, log 1: an absent thread] -/
  pc : BitVec 64
  /-- g0 to g31; g0 reads zero [02_state R52, R53; reset 0 but g1 and g30 at thread start, R322] -/
  g : Vector (BitVec 64) 32
  /-- v0 to v63 by physical number, of which G bits are held [02_state R52, R54, R55; reset 0] -/
  v : Vector (BitVec 2048) 64
  /-- p0 to p7; p0 reads all-true [02_state R52, R57; reset 0, p0 all-true] -/
  p : Vector (BitVec 256) 8
  /-- a0 to a7: element (i, j) at bits 32·(32·i + j) upward [02_state R52, R58; reset 0] -/
  acc : Vector (BitVec 32768) 8
  /-- the deep file, 192 entries [02_state R52, R56; reset 0] -/
  deep : Vector (BitVec 2048) 192
  /-- the hardware loop stack, top first, at most six entries [02_state R52, R59; reset empty] -/
  loops : List LoopEntry
  /-- CR 0x000: elements granted, trimmed by VLDF [02_state R61; reset G / w] -/
  vcount : BitVec 12
  /-- CR 0x001: element format [02_state R61; reset 0x2] -/
  vform : BitVec 4
  /-- CR 0x002: rotation base [02_state R61; reset 0] -/
  vrot : BitVec 5
  /-- CR 0x003: greatest slip in element groups [02_state R61; reset 4] -/
  vslip : BitVec 4
  /-- CR 0x004: deep-file entries, 0 or 192 [02_state R61; reset 0] -/
  vdeep : BitVec 8
  /-- CR 0x005: first element not yet done [02_state R61; reset 0] -/
  vresume : BitVec 9
  /-- CR 0x006: snowline slot, 0 to 8 [02_state R61; reset 0] -/
  vsnow : BitVec 4
  /-- CR 0x008: collective group: height [4:0], domain [7:5], dv [8] [02_state R61; reset 0] -/
  vcgroup : BitVec 9
  /-- CR 0x009: collective operator [3:0] and format [7:4] [02_state R61; reset 0x20] -/
  vcop : BitVec 8
  /-- CR 0x00A: chunk stride [02_state R61; reset 0] -/
  vcstride : BitVec 48
  /-- CR 0x010: rounding mode [02_state R61; reset 0] -/
  fround : BitVec 3
  /-- CR 0x011: sticky flags, invalid, divide by zero, overflow, underflow, inexact from bit 0 [02_state R61; reset 0] -/
  fstat : BitVec 5
  /-- CR 0x020: A format [02_state R61; reset 0] -/
  tfa : BitVec 4
  /-- CR 0x021: B format [02_state R61; reset 0] -/
  tfb : BitVec 4
  /-- CR 0x022: A-side scales' address [02_state R61; reset 0] -/
  tsa : BitVec 56
  /-- CR 0x023: B-side scales' address [02_state R61; reset 0] -/
  tsb : BitVec 56
  /-- CR 0x024: metadata's névé address [02_state R61; reset 0] -/
  tma : BitVec 56
  /-- CR 0x025: operand row stride [02_state R61; reset 256] -/
  tstr : BitVec 19
  /-- CR 0x026: next row of an interrupted T instruction [02_state R61; reset 0] -/
  tresume : BitVec 5
  /-- CR 0x027: checking scoreboard [02_state R61; reset 1] -/
  tchk : BitVec 1
  /-- CR 0x030: frame length [02_state R61; reset at launch, 0 without a plan] -/
  xframe : BitVec 13
  /-- CR 0x031: origin of frame 0 [02_state R61; reset at launch, 0 without a plan] -/
  xbase : BitVec 64
  /-- CR 0x040: height of scope field 30 [02_state R61; reset 0] -/
  slv : BitVec 7
  /-- CR 0x050 to 0x057: watermark word address [55:3] and element size [57:56] [02_state R61; reset 0] -/
  snowb : Vector (BitVec 58) 8
  /-- CR 0x060: VRNG key [02_state R61; reset 0] -/
  rngkey : BitVec 64
  /-- CR 0x070: loggable events retired [02_state R61; reset 0] -/
  mevents : BitVec 64
  /-- CR 0x080 [1:0]: migration and proxy disabled, proxy disabled [02_state R61; reset 0] -/
  migctl : BitVec 2
  /-- CR 0x080 [4:2]: the anchor class, none when not anchored [02_state R61; reset none] -/
  anchor : CoreClass
  /-- CR 0x081: window of R22 and release span of R24 [02_state R61; reset 4096] -/
  mighold : BitVec 32
  /-- CR 0x0F1: instructions retired [02_state R61; reset 0] -/
  retired : BitVec 64
  deriving DecidableEq, Repr

/-- The supervisor control registers of a thread and its level (R282, R284). -/
structure Sup where
  /-- whether the thread runs at supervisor level [14_system_state R282; reset user] -/
  level : Bool
  /-- CR 0x800: ie, pie, pm, tip, end from bit 0 [14_system_state R284; reset 0] -/
  sstat : BitVec 5
  /-- CR 0x801: handler entry address ÷ 4 [14_system_state R284; reset at launch from sentry; absent thread DESIGN CHOICE 0, log 1] -/
  tvec : BitVec 54
  /-- CR 0x802: resume address [14_system_state R284; reset 0] -/
  tpc : BitVec 64
  /-- CR 0x803: cause code [14_system_state R284; reset 0] -/
  tcause : BitVec 8
  /-- CR 0x804: cause detail [14_system_state R284; reset 0] -/
  tdetail : BitVec 64
  /-- CR 0x805: address of the faulting access [14_system_state R284; reset 0] -/
  taddr : BitVec 64
  /-- CR 0x806: convoy member [2:0], cv, elem [11:4], ev [14_system_state R284; reset 0] -/
  tinfo : BitVec 13
  /-- CR 0x808 to 0x80B: scratch [14_system_state R284; reset 0] -/
  sscr : Vector (BitVec 64) 4
  /-- CR 0x810: latched pending lines; bit 8 is computed from cyc and tcmp [14_system_state R284; reset 0] -/
  ipend : BitVec 12
  /-- CR 0x811: lines that may be taken [14_system_state R284; reset 0] -/
  imask : BitVec 12
  /-- CR 0x812: timer compare [14_system_state R284; reset all ones] -/
  tcmp : BitVec 64
  deriving DecidableEq, Repr

/-- The debug registers that belong to a thread (R396). -/
structure Dbg where
  /-- CR 0xA40: bpe [3:0], wpe [5:4], step, skip, btr, ctr, sup [20_debug R396; reset 0] -/
  dctl : BitVec 11
  /-- CR 0xA44 to 0xA47: breakpoint address ÷ 4 [20_debug R396; reset 0] -/
  dbp : Vector (BitVec 54) 4
  /-- CR 0xA48, 0xA49: watched region [20_debug R396; reset 0] -/
  dwa : Vector (BitVec 56) 2
  /-- CR 0xA4A, 0xA4B: lg, ld, st [20_debug R396; reset 0] -/
  dwc : Vector (BitVec 7) 2
  /-- CR 0xA50: trace and sample ring descriptor [20_debug R396; reset 0] -/
  dtdesc : BitVec 56
  /-- CR 0xA51 [23:0]: sample period [20_debug R396; reset 0] -/
  period : BitVec 24
  /-- CR 0xA51 [55:32]: instructions since the last sample [20_debug R396; reset 0] -/
  cnt : BitVec 24
  /-- CR 0xA58: trap migrations [20_debug R396; reset 0] -/
  dmigt : BitVec 32
  /-- CR 0xA59: scheduler migrations [20_debug R396; reset 0] -/
  dmigs : BitVec 32
  /-- CR 0xA5A: round trips [20_debug R396; reset 0] -/
  dtrip : BitVec 32
  /-- CR 0xA5B: instructions executed by proxy [20_debug R396; reset 0] -/
  dprox : BitVec 32
  /-- CR 0xA5C: hub cycles in transit or in the arbiter FIFO [20_debug R396; reset 0] -/
  dmstall : BitVec 64
  deriving DecidableEq, Repr

/-- Poison marks of a thread's registers (R345). -/
structure RegPoison where
  /-- bit r: g register r [17_faults R345; reset clear] -/
  g : BitVec 32
  /-- by physical register: bit w for 64-bit word w [17_faults R345; reset clear] -/
  v : Vector (BitVec 32) 64
  /-- bit r: predicate register r [17_faults R345; reset clear] -/
  p : BitVec 8
  /-- by tile: bit 32·i + j for element (i, j) [17_faults R345; reset clear] -/
  acc : Vector (BitVec 1024) 8
  /-- by deep-file entry: bit w for 64-bit word w [17_faults R345; reset clear] -/
  deep : Vector (BitVec 32) 192
  deriving DecidableEq, Repr

/-! ### What a thread is doing -/

/-- Where a thread is (R9, R18, R20, R336, R339). -/
inductive Place where
  /-- no thread: the current thread of a machine that has dispatched nothing -/
  | absent
  /-- its launch runs, and it has not been dispatched (save-area state 4, R437) -/
  | unstarted
  /-- on a context of its core -/
  | resident
  /-- being moved to its core (R336) -/
  | transit
  /-- in the arbiter's FIFO, for a group (R18) -/
  | fifo (g : Group)
  /-- pre-empted, in its save area (R338) -/
  | saved
  /-- ended (R11) -/
  | ended
  deriving DecidableEq, Repr

/-- What a thread that is not runnable waits for (R49, and the rule named by each). -/
inductive WaitKind where
  /-- FENCEX: its own transfers and remote deliveries (R155) -/
  | fencex
  /-- the wait half of a barrier: word address and the generation seen (R157, R158) -/
  | barrier (word gen : BitVec 64)
  /-- SIGWAIT (R160) -/
  | signal
  /-- SIGWAIT that a WAKE action on the word at a cell has completed (R161) -/
  | woken (key : Nat)
  /-- SIGARM on a full action table (R162) -/
  | actions
  /-- a governed vector element (R107) -/
  | snowline
  /-- BXQ on a full FIFO (R166) -/
  | bxqFifo
  /-- a register that a block transfer still uses (R168) -/
  | transferRegs
  /-- IDLE (R291) -/
  | idle
  /-- TLBINV, until its thread's earlier writes have performed and no access translated by an entry that it removed at a link count
  is left (R312) -/
  | tlbinv (since : Option Nat)
  /-- CTXSAVE, until the image is written (R293) -/
  | ctxsave
  /-- MIGR, until the move that began at the link count, if it has begun, has ended (R294) -/
  | migr (began : Option Nat)
  /-- XWAIT, until the link count given (R268) -/
  | window (opens : Nat)
  /-- XRECV of slot k, until its arrival at the link count given (R268) -/
  | arrival (k : BitVec 8) (at_ : Nat)
  /-- a T or X instruction: wait count, unit or an earlier access (R243) -/
  | unit
  /-- a trap or stop: running T instructions (R247) -/
  | drain
  /-- moraine ring space (R383) -/
  | moraine
  /-- its turn at an object in replay (R386) -/
  | replay
  /-- a proxy server's service (R25): the server's core, and the link count at which the request came to it -/
  | proxy (server : BitVec 13) (came : Nat)
  /-- the return of a result that the proxy server has computed (R23) -/
  | served (server : BitVec 13)
  /-- a store, whose line another die holds or has asked for, until its own die holds it (R372, R373) -/
  | home (line : Nat)
  /-- the host's answer to a page request for the address (R304) -/
  | page (va : BitVec 64) (write fetch : Bool)
  deriving DecidableEq, Repr

/-- A wait and the instruction that waits. -/
structure Wait where
  kind  : WaitKind
  instr : Instr
  deriving DecidableEq, Repr

/-- A fault record (R308, R309), before `time` is filled in at posting. -/
structure FaultRecord where
  kind   : BitVec 8
  cause  : BitVec 8
  reason : BitVec 8
  handle : BitVec 32
  addr   : BitVec 64
  pc     : BitVec 64
  flags  : BitVec 8
  elem   : BitVec 8
  core   : BitVec 16
  /-- handle, progress and object of the abort record that stands for it where a reset comes before its posting (R351, R354) -/
  item   : Option (Nat × Nat × Nat) := none
  deriving DecidableEq, Repr

/-- One record of a loggable event (R377): type, op, element, address, physical object, digest. -/
structure EventItem where
  type   : Nat
  op     : Nat
  elem   : Nat
  va     : BitVec 64
  object : Nat
  digest : BitVec 32
  /-- whether it is the arrival whose RMW completed its generation -/
  last   : Bool := false
  /-- order number, where the access took it before its record is made (R378) -/
  order  : Option (BitVec 32) := none
  deriving DecidableEq, Repr

/-- What a sample record says of one vector memory instruction (R404). -/
structure Sample where
  member : Nat
  pc     : BitVec 64
  active : Nat
  stride : Nat
  flags  : Nat
  lines  : Nat
  pages  : Nat
  /-- link counts of issue and completion -/
  issue  : Nat
  done   : Nat
  deriving DecidableEq, Repr

/-- An open convoy of the thread on a vector core (R31 to R33). -/
structure Convoy where
  /-- address of its head -/
  head : BitVec 64
  /-- its members in order: address and instruction -/
  members : List (BitVec 64 × Instr)
  /-- the member that executes next, from 0 -/
  next : Nat
  /-- registers and control registers as they stood at the head -/
  saved : Arch
  /-- poison marks as they stood at the head -/
  savedPoison : RegPoison
  /-- v, p and g registers that some member reads, as register codes (R32) -/
  reads : List Nat
  /-- v, p and g registers that executed members wrote -/
  written : List Nat
  /-- vector memory members executed at user level, to be counted when it completes (R404) -/
  sampled : List Sample
  /-- governed loads of its members, logged when it completes (R377) -/
  events : List (List EventItem)
  /-- once its last member has executed: where control passes, none for the next word, and whether a slice-watch stop
  stood before it -/
  passing : Option (Option (BitVec 64) × Bool) := none
  deriving DecidableEq, Repr

/-- A running T instruction, with what it sampled and staged at issue (R234, R236). -/
structure RunOp where
  /-- the instruction -/
  instr : Instr
  /-- its address, and what a stop at a row boundary restores: `retired`, loop stack, promises and skip before it -/
  pc : BitVec 64
  before : BitVec 64
  loops : List LoopEntry
  promised : List (BitVec 3 × Nat × Nat)
  skip : Bool
  /-- core cycle of its issue (R244), and its step -/
  issue : Nat
  stamp : Nat
  /-- first row, `tresume` as sampled -/
  first : Nat
  /-- next row to be read -/
  readRow : Nat
  /-- next row to be written, or moved -/
  row : Nat
  /-- rows read and not yet written, oldest first (R244) -/
  latch : List (Nat × BitVec 1024)
  /-- formats A and B -/
  fa : BitVec 4
  fb : BitVec 4
  /-- staged A rows from the first row, tile rows or névé source rows, as little-endian numbers -/
  a : List Nat
  /-- staged B rows by column, all segments joined -/
  b : List Nat
  /-- staged metadata rows (R241) -/
  meta_ : List Nat
  /-- scale bytes of each A row from the first row and of each B row, block 0 lowest -/
  sa : List Nat
  sb : List Nat
  /-- the TACC descriptor's 48 bytes and the 32 bias values (R251) -/
  desc : Nat
  bias : List Nat
  /-- névé cells that it writes, in order: key and length; and, where they are known at issue, the values -/
  writes : List (Nat × Nat)
  vals : List Nat
  /-- memory address of row 0, and row stride, of TLOAD and TSTORE -/
  mem : BitVec 64
  memStride : BitVec 64
  /-- once later instructions may issue beside a TLOAD or TSTORE: where its rows from `row` on lie, as runs of cells with
  their leaves -/
  ahead : Option (List (List (Nat × Nat × BitVec 64)))
  deriving DecidableEq, Repr

/-- A departure bound by an XSEND (R268). -/
structure Departure where
  slot : BitVec 8
  frame : Nat
  /-- link counts of departure and arrival (R261) -/
  departs : Nat
  arrives : Nat
  /-- whether it has left, and whether its flits arrive uncorrectable (R365) -/
  sent : Bool
  bad : Bool
  data : BitVec 2048
  deriving DecidableEq, Repr

/-- A block-transfer request in a context's command FIFO (R166, R169). -/
structure Transfer where
  w0 : BitVec 64
  w1 : BitVec 64
  w2 : BitVec 64
  w3 : BitVec 64
  /-- rotation bases at the BXQ of the contexts whose registers are the source and the destination (R55, R166) -/
  vrotS : BitVec 5
  vrotD : BitVec 5
  /-- whether it was issued from a control core (R167) -/
  control : Bool
  /-- step of its BXQ, which numbers the request (R102) -/
  stamp : Nat
  /-- moraine event number of the BXQ, none at supervisor level (R377) -/
  event : Option (BitVec 64)
  /-- whether an engine has started it, and that engine: die and pod -/
  started : Bool
  engine : BitVec 16
  /-- bytes written -/
  done : Nat
  /-- status and code when it has ended: the record waits to be posted -/
  ended : Option (BitVec 8 × BitVec 8)
  faddr : BitVec 64
  /-- whether its record is held (R435) -/
  held : Bool
  /-- host page that its next access waits for, and whether the host has refused it (R304) -/
  waitPage : Option (BitVec 64)
  refused : Bool := false
  /-- source bytes past `done` that were read with the rest of their unit (R103) -/
  carry : List (BitVec 8) := []
  /-- where its source and destination overlap: cells it has written, with their values before (R169) -/
  olds : List (Nat × BitVec 8)
  deriving DecidableEq, Repr

/-- A remote element on its way to its home, or to another package (R225, R423). -/
structure RemoteElem where
  /-- issuing thread and instruction -/
  handle : Handle
  pc : BitVec 64
  /-- core of the issuer -/
  core : BitVec 13
  dc : DctxId
  /-- memory cells, as runs of key and length, for an element homed on this package -/
  runs : List (Nat × Nat)
  va : BitVec 64
  index : Nat
  bytes : Nat
  /-- operator of `vcop`; 14 for a write and 15 for a read on another package -/
  op : BitVec 4
  /-- format as in `vform` -/
  fmt : BitVec 4
  value : Nat
  /-- VRDST's tag -/
  tag : Option (BitVec 16)
  /-- home die, 15 on another package -/
  home : BitVec 4
  /-- port and address of the package, for an element that leaves this one, when a link was up (R422) -/
  port : Option (BitVec 3)
  dest : BitVec 128 := 0
  /-- link count at which it left, which with the handle names its instruction, and elements that instruction issued -/
  left : Nat
  issued : Nat
  /-- what its home has decided for the instruction's tag: apply or drop (R227) -/
  verdict : Option Bool
  /-- moraine event number, none at supervisor level -/
  event : Option (BitVec 64)
  /-- whether another package refused it, and the reason -/
  refused : Option (BitVec 8)
  deriving DecidableEq, Repr

/-- The answer to a delivery that this package has sent: its port and the sender's number; the reason of a refusal, and the data of a
read (R423). -/
structure RemoteReply where
  port    : BitVec 3
  number  : Nat
  refusal : Option (BitVec 8)
  data    : List (BitVec 8)
  deriving DecidableEq, Repr

/-- A precise trap that waits for running T instructions: cause, detail, address and `tinfo`. -/
structure DueTrap where
  cause  : BitVec 8
  detail : BitVec 64
  addr   : BitVec 64
  info   : BitVec 13
  deriving DecidableEq, Repr

/-- A thread: its registers, what it is doing, and what the module keeps for it. -/
structure Thread where
  /-- context handle, CR 0x820: device context, launch slot, dense number [16_launch R323; reset at launch; absent thread DESIGN CHOICE 0, log 1] -/
  handle : Handle
  /-- work identifier [01_work_tree R37; reset at launch; absent thread DESIGN CHOICE 0, log 1] -/
  wid : BitVec 64
  /-- where it is [01_work_tree R9; reset absent] -/
  place : Place
  /-- BAR and BARD instructions of the thread that have arrived and wait: address and generation [06_base R158; reset none] -/
  barHalf : List (BitVec 64 × BitVec 64)
  /-- its arrivals in barrier words: address and generation [04_memory R113; reset none] -/
  arrivals : List (BitVec 64 × BitVec 64)
  /-- the core it occupies, moves to, or last occupied [18_package R358; reset DESIGN CHOICE 0, log 1] -/
  core : BitVec 13
  /-- its context slot on that core [06_base R172; reset DESIGN CHOICE 0, log 1] -/
  slot : Nat
  /-- halves of lane clusters that it holds on a vector core: bit 2·k + i for half i of cluster k [01_work_tree R27, R28; reset 0] -/
  lanes : BitVec 8
  /-- the core its binding names [10_ogive R263; reset DESIGN CHOICE 0, log 1] -/
  bound : BitVec 13
  /-- tensor die on whose core it stood last, which holds its névé window's backing region; none before the first
  [04_memory R90; reset none] -/
  neveDie : Option (BitVec 4)
  /-- class of the core last resident, none before the first [16_launch R339; reset none] -/
  lastClass : CoreClass
  /-- log2 of the launch grant G0, 0 on a launch without vectors [16_launch R339; reset 0] -/
  lgG0 : Nat
  /-- log2 of the active grant G [16_launch R339; reset 0] -/
  lgG : Nat
  /-- whether it holds a deep file [01_work_tree R28; reset false] -/
  deepHeld : Bool
  arch : Arch
  sup : Sup
  dbg : Dbg
  poison : RegPoison
  /-- mix counters, in group order [01_work_tree R21; reset 0] -/
  mix : Vector (BitVec 32) 8
  /-- class from which round trips are counted: the one that the first counted trap migration since the counters were cleared left
  [21_program_migration R413; reset none] -/
  tripHome : CoreClass
  /-- position at which the current trip away from that class began [01_work_tree R22; reset none] -/
  trip : Option Nat
  /-- position at which the last counted round trip began [01_work_tree R22; reset none] -/
  lastTrip : Option Nat
  /-- instructions retired since the last proxy or trap migration [01_work_tree R24; reset 0] -/
  calm : Nat
  /-- whether it is on a trip away from its anchor class, to return by R24 [01_work_tree R24; reset false] -/
  away : Bool
  /-- class a standing MIGH names [06_base R176; reset none] -/
  migh : CoreClass
  /-- core a standing MIGR names [14_system_state R294; reset none] -/
  migrTo : Option (BitVec 13)
  /-- whether the next migration is the first after a TRET [14_system_state R283; reset false] -/
  afterTret : Bool
  /-- core of the last trap entry, for TRET's scheduling record [19_moraine R380; reset DESIGN CHOICE 0, log 1] -/
  trapCore : BitVec 13
  /-- position count: user-level instructions completed [19_moraine R388; reset 0] -/
  position : Nat
  /-- moraine position: event count at the last logged event [16_launch R339; reset 0] -/
  lastEvent : BitVec 64
  /-- what it waits for [01_work_tree R49; reset none] -/
  wait : Option Wait
  /-- host page that the host has refused to its access, which is then to fail [15_translation R304; reset none] -/
  refused : Option (BitVec 64)
  /-- parked, with the record of its failure [14_system_state R287; reset none] -/
  parked : Option FaultRecord
  /-- held [14_system_state R293; reset false] -/
  held : Bool
  /-- whether the class of its next placement is named by an image (R293) [14_system_state R293; reset none] -/
  placeOn : CoreClass
  /-- link count at which it became resident, or began to wait in the FIFO [16_launch R332, R333; reset 0] -/
  since : Nat
  /-- whether its last instruction is an ordering operation at PACKAGE scope or wider, which completes when the home has taken the transaction of each of
  its writes [18_package R371; reset false] -/
  ordering : Bool
  /-- link count at which a move brought it here, until its first instruction here [16_launch R336; reset none] -/
  arrived : Option Nat
  /-- link count from which it has been ready without issuing, none while it is not ready [16_launch R333; reset none] -/
  readyAt : Option Nat
  /-- core cycles of allowed issue through which it has been ready without issuing [16_launch R333; reset 0] -/
  spent : Nat
  /-- whether its XWAIT has completed and its next instruction issues first [10_ogive R267; reset false] -/
  ahead : Bool
  /-- whether it has given up its issue slot to the other contexts of its core [06_base R175; reset false] -/
  yielded : Bool
  /-- open convoy [01_work_tree R31; reset none] -/
  convoy : Option Convoy
  /-- convoys that have been stopped and not yet executed again: level, head, stops [02_state R63; reset none] -/
  reruns : List (Bool × BitVec 64 × Nat)
  /-- whether one instruction may run as its proxy server's result [01_work_tree R23; reset false] -/
  grant : Bool
  /-- link count at which the instruction that now waits first issued, and whether a snowline stalled it [20_debug R404; reset none] -/
  stalledAt : Option (Nat × Bool)
  /-- its instruction of which an element or segment has faulted, until its next unit at user level completes [20_debug R404; reset none] -/
  faulted : Option (BitVec 64)
  /-- base of the snowline at which it waits, read when its load issued [02_state R62; reset DESIGN CHOICE 0, log 1] -/
  snowBase : BitVec 64
  /-- a slice-watch stop: comparator, address, instructions retired since the store [20_debug R409; reset none] -/
  sliceStop : Option (BitVec 2 × BitVec 56 × Nat)
  /-- running T instructions, oldest first [09_tensor R243; reset none] -/
  runs : List RunOp
  /-- a stop that has reached it waits for its T instructions: the core cycle from which no further row of the youngest begins
  [09_tensor R247; reset none] -/
  halted : Option Nat
  /-- link count at which a stop request was made that its core has not yet honoured [17_faults R352; reset none] -/
  stopAsked : Option Nat
  /-- a precise trap of its next instruction, which waits for running T instructions [09_tensor R247; reset none] -/
  due : Option DueTrap
  /-- core cycle of issue of the previous T or X instruction, none before the first [09_tensor R244; reset none] -/
  lastTX : Option Nat
  /-- L-page sectors that a stopped TSTORE has written [19_moraine R377; reset 0] -/
  tileSectors : Nat
  /-- whether a step trap waits for running T instructions [20_debug R401; reset false] -/
  stepDue : Bool
  /-- promised separations of the T and X instructions issued, newest first: tile, producer kind, promise so far [09_tensor R244; reset none] -/
  promises : List (BitVec 3 × Nat × Nat)
  /-- block-transfer FIFO, oldest first, at most 8 [06_base R166; reset empty] -/
  bxq : List Transfer
  /-- slot table, 256 entries of 16 bytes, word 0 lowest [10_ogive R259; reset empty] -/
  slots : Vector (BitVec 128) 256
  /-- fresh bits [10_ogive R265; reset 0] -/
  fresh : BitVec 256
  /-- bound departures of the thread [10_ogive R268; reset none] -/
  departures : List Departure
  /-- dirty névé sectors, ascending [02_state R65; reset none] -/
  neveDirty : List Nat
  /-- header of its save area as the device last wrote it, 64 bytes [16_launch R339; reset none] -/
  areaHead : List (BitVec 8)
  /-- requests of its block-transfer FIFO when its save area was last written [16_launch R339; reset 0] -/
  areaFifo : Nat
  /-- whether its window has been written back (R339) [16_launch R339; reset false] -/
  neveBack : Bool
  /-- block-transfer requests whose completion report it has read, by number [04_memory R101; reset none] -/
  told : List Nat
  /-- completion reports left: remote elements issued and not applied [08_vector_ext R225; reset 0] -/
  remoteOut : Nat
  /-- next record of the replay source that is its own, by index [19_moraine R387; reset 0] -/
  replayAt : Nat
  /-- a device record of the thread mismatched: address, detail without the event [19_moraine R438; reset none] -/
  mismatch : Option (BitVec 64 × BitVec 64)
  /-- records of the present event that its faulting VSTSEG has made (R230) [19_moraine R377; reset 0] -/
  segmentsDone : Nat
  /-- records of an event of the thread that wait to be posted [19_moraine R383; reset none] -/
  moraineDebt : List (List (BitVec 8))
  deriving DecidableEq, Repr

/-! ### Device contexts -/

/-- A ring of a device context (R316, R317). -/
structure Ring where
  base    : BitVec 64
  lg      : Nat
  prio    : Nat
  enabled : Bool
  quantum : Nat
  headw   : BitVec 64
  /-- head H and accepted tail -/
  head    : BitVec 64
  tail    : BitVec 64
  errors  : BitVec 64
  /-- deficit of R327 -/
  deficit : Nat
  /-- launch slot whose LAUNCH stands at the head, fetched and not yet binding (R325) -/
  atHead  : Option LaunchSlot
  deriving DecidableEq, Repr

/-- An armed action (R161). -/
structure Action where
  /-- physical cell of the counter, and its virtual address -/
  key       : Nat
  counter   : BitVec 64
  threshold : BitVec 64
  /-- 0 WAKE, 1 POST, 2 LAUNCH -/
  kind      : Nat
  /-- descriptor or packet address -/
  arg       : BitVec 64
  /-- arming thread and the event number of its SIGARM, none at supervisor level -/
  handle    : Handle
  event     : Option (BitVec 64)
  /-- `tick` of the arming, which orders actions at one threshold (R110) -/
  armed     : Nat
  deriving DecidableEq, Repr

/-- A packet submitted by SIGARM.LAUNCH: its 64 bytes and priority (R161, R327). -/
structure Submitted where
  bytes  : List (BitVec 8)
  prio   : Nat
  atHead : Option LaunchSlot
  deriving DecidableEq, Repr

/-- What a held device access would do (R435). -/
inductive HeldItem where
  /-- the head packet of a ring -/
  | packet (ring : RingId)
  /-- the completion record of a launch -/
  | launchRecord (slot : LaunchSlot)
  /-- the completion record of the oldest transfer of a thread -/
  | transferRecord (h : Handle)
  /-- the completion record of a refused packet or SIGNAL: its bytes, ring and counter, the header of a refused LAUNCH, and
  whether its fault record has been posted (a full ring posts none) -/
  | packetRecord (bytes : List (BitVec 8)) (cring csig : BitVec 64) (header : Option (BitVec 64)) (told : Bool)
  deriving DecidableEq, Repr

/-- What the device has asked the host about a page: its translation, and, once the host has given none or one with too few
permissions, the page itself (R303, R304). -/
structure PageRequest where
  page : BitVec 64
  /-- whether it is a page request, and the number that orders page requests by their arrival -/
  pri   : Bool
  asked : Nat
  /-- whether a unit other than a thread or its engine asks -/
  device : Bool
  /-- the access kind: write, or fetch -/
  write : Bool
  fetch : Bool
  /-- whether it has been answered negatively, for the unit of the device that asks: its access fails at its retry -/
  failed : Bool
  deriving DecidableEq, Repr

/-- An invalidation by the host whose completion has not been sent (R305, R310): the device contexts whose translations it
removed, the link count of the removal, and whether held device accesses are then tried again. -/
structure Invalidation where
  dctxs : List DctxId
  since : Nat
  retry : Bool
  deriving DecidableEq, Repr

/-- A device context (R10, R314), with the registers its threads share (R309, R381, R396). -/
structure Dctx where
  id     : DctxId
  part   : PartId
  /-- AQI version and capabilities in force [16_launch R315] -/
  aqimaj : BitVec 16
  aqimin : BitVec 16
  caps   : BitVec 32
  /-- CR 0x833 [15_translation R309; reset by the host driver] -/
  pasid  : BitVec 20
  /-- CR 0x832: root table [15_translation R309; reset by the host driver] -/
  ptroot : BitVec 52
  /-- supervisor entry [16_launch R314] -/
  sentry : BitVec 64
  /-- interrupt routing word [16_launch R314] -/
  iroute : BitVec 32
  share  : Nat
  pmax   : Nat
  /-- time slice in µs [16_launch R314] -/
  slice  : Nat
  /-- addresses of the ring table and the capability block [16_launch R314] -/
  ringTable : BitVec 64
  capblk : BitVec 64
  /-- lines 9 to 11 held while iroute names no live thread [16_launch R314; reset 0] -/
  lines  : BitVec 12
  rings  : List Ring
  /-- step at which a packet of it was last taken [16_launch R327; reset 0] -/
  served : Nat
  /-- packets submitted by SIGARM.LAUNCH, oldest first [16_launch R327] -/
  submitted : List Submitted
  /-- armed actions in arming order, at most 65,536 [06_base R162] -/
  actions : List Action
  /-- actions taken off the table whose firing waits, with the counter's value and the order number of the increment that crossed
  [06_base R161, 19_moraine R378] -/
  firing : List (Action × BitVec 64 × Option (BitVec 32))
  /-- CR 0x830 [15_translation R309; reset by the host driver] -/
  fqdesc : BitVec 56
  /-- CR 0x831 ovf [15_translation R309; reset 0] -/
  fqOvf  : Bool
  /-- waiting fault records in posting order [15_translation R309] -/
  fqWait : List FaultRecord
  /-- CR 0xA00 [19_moraine R381; reset 0] -/
  mrdesc : BitVec 56
  /-- CR 0xA01 hw [19_moraine R381; reset 0] -/
  mrHw   : Bool
  /-- whether records wait for a write that installs a valid descriptor: a recording launch has met an invalid one
  [19_moraine R382; reset false] -/
  mrBroken : Bool
  /-- CR 0xA02 [19_moraine R381; reset 0] -/
  mpbase : BitVec 56
  /-- CR 0xA03 [19_moraine R381; reset 0] -/
  mpcnt  : BitVec 32
  /-- CR 0xA05 [19_moraine R381; reset 0] -/
  mpdiv  : BitVec 32
  /-- CR 0xA60 [20_debug R396; reset 0] -/
  dwdesc : BitVec 56
  /-- CR 0xA61 to 0xA64 [20_debug R396; reset 0] -/
  dsa    : Vector (BitVec 56) 4
  /-- CR 0xA65 to 0xA68 [20_debug R396; reset 0] -/
  dsm    : Vector (BitVec 54) 4
  /-- physical sector of each installed slice watchpoint [20_debug R406; reset none] -/
  dsSector : Vector (Option Nat) 4
  /-- page requests outstanding [15_translation R304] -/
  pages  : List PageRequest
  /-- host invalidations through it without their completion, and completions sent [15_translation R305, R310; reset none] -/
  invals : List Invalidation
  invalsSent : Nat
  /-- held device accesses [06_base R435] -/
  heldItems : List HeldItem
  deriving DecidableEq, Repr

/-! ### Launches -/

/-- Launch states (R325). -/
inductive LaunchState where
  | waiting | admitting | binding | running | done
  deriving DecidableEq, Repr

/-- A level of a work tree: fan-out (0 for a `vl` leaf), domain bitmaps, physical level it is bound to (R35, R38). -/
structure Level where
  vl      : Bool
  fanout  : Nat
  /-- declared physical level, none when undeclared -/
  declared : Option (BitVec 3)
  /-- bound physical level -/
  bound   : BitVec 3
  domains : List (BitVec 64)
  deriving DecidableEq, Repr

/-- A slot of an exchange plan (R258). -/
structure PlanSlot where
  k      : Nat
  start  : Nat
  window : Nat
  owner  : Nat
  peer   : Nat
  dest   : Nat
  deriving DecidableEq, Repr

/-- The launch header's fields and the image's, as the command processor read them (R135, R321). -/
structure LaunchInfo where
  mode   : BitVec 2
  image  : BitVec 64
  /-- address of the launch's entry point -/
  entry  : BitVec 64
  groups : BitVec 8
  deep   : Bool
  vlmin  : Nat
  vlmax  : Nat
  neve   : Nat
  args   : BitVec 64
  nwin   : BitVec 64
  stack  : BitVec 64
  stackn : BitVec 64
  sync   : BitVec 64
  syncn  : BitVec 64
  save   : BitVec 64
  saven  : BitVec 64
  affin  : BitVec 16
  energy : Nat
  deps   : List (BitVec 64 × BitVec 64)
  /-- stack and spill bytes per thread: fixed part and units of G (R137) -/
  stackBytes : Nat
  spillBytes : Nat
  /-- tree, leaf first -/
  tree   : List Level
  frame  : Nat
  plan   : List PlanSlot
  deriving DecidableEq, Repr

/-- A launch (R11, R320 to R331). -/
structure Launch where
  dc     : DctxId
  slot   : LaunchSlot
  state  : LaunchState
  /-- packet fields -/
  ring   : RingId
  tag    : BitVec 16
  header : BitVec 64
  cring  : BitVec 64
  csig   : BitVec 64
  prio   : Nat
  info   : LaunchInfo
  /-- refusal code waiting to be reported, 0 for none -/
  refusal : BitVec 8
  /-- log2 of G0 -/
  lgG0   : Nat
  /-- threads, and threads ended -/
  threads : Nat
  ended   : Nat
  /-- `cyc` at the first dispatch, none before it -/
  started : Option Nat
  /-- core that the binding names for each gang, in a launch with a plan or in replay (R263, R385); empty otherwise -/
  cores  : List (BitVec 13)
  /-- threads of each gang -/
  gang   : Nat
  /-- gangs waiting to be placed, in order (R332) -/
  waiting : List Nat
  /-- resident gangs: number, core, link count at which they became resident (R332) -/
  resident : List (Nat × BitVec 13 × Nat)
  /-- link count at which the launch was fetched, from when its gangs wait (R332) -/
  fetched : Nat
  /-- pre-empted gangs that wait, and the link count at which each was pre-empted (R332) -/
  left : List (Nat × Nat)
  /-- waiting gangs, and cores that gangs have been pre-empted on for them (R332) -/
  promised : List (Nat × BitVec 13)
  /-- instances chosen for nodes bound above CORE: level, node, pod or die (R330) -/
  instances : List (Nat × Nat × Nat)
  /-- dependence counters that have been found unmapped (R326) -/
  depFaulted : List (BitVec 64)
  /-- `xbase` -/
  xbase  : Nat
  /-- hub exchange channels held: ordered die pairs (R262) -/
  channels : List (BitVec 4 × BitVec 4)
  /-- replay source as sampled at admission: base and count (R385) -/
  rpBase : BitVec 56
  rpCount : Nat
  /-- whether replay is still enforced (R391) -/
  enforced : Bool
  /-- records consumed, by index (R387) -/
  consumed : List Nat
  deriving DecidableEq, Repr

/-! ### Memory -/

/-- A translation that a TLB, walk cache or ATS cache still holds (R306, R307): the tables' answer at the time. -/
structure TlbEntry where
  part  : PartId
  dc    : DctxId
  /-- virtual page number, and 4 KiB host page within it for an ATS entry -/
  page  : BitVec 64
  /-- leaf word with the page's own frame, and the level at which the leaf stands -/
  leaf  : BitVec 64
  level : Nat
  deriving DecidableEq, Repr

/-- A translation that the host has given for a 4 KiB page of a PASID and that the module still holds (R303, R305). -/
structure HostPage where
  part  : PartId
  pasid : BitVec 20
  page  : BitVec 64
  hpa   : BitVec 52
  r     : Bool
  w     : Bool
  x     : Bool
  /-- level of the leaf that delegated the page -/
  level : Nat
  deriving DecidableEq, Repr

/-- The state of a source's sequence tags at one home die (R227). -/
structure TagState where
  /-- the source: its launch (handle bits [31:22]) and WID -/
  launch : BitVec 10
  wid    : BitVec 64
  home   : BitVec 4
  /-- latest tag accepted, and the marks of the 4,096 tags up to it: bit n for tag latest − n -/
  latest : BitVec 16
  marks  : BitVec 4096
  deriving DecidableEq, Repr

/-- An object's order counter, kept while a recording launch that accessed it lives (R378). -/
structure OrderCounter where
  part   : PartId
  /-- physical sector -/
  object : Nat
  next   : BitVec 32
  /-- launches that accessed it: handle bits [31:22] -/
  users  : List (BitVec 10)
  deriving DecidableEq, Repr

/-! ### The module's units -/

/-- A supervisor image loaded into write-protected memory (R428). -/
structure LoadedImage where
  base    : Nat
  bytes   : Nat
  svn     : BitVec 32
  /-- physical addresses of its entry points, and its text sections as address and bytes -/
  entries : List Nat
  texts   : List (Nat × Nat)
  deriving DecidableEq, Repr

/-- A partition (R348). -/
structure Partition where
  /-- spokes by die bit [17_faults R348; reset none assigned] -/
  spokes   : BitVec 10
  /-- CXL windows by bit [17_faults R348; reset none assigned] -/
  windows  : BitVec 16
  /-- Ultra Ethernet ports by bit [17_faults R348; reset none assigned] -/
  ports    : BitVec 8
  /-- hub exchange channels [10_ogive R262; reset 0] -/
  channels : Nat
  /-- energy budget B [16_launch R334; reset DESIGN CHOICE 0, log 4: none set] -/
  budget   : Nat
  /-- metered energy M of the last window [16_launch R334; reset 0] -/
  metered  : Nat
  /-- issue cap k of k/16 [16_launch R335; reset 16, no cap] -/
  cap      : Nat
  /-- abort ring descriptor's host address [17_faults R354; reset none] -/
  abortRing : Option (BitVec 64)
  /-- node table and rack table [22_host R422; reset empty] -/
  node     : List Endpoint
  rack     : List Endpoint
  /-- loaded supervisor images [22_host R428; reset none] -/
  images   : List LoadedImage
  /-- under reset: reason, and `cyc` of the reset point [17_faults R352; reset none] -/
  resetting : Option (BitVec 8 × Nat)
  /-- a reset that waits for threads of the partition in transit: its reason [01_work_tree R20; reset none] -/
  resetAsked : Option (BitVec 8)
  /-- spokes, windows, ports and channels that the partition has from its next reset point on [22_host R425; reset none] -/
  assign : Option (BitVec 10 × BitVec 16 × BitVec 8 × Nat)
  /-- step at which a packet of one of its device contexts was last taken [16_launch R327; reset 0] -/
  served : Nat
  deriving DecidableEq, Repr

/-- An entry of the persistent error log (R356); its 64 bytes are these fields. -/
structure LogEntry where
  seq   : BitVec 64
  boot  : BitVec 32
  time  : BitVec 64
  cls   : BitVec 8
  die   : BitVec 8
  part  : BitVec 8
  row   : BitVec 8
  unit  : BitVec 16
  count : BitVec 16
  addr  : BitVec 64
  syndrome : BitVec 64
  detail   : BitVec 64
  deriving DecidableEq, Repr

/-- A second-tier memory window (R419). -/
structure CxlWindow where
  part  : PartId
  base  : Nat
  size  : Nat
  ports : List (BitVec 2 × Nat)
  deriving DecidableEq, Repr

/-- A firmware slot (R427). -/
structure FwSlot where
  image    : Option FwImage
  verified : Bool
  deriving DecidableEq, Repr

/-- A counter of the register space (R411): core block, die block or slice group, and offset. -/
structure Counter where
  /-- offset in the register BAR -/
  offset : Nat
  value  : BitVec 64
  deriving DecidableEq, Repr

/-- What the last mailbox command answered, where its bytes are not laid out (R425, R426, R356). -/
inductive MbOutput where
  | none
  /-- IDENTIFY: `dver`, `dblend`, `dienab`, the firmware versions of both slots and the active slot -/
  | identity (dver dblend dienab : BitVec 64) (firmware : List (Option (BitVec 32))) (active : BitVec 1)
  /-- READ_SENSORS: value and sequence number of each sensor -/
  | sensors (readings : List (BitVec 48 × BitVec 16))
  /-- READ_LOG: entries, the fatal region's first -/
  | log (entries : List LogEntry)
  deriving DecidableEq, Repr

/-- A management command that runs: whether it came by I3C, and its opcode (R424). -/
structure MbRun where
  i3c : Bool
  op  : BitVec 16
  deriving DecidableEq, Repr

/-- What stands in the module outside threads, device contexts and memory. -/
structure Module where
  /-- dies that the harvest fuses enable, those that bring-up has left enabled, and those present [18_package R367; reset 0x3FF, log 5] -/
  fuses   : BitVec 10
  enabled : BitVec 10
  present : BitVec 10
  /-- `dpods0` to `dpods8` [18_package R367; reset all pods of R358, log 5] -/
  pods    : Vector (BitVec 48) 9
  /-- `dfirn` frac of each die, in force [18_package R367, R368; reset 2] -/
  carve   : Vector (BitVec 2) 10
  /-- carve-out chosen for the next partition reset [18_package R368; reset 2] -/
  carveNext : BitVec 2
  /-- capacity in bytes of the memory device on each of ports 1 to 3 [22_host R418; reset DESIGN CHOICE 0, log 5: no memory attached] -/
  cxlPort : Vector Nat 4
  /-- `ttr` time and valid, and the last `ttq` pair [18_package R367; reset 0] -/
  ttrTime : BitVec 8
  ttrValid : Bool
  /-- `mbcmd` op, len, go; `mbsts` rc, busy, olen; `mbdata` [22_host R424; reset 0] -/
  mbOp    : BitVec 16
  mbLen   : BitVec 16
  mbGo    : Bool
  mbRc    : BitVec 16
  mbOlen  : BitVec 16
  mbData  : List (BitVec 8)
  /-- what the last command answered, and the partition whose reset the running command awaits [22_host R424, R425; reset none] -/
  mbOut   : MbOutput
  mbWait  : Option PartId
  /-- the command that runs, of which path; what the running command strikes while it waits for a page of the host; commands of the I3C
  path that wait for it, in the order of their arrival; and the last response of that path: opcode, return code and output
  [22_host R424; reset none] -/
  mbRun   : Option MbRun
  mbHeld  : Option Operands
  mbQueue : List (Instr × Operands)
  mbI3c   : Option (BitVec 16 × BitVec 16 × List (BitVec 8))
  /-- partitions 0 to 3 [17_faults R348; reset nothing assigned] -/
  parts   : Vector Partition 4
  /-- second-tier windows [22_host R419; reset none] -/
  windows : Vector (Option CxlWindow) 16
  /-- links up: CXL ports 0 to 3, Ultra Ethernet ports 0 to 7 [22_host R416, R421; reset up after bring-up, log 5] -/
  cxlUp   : BitVec 4
  ueUp    : BitVec 8
  /-- sensors: value and sequence number, 39 of R426 [22_host R426; reset DESIGN CHOICE 0, log 6] -/
  sensors : Vector (BitVec 48 × BitVec 16) 39
  /-- dies capped for heat, with k [22_host R426; reset none] -/
  heat    : Vector (Option Nat) 10
  /-- error log: next sequence number, boot count, fatal ring and general ring, oldest first [17_faults R356; reset DESIGN CHOICE empty, log 6] -/
  logSeq  : BitVec 64
  boot    : BitVec 32
  logFatal : List LogEntry
  logGeneral : List LogEntry
  /-- firmware slots, the active one, the one marked for the next reset, whether it runs [22_host R427; reset slot 0, log 6] -/
  fw      : Vector FwSlot 2
  fwActive : BitVec 1
  fwNext  : BitVec 1
  /-- rollback floors of firmware and supervisor images [22_host R427, R428; reset DESIGN CHOICE 0, log 6] -/
  fwFloor : BitVec 32
  supFloor : BitVec 32
  /-- SHA-384 hash of the owner key, none while no owner is set [22_host R427; reset none, log 6] -/
  owner   : Option (BitVec 384)
  /-- keyings of each spoke link, and the link count of its last one, from which its tag groups are counted [18_package R364, R366; reset 1 keying, at 0] -/
  keyings : Vector Nat 10
  keyedAt : Vector Nat 10
  /-- time of the last slice watchpoint record [20_debug R408; reset 0] -/
  watchTime : Nat
  /-- counters that differ from zero [20_debug R411; reset 0] -/
  counters : List Counter
  /-- links that an integrity failure has cut since they were keyed, bit d for die d's [17_faults R350, R354, 18_package R364; reset 0] -/
  linksDown : BitVec 10
  /-- whether the host's port has page requests (PRI) enabled [15_translation R304; reset DESIGN CHOICE true, log 137] -/
  pri     : Bool
  /-- whether bring-up has ended and the controller is ready [22_host R432; reset true: the machine stands after step 6] -/
  ready   : Bool
  /-- whether a module reset waits for its partitions' resets (the model's own field, R342; reset false) -/
  resetDue : Bool
  /-- step of the last module reset, from which the counters count [20_debug R411; reset 0] -/
  began : Nat
  deriving DecidableEq, Repr

/-! ### The fabric -/

/-- States of a line at an agent (R372). -/
inductive AgentState where
  | i | s | e | m | o | isD | imD | smA | miA
  deriving DecidableEq, Repr

/-- Requests an agent sends to the home (R371). -/
inductive Request where
  | getS | getM | upg | putM | putO | putE
  deriving DecidableEq, Repr

/-- A line held by an agent, in its L2 or its firn (R369, R374). -/
structure AgentLine where
  line  : Nat
  agent : AgentId
  state : AgentState
  firn  : Bool
  /-- sectors held and sectors dirty, and the replacement age, of a line in firn -/
  valid : BitVec 4
  dirty : BitVec 4
  age   : BitVec 4
  /-- way of its firn set (R374, R375) -/
  way   : BitVec 4
  deriving DecidableEq, Repr

/-- Messages from the home to an agent (R371, R372). -/
inductive HomeMsg where
  | inv | fwdGetS | fwdGetM | dataS | dataE | dataM | upgAck | putAck
  deriving DecidableEq, Repr

/-- Messages of an agent to the home that are under way (R372): an acknowledgement, a forward's data with the owner's new
state, or a write-back. -/
inductive AgentMsg where
  | invAck
  | put (r : Request)
  | fwdReply (newState : AgentState)
  deriving DecidableEq, Repr

/-- Transient states of a line at its home (R371, R372). -/
inductive Transient where
  | stable
  /-- a forward of a GetS is outstanding for req -/
  | bS (req : AgentId)
  /-- a forward of a GetM is outstanding for req; acks awaited -/
  | bM (req : AgentId) (acks : BitVec 10) (data : Bool)
  /-- Inv sent from state S or O; acks awaited; whether the answer is UpgAck -/
  | acks (req : AgentId) (acks : BitVec 10) (upg : Bool)
  /-- the entry is being read from the home's metadata (R362) -/
  | fill
  deriving DecidableEq, Repr

/-- A line's directory entry, its transaction and its queue (R370, R371). -/
structure DirLine where
  line  : Nat
  /-- 0 I, 1 S, 2 EM, 3 O -/
  st    : BitVec 2
  own   : AgentId
  shr   : BitVec 10
  trans : Transient
  queue : List (Request × AgentId)
  /-- whether the hub's directory cache holds the entry -/
  cached : Bool
  deriving DecidableEq, Repr

/-- A line that an access of a die's cores needs and its agent does not hold so (R372): for a write or a read, and the link count
at which its request reaches the hub. -/
structure LineAsk where
  line  : Nat
  agent : AgentId
  write : Bool
  at_   : Nat
  /-- threads whose writes need it (R371) -/
  who   : List Handle := []
  deriving DecidableEq, Repr

/-- An access to a cached or stream line that a step has made (R369): its agent, the line, whether it writes, and for which thread. -/
structure Touch where
  agent : AgentId
  line  : Nat
  write : Bool
  who   : Option Handle
  deriving DecidableEq, Repr

/-- A store of the host that waits for its line (R369, R373, R416). -/
structure HostStore where
  key   : Nat
  bytes : List (BitVec 8)
  deriving DecidableEq, Repr

/-- Directory, agents, the messages in flight between dies, in order of sending per direction (R363), and requests on their way. -/
structure Fabric where
  dir    : List DirLine
  agents : List AgentLine
  toDie  : List (AgentId × Nat × HomeMsg)
  toHub  : List (AgentId × Nat × AgentMsg)
  asks   : List LineAsk := []
  hostStores : List HostStore := []
  deriving DecidableEq, Repr

/-! ### Turns and postings -/

/-- Whose turn is next. -/
inductive Turn where
  /-- the thread with the handle becomes the current thread -/
  | thread (h : Handle)
  /-- an event row strikes what its operands name -/
  | event (i : Instr) (ops : Operands)
  /-- a translation structure takes the tables' present answer for a page (R306) -/
  | fill (dc : DctxId) (va : BitVec 64)
  deriving DecidableEq, Repr

/-- A posting of the device that has been decided and not yet made. -/
inductive Posting where
  /-- a trace or sample record of a thread's ring (R402): device context, descriptor, 32 or 64 bytes -/
  | trace (dc : DctxId) (desc : BitVec 56) (bytes : List (BitVec 8))
  /-- a slice watchpoint record (R407), and when it was made -/
  | watch (dc : DctxId) (bytes : List (BitVec 8)) (time : Nat)
  /-- an armed action that has been crossed (R110): the action, the counter's new value, the order number of the increment -/
  | fire (dc : DctxId) (a : Action) (value : BitVec 64) (order : Option (BitVec 32))
  deriving DecidableEq, Repr

/-- What a turn of the module may do. -/
inductive Candidate where
  /-- a thread acts -/
  | thread (h : Handle)
  /-- a row acts on a thread -/
  | row (h : Handle) (i : Instr)
  /-- an event row acts on what its operands name -/
  | event (i : Instr) (ops : Operands)
  /-- time passes -/
  | time
  deriving DecidableEq, Repr

/-- A byte as it stood before a write that some reader may not have seen yet (R92, R98, R101, R102, R118). -/
structure OldByte where
  key : Nat
  old : BitVec 8
  /-- path of the write: 0 C, 1 B, 2 R, 3 X (R100), and the thread that it is made for -/
  path : Nat
  writer : Option Handle
  /-- step of the write, and of the issue of its instruction -/
  made : Nat
  issued : Nat
  /-- whether a store went through a leaf of the stream type (R98), and a FENCE.sl of its thread has followed it (R98, R118) -/
  stream : Bool
  fenced : Bool
  /-- number of the block-transfer request that wrote it -/
  request : Nat
  /-- whether an XRECV has received it (R101) -/
  received : Bool
  /-- threads whose path-C accesses see the write, and threads whose requests see it; or all of them -/
  seenC : List Handle
  seenB : List Handle
  allC : Bool
  allB : Bool
  deriving DecidableEq, Repr

/-- The cells of a completion report of a block-transfer request: its record, or its counter (R100, R101). -/
structure Report where
  request : Nat
  key : Nat
  len : Nat
  deriving DecidableEq, Repr

/-- The state of the module. -/
structure State where
  /-- the current thread: the one whose instructions a step executes -/
  th : Thread
  /-- every other thread of every launch that has not been completed -/
  others : List Thread
  /-- device contexts, ascending [01_work_tree R10; reset none] -/
  dctxs : List Dctx
  /-- launches that are not done [01_work_tree R11; reset none] -/
  launches : List Launch
  /-- memory: device physical, host physical, and névé windows, in one key space [04_memory R87; reset nothing listed] -/
  mem : List Host.Cell
  /-- by frame of device memory: bit v for each byte value v but 0 that it has held since it was scrubbed [15_translation R302; reset none] -/
  frames : List (Nat × BitVec 256)
  /-- writes that some reader may not have seen, oldest first [04_memory R92, R102; reset none] -/
  hist : List OldByte
  /-- completion reports of requests whose writes some reader may not have seen [04_memory R101; reset none] -/
  reports : List Report
  /-- poisoned 48-byte sectors, key ÷ 48, ascending [17_faults R344; reset none] -/
  poison : List Nat
  /-- translations still held [15_translation R306; reset none] -/
  tlb : List TlbEntry
  /-- the host's translations that the module holds [15_translation R303; reset none] -/
  host : List HostPage
  /-- remote elements under way, in the order in which they left [08_vector_ext R225; reset none] -/
  remote : List RemoteElem
  /-- deliveries from other packages that wait for a page of the host, oldest first, and the answers that this package has sent to
deliveries [22_host R423; reset none] -/
  arriving : List RemoteDelivery
  replies : List RemoteReply
  /-- accesses to cached and stream lines that the present step has made [18_package R369; reset none] -/
  touched : List Touch
  /-- VRDST tag states [08_vector_ext R227; reset none] -/
  tags : List TagState
  /-- order counters of objects that recording launches accessed [19_moraine R378; reset none] -/
  order : List OrderCounter
  mod : Module
  fab : Fabric
  /-- global link count; `cyc` is half of it [18_package R360; reset 0] -/
  lcc : Nat
  /-- turns to come, first first (the model's own field; reset empty, DESIGN CHOICE log 7) -/
  agenda : List Turn
  /-- postings to come, first first (the model's own field; reset empty, DESIGN CHOICE log 7) -/
  outbox : List Posting
  /-- cores whose issue is taken, each until the link count given [16_launch R333; reset none] -/
  issued : List (BitVec 13 × Nat)
  /-- threads whose last instruction still keeps them from issuing, each until the link count given [16_launch R333; reset none] -/
  pace : List (Handle × Nat)
  /-- what could act and has not yet, each with the step and the link count since which it could (the model's own field; reset empty, DESIGN CHOICE log 12) -/
  pending : List (Candidate × Nat × Nat)
  /-- operands of the event that strikes (the model's own field; reset none, DESIGN CHOICE log 7) -/
  ev : Operands
  /-- steps taken: the argument of free values (the model's own field; reset 0, DESIGN CHOICE log 8) -/
  tick : Nat
  deriving DecidableEq, Repr

/-! ### Stops -/

/-- Why a step can stop the machine. -/
inductive Fault where
  /-- An access is made for a thread whose device context is not there, a state that no run reaches and of which the spec says nothing;
  raised through Trouble.noContext by whatever accesses memory (log 108). Safe. -/
  | noContext
  deriving DecidableEq, Repr

/-- Why an instruction has no meaning. -/
inductive Refusal where
  /-- raised by an arm of Dispatch only: the row has no meaning yet. Safe. -/
  | notModelled (mnemonic : String)
  deriving DecidableEq, Repr

/-! ### Reset -/

/-- The user state of a thread at its start (R52, R61), but for what its launch gives it. -/
def Arch.start : Arch :=
  { pc := 0, g := Vector.replicate 32 0, v := Vector.replicate 64 0
    p := Vector.replicate 8 0, acc := Vector.replicate 8 0, deep := Vector.replicate 192 0
    loops := [], vcount := 0, vform := 0x2, vrot := 0, vslip := 4, vdeep := 0, vresume := 0, vsnow := 0
    vcgroup := 0, vcop := 0x20, vcstride := 0, fround := 0, fstat := 0, tfa := 0, tfb := 0, tsa := 0, tsb := 0
    tma := 0, tstr := 256, tresume := 0, tchk := 1, xframe := 0, xbase := 0, slv := 0
    snowb := Vector.replicate 8 0, rngkey := 0, mevents := 0, migctl := 0, anchor := .none, mighold := 4096
    retired := 0 }

/-- Supervisor registers at thread start (R284). -/
def Sup.start : Sup :=
  { level := false, sstat := 0, tvec := 0, tpc := 0, tcause := 0, tdetail := 0, taddr := 0, tinfo := 0
    sscr := Vector.replicate 4 0, ipend := 0, imask := 0, tcmp := BitVec.allOnes 64 }

/-- Debug registers at thread start (R396, R397). -/
def Dbg.start : Dbg :=
  { dctl := 0, dbp := Vector.replicate 4 0, dwa := Vector.replicate 2 0, dwc := Vector.replicate 2 0, dtdesc := 0
    period := 0, cnt := 0, dmigt := 0, dmigs := 0, dtrip := 0, dprox := 0, dmstall := 0 }

/-- No register is poisoned. -/
def RegPoison.clear : RegPoison :=
  { g := 0, v := Vector.replicate 64 0, p := 0, acc := Vector.replicate 8 0, deep := Vector.replicate 192 0 }

/-- A thread at its start; `absent` until a launch dispatches it. -/
def Thread.start : Thread :=
  { handle := 0, wid := 0, place := .absent, barHalf := [], arrivals := [], core := 0, slot := 0, lanes := 0, bound := 0, neveDie := none, lastClass := .none, lgG0 := 0, lgG := 0
    deepHeld := false, arch := Arch.start, sup := Sup.start, dbg := Dbg.start, poison := RegPoison.clear
    mix := Vector.replicate 8 0, tripHome := .none, trip := none, lastTrip := none, calm := 0, away := false, migh := .none, migrTo := none
    afterTret := false, trapCore := 0, position := 0, lastEvent := 0, wait := none, refused := none, parked := none, held := false
    placeOn := .none, since := 0, arrived := none, readyAt := none, spent := 0, ahead := false, yielded := false, convoy := none, reruns := [], grant := false, stalledAt := none, faulted := none, ordering := false, snowBase := 0, sliceStop := none, runs := [], halted := none, stopAsked := none, due := none
    lastTX := none, tileSectors := 0, stepDue := false, promises := [], bxq := [], slots := Vector.replicate 256 0, fresh := 0, departures := []
    neveDirty := [], areaHead := [], areaFifo := 0, neveBack := false, told := [], remoteOut := 0, replayAt := 0, mismatch := none, segmentsDone := 0
    moraineDebt := [] }

/-- A partition to which nothing is assigned. -/
def Partition.empty : Partition :=
  { spokes := 0, windows := 0, ports := 0, channels := 0, budget := 0, metered := 0, cap := 16, abortRing := none
    node := [], rack := [], images := [], resetting := none, resetAsked := none, assign := none, served := 0 }

/-- The module after bring-up (R432), with every die of R358 present and enabled, before the host driver attaches. -/
def Module.start : Module :=
  { fuses := 0x3FF, enabled := 0x3FF, present := 0x3FF
    pods := #v[0xF_FFFF_FFFF, 0xF_FFFF_FFFF, 0xF_FFFF_FFFF, 0xF_FFFF_FFFF, 0xFFFF_FFFF_FFFF, 0xFFFF_FFFF_FFFF,
      0xFFFF_FFFF_FFFF, 0xF, 0]
    carve := Vector.replicate 10 2, carveNext := 2, cxlPort := Vector.replicate 4 0
    ttrTime := 0, ttrValid := false, mbOp := 0, mbLen := 0, mbGo := false, mbRc := 0, mbOlen := 0, mbData := [], mbOut := .none, mbWait := none, mbRun := none, mbHeld := none, mbQueue := [], mbI3c := none
    parts := Vector.replicate 4 Partition.empty, windows := Vector.replicate 16 none, cxlUp := 0xF, ueUp := 0xFF
    sensors := Vector.replicate 39 (0, 0), heat := Vector.replicate 10 none, logSeq := 0, boot := 0, logFatal := []
    logGeneral := [], fw := #v[{ image := some { bytes := [], version := 0, signature := [] }, verified := true }, { image := none, verified := false }], fwActive := 0, fwNext := 0
    fwFloor := 0, supFloor := 0, owner := none, keyings := Vector.replicate 10 1, keyedAt := Vector.replicate 10 0, watchTime := 0
    counters := [], linksDown := 0, pri := true, ready := true, resetDue := false, began := 0 }

/-- The machine right after reset: bring-up has ended (R432), no device context exists and no thread runs. -/
def State.reset : State :=
  { th := Thread.start, others := [], dctxs := [], launches := [], mem := [], frames := [], hist := [], reports := [], poison := [], tlb := [], host := []
    remote := [], arriving := [], replies := [], touched := [], tags := [], order := [], mod := Module.start, fab := { dir := [], agents := [], toDie := [], toHub := [] }
    lcc := 0, agenda := [], outbox := [], issued := [], pace := [], pending := [], ev := .none, tick := 0 }

end Sys2Proof.Machine
end

