-- ==== Sys2Proof/Machine/Ops.lean ====
section
/-! DEFINITION. The named operations over memory, threads and the module that every meaning uses: bytes and cells,
poison, lookup and replacement, dies and cores, address translation, and taking and leaving an exception. -/

namespace Sys2Proof.Machine

/-! ### Bytes (R1) -/

/-- The n low bytes of a number, little-endian. -/
def leBytes : Nat → Nat → List (BitVec 8)
  | 0, _ => []
  | n + 1, x => BitVec.ofNat 8 x :: leBytes n (x / 256)

/-- The number that bytes spell, little-endian. -/
def leNat : List (BitVec 8) → Nat
  | [] => 0
  | b :: t => b.toNat + 256 * leNat t

/-- Bits [lo + w − 1 : lo] of a number. -/
def bitsOf (x lo w : Nat) : Nat := (x >>> lo) % 2 ^ w

/-- A number with bits [lo + w − 1 : lo] replaced by the low w bits of v. -/
def setBits (x lo w v : Nat) : Nat := x - (bitsOf x lo w <<< lo) + ((v % 2 ^ w) <<< lo)

/-- A w-bit pattern read as two's complement. -/
def signed (w x : Nat) : Int :=
  if x % 2 ^ w < 2 ^ (w - 1) then ((x % 2 ^ w : Nat) : Int) else ((x % 2 ^ w : Nat) : Int) - ((2 ^ w : Nat) : Int)

/-- An integer modulo 2^w. -/
def wrapInt (w : Nat) (i : Int) : Nat := (i % ((2 ^ w : Nat) : Int)).toNat

/-! ### Memory cells (log 2: an unlisted cell reads 0, as the scrub of R432 step 4 leaves it) -/

/-- Key of host physical address 0 (log 3). -/
def hostBase : Nat := 48 * 2 ^ 52
/-- Key of byte 0 of the névé window of handle 0 (log 3). -/
def windowBase : Nat := 48 * 2 ^ 53
/-- Distance of two threads' windows in the key space: above the 261,888 bytes of R232, and a multiple of 48. -/
def windowStep : Nat := 786432

/-- The byte of a cell. -/
def readCell : List Host.Cell → Nat → BitVec 8
  | [], _ => 0
  | (a, b) :: t, k => if a = k then b else readCell t k

/-- n bytes from a key upward, one cell after another. -/
def readEach (m : List Host.Cell) : Nat → Nat → List (BitVec 8)
  | _, 0 => []
  | k, n + 1 => readCell m k :: readEach m (k + 1) n

/-- n bytes from a key upward, looked for among the listed cells of the range alone. -/
def readCells (m : List Host.Cell) (k n : Nat) : List (BitVec 8) :=
  readEach (m.filter fun c => decide (k ≤ c.1) && decide (c.1 < k + n)) k n

/-- The listed cells that a byte string at k needs: its non-zero bytes. -/
def cellsOf : Nat → List (BitVec 8) → List Host.Cell
  | _, [] => []
  | k, b :: t => if b = 0 then cellsOf (k + 1) t else (k, b) :: cellsOf (k + 1) t

/-- Memory with the bytes bs stored from key k upward. -/
def writeCells (m : List Host.Cell) (k : Nat) (bs : List (BitVec 8)) : List Host.Cell :=
  m.filter (fun c => decide (c.1 < k)) ++ cellsOf k bs ++ m.filter (fun c => decide (k + bs.length ≤ c.1))

/-- The set of byte values that a byte string holds: bit v for value v. -/
def valueSet (bs : List (BitVec 8)) : BitVec 256 := bs.foldl (fun m b => m ||| (1#256 <<< b.toNat)) 0

/-- The byte values that frames have held, once bytes have been written at a key of device memory (R302). Every frame has held 0. -/
def noteValues (l : List (Nat × BitVec 256)) (k : Nat) (bs : List (BitVec 8)) : List (Nat × BitVec 256) :=
  let m := valueSet bs &&& ~~~1#256
  if m = 0 ∨ hostBase ≤ k then l
  else if l.any fun x => decide (x.1 = k / 196608) then l.map fun x => if x.1 = k / 196608 then (x.1, x.2 ||| m) else x
  else l ++ [(k / 196608, m)]

/-- The byte values that a frame has held, ascending. -/
def heldValues (l : List (Nat × BitVec 256)) (f : Nat) : List (BitVec 8) :=
  let m := ((l.find? fun x => decide (x.1 = f)).map (·.2)).getD 0
  ((List.range 256).filter fun v => decide (v = 0) || m.getLsbD v).map (BitVec.ofNat 8)

/-- Keys rise strictly and no byte is zero: the canonical form of memory. -/
def Memory.wf (m : List Host.Cell) : Bool :=
  m.all (fun c => decide (c.2 ≠ 0)) && decide (m.Pairwise (fun a b => a.1 < b.1))

/-! ### Poison of memory (R344) -/

/-- Sectors that [k, k + n) touches. -/
def sectorsOf (k n : Nat) : List Nat :=
  if n = 0 then [] else (List.range ((k + n - 1) / 48 - k / 48 + 1)).map (· + k / 48)

/-- Sectors that [k, k + n) covers whole. -/
def sectorsWithin (k n : Nat) : List Nat :=
  (sectorsOf k n).filter fun q => decide (k ≤ q * 48) && decide (q * 48 + 48 ≤ k + n)

/-- Adds a sector to an ascending list without repeats. -/
def insertNat (q : Nat) : List Nat → List Nat
  | [] => [q]
  | x :: t => if q < x then q :: x :: t else if q = x then x :: t else x :: insertNat q t

/-- The lowest poisoned sector that [k, k + n) touches. -/
def poisonedSector (p : List Nat) (k n : Nat) : Option Nat :=
  if p.isEmpty then none else (sectorsOf k n).find? fun q => p.contains q

/-- The address that a register of 56 address bits holds (R86). -/
def va56 (a : BitVec 56) : BitVec 64 := a.signExtend 64

/-! ### Lookup and replacement -/

/-- Device context, launch slot and dense number of a handle (R323). -/
def handleDctx (h : Handle) : DctxId := h.extractLsb' 27 5
def handleSlot (h : Handle) : LaunchSlot := h.extractLsb' 22 5
def handleDense (h : Handle) : Nat := (h.extractLsb' 0 22).toNat

/-- The handle of thread n of a launch. -/
def handleOf (dc : DctxId) (slot : LaunchSlot) (n : Nat) : Handle := dc ++ slot ++ BitVec.ofNat 22 n

/-- Handle bits [31:22]: the launch that a handle names. -/
def handleLaunch (h : Handle) : BitVec 10 := h.extractLsb' 22 10

def State.dctx? (s : State) (dc : DctxId) : Option Dctx := s.dctxs.find? fun d => decide (d.id = dc)

/-- Replaces the device context of the same number. -/
def State.putDctx (s : State) (d : Dctx) : State :=
  { s with dctxs := s.dctxs.map fun x => if x.id = d.id then d else x }

/-- Changes a device context, if it exists. -/
def State.modDctx (s : State) (dc : DctxId) (f : Dctx → Dctx) : State :=
  { s with dctxs := s.dctxs.map fun x => if x.id = dc then f x else x }

def State.launch? (s : State) (dc : DctxId) (slot : LaunchSlot) : Option Launch :=
  s.launches.find? fun l => decide (l.dc = dc) && decide (l.slot = slot)

/-- The launch of a handle. -/
def State.launchOf? (s : State) (h : Handle) : Option Launch := s.launch? (handleDctx h) (handleSlot h)

def State.modLaunch (s : State) (dc : DctxId) (slot : LaunchSlot) (f : Launch → Launch) : State :=
  { s with launches := s.launches.map fun l => if l.dc = dc ∧ l.slot = slot then f l else l }

/-- Every thread of the module, the current one first. -/
def State.threads (s : State) : List Thread := s.th :: s.others

def Thread.exists (t : Thread) : Bool := decide (t.place ≠ .absent)

def State.thread? (s : State) (h : Handle) : Option Thread :=
  s.threads.find? fun t => t.exists && decide (t.handle = h)

/-- Changes the thread with a handle. -/
def State.modThread (s : State) (h : Handle) (f : Thread → Thread) : State :=
  { s with
    th := if s.th.exists && decide (s.th.handle = h) then f s.th else s.th
    others := s.others.map fun t => if t.exists && decide (t.handle = h) then f t else t }

/-- Changes every thread. -/
def State.mapThreads (s : State) (f : Thread → Thread) : State :=
  { s with th := f s.th, others := s.others.map f }

/-- Makes the thread with a handle the current one. -/
def State.switchTo (s : State) (h : Handle) : State :=
  if s.th.exists && decide (s.th.handle = h) then s
  else
    match s.others.find? fun t => decide (t.handle = h) with
    | some t => { s with th := t, others := (if s.th.exists then [s.th] else []) ++ s.others.filter fun x => decide (x.handle ≠ h) }
    | none => s

def State.part (s : State) (p : PartId) : Partition := s.mod.parts[p.toNat]
def State.modPart (s : State) (p : PartId) (f : Partition → Partition) : State :=
  { s with mod := { s.mod with parts := s.mod.parts.set p.toNat (f s.mod.parts[p.toNat]) } }

/-- The device context and launch of the current thread. -/
def State.myDctx (s : State) : Option Dctx := s.dctx? (handleDctx s.th.handle)
def State.myLaunch (s : State) : Option Launch := s.launchOf? s.th.handle

/-! ### Time (R256, R360) -/

/-- Hub cycles since module reset. -/
def State.cyc (s : State) : Nat := s.lcc / 2

/-! ### Dies, pods and cores (R12, R358, R359) -/

/-- Die of a core. -/
def coreDie (c : Nat) : Nat := if c < 2304 then c / 576 else if c < 4608 then 4 + (c - 2304) / 768 else 7
/-- First core of a die with cores. -/
def dieFirstCore (d : Nat) : Nat := if d < 4 then 576 * d else if d < 7 then 2304 + 768 * (d - 4) else 4608
def dieCores (d : Nat) : Nat := if d < 4 then 576 else if d < 7 then 768 else if d = 7 then 64 else 0
def coreClass (c : Nat) : CoreClass :=
  if c < 2304 then .vector else if c < 4608 then .tensor else if c < 4672 then .control else .none
/-- Global pod of a core, and its pod within its die. -/
def corePod (c : Nat) : Nat := c / 16
def diePod (c : Nat) : Nat := (c - dieFirstCore (coreDie c)) / 16
/-- Columns of a die's pod grid. -/
def dieColumns (d : Nat) : Nat := if d < 4 then 6 else if d < 7 then 8 else 2
/-- Mesh steps between two pods of one die. -/
def hops (d p q : Nat) : Nat :=
  let c := dieColumns d
  let gap (x y : Nat) : Nat := (x - y) + (y - x)
  gap (p / c) (q / c) + gap (p % c) (q % c)

/-- Travel time between two cores in link cycles (R260, R362). -/
def travelTime (a b : Nat) : Nat :=
  if a = b then 4
  else if corePod a = corePod b then 8
  else if coreDie a = coreDie b then 12 + 2 * hops (coreDie a) (diePod a) (diePod b)
  else 72 + 2 * (hops (coreDie a) (diePod a) 0 + hops (coreDie b) (diePod b) 0)

/-- Link cycles in a cycle of a core (R360). -/
def coreRatio (c : Nat) : Nat := if c < 4608 then 4 else 2

/-- The class of a code of the save-area header (R339). -/
def CoreClass.code : CoreClass → Nat
  | .none => 0 | .control => 1 | .vector => 2 | .tensor => 3
def CoreClass.ofCode (n : Nat) : CoreClass :=
  match n with
  | 1 => .control | 2 => .vector | 3 => .tensor | _ => .none

/-- Groups that a class implements (R12). -/
def CoreClass.implements : CoreClass → Group → Bool
  | .control, .b | .control, .s | .control, .f | .control, .p => true
  | .vector, .b | .vector, .s | .vector, .f | .vector, .va | .vector, .vx => true
  | .tensor, .b | .tensor, .s | .tensor, .va | .tensor, .t | .tensor, .x => true
  | _, _ => false

/-- Bit of a group in the floe groups byte, and its place in the mix counters (R135, R339). -/
def Group.bit : Group → Nat
  | .b => 0 | .s => 1 | .f => 2 | .va => 3 | .vx => 4 | .t => 5 | .x => 6 | .p => 7

/-- Mix weights (R21). -/
def Group.weight : Group → Nat
  | .b | .s => 0 | .f | .va => 1 | .vx => 2 | .t | .x | .p => 4

/-- The class of the core that the current thread occupies. -/
def Thread.cls (t : Thread) : CoreClass := coreClass t.core.toNat

/-- Whether a die is enabled: present, not harvested away, and powered by a partition (R348, R367). -/
def State.dieOn (s : State) (p : PartId) (d : Nat) : Bool :=
  s.mod.enabled.getLsbD d && s.mod.present.getLsbD d && (s.part p).spokes.getLsbD d

/-- Whether a core is enabled in a partition. -/
def State.coreOn (s : State) (p : PartId) (c : Nat) : Bool :=
  decide (c < 4672) && s.dieOn p (coreDie c) &&
    (if h : coreDie c < 9 then (s.mod.pods[coreDie c]).getLsbD (diePod c) else false)

/-! ### Physical memory (R88, R368, R374, R419; log 3: die d's HBM begins at d · 96 GiB) -/

/-- Bytes of one stack, and the carved-out bytes of a code. -/
def stackBytes : Nat := 48 * 2 ^ 30
def carveBytes (code : BitVec 2) : Nat :=
  match code.toNat with
  | 0 => 0 | 1 => stackBytes / 32 | 2 => stackBytes / 16 | _ => stackBytes / 8
/-- Where CXL windows begin. -/
def cxlBase : Nat := 0x6_0000_0000_0000

/-- The window that holds a physical address. -/
def State.windowAt (s : State) (a : Nat) : Option (Nat × CxlWindow) :=
  ((List.range 16).filterMap fun i => if h : i < 16 then (s.mod.windows[i]).map fun w => (i, w) else none).find?
    fun (_, w) => decide (w.base ≤ a) && decide (a < w.base + w.size)

/-- Usable bytes of a second-tier port: its capacity but for the top 1/96, where the directory entries lie (R418). -/
def State.portUsable (s : State) (q : Nat) : Nat := (s.mod.cxlPort[q]?.getD 0) * 95 / 96

/-- The most second-tier memory that is mapped (R418). -/
def cxlMost : Nat := 12288 * 2 ^ 30

/-- The usable bytes of the ports in all. -/
def State.cxlUsable (s : State) : Nat := min cxlMost (s.portUsable 1 + s.portUsable 2 + s.portUsable 3)

/-- Port and device address of a physical address of a window: line l lies on port l mod w of its list (R419). -/
def CxlWindow.device (w : CxlWindow) (a : Nat) : Nat × Nat :=
  let l := (a - w.base) / 192
  let n := max 1 w.ports.length
  let (q, b) := (w.ports[l % n]?).getD (0, 0)
  (q.toNat, b + 192 * (l / n) + (a - w.base) % 192)

/-- The physical address at which a window shows an address of a port's device. -/
def CxlWindow.shows (w : CxlWindow) (q a : Nat) : Option Nat :=
  w.ports.zipIdx.findSome? fun ((r, b), j) =>
    if r.toNat = q ∧ b ≤ a then
      let k := w.base + 192 * ((a - b) / 192 * max 1 w.ports.length + j) + (a - b) % 192
      if k < w.base + w.size then some k else none
    else none

/-- The cells of device memory that no window shows, by port and device address. -/
def parkBase : Nat := 2 ^ 60

/-- The die that homes a physical address, if memory is installed there at all (R88). -/
def State.homeDie (s : State) (a : Nat) : Option Nat :=
  if a / (2 * stackBytes) < 8 then
    let d := a / (2 * stackBytes)
    if h : d < 10 then
      if s.mod.enabled.getLsbD d && s.mod.present.getLsbD d && decide (a % stackBytes < stackBytes - carveBytes s.mod.carve[d]) then some d else none
    else none
  else if (s.windowAt a).isSome then some 8
  else none

/-- Whether a physical address lies in a partition's installed memory (R298, R348). -/
def State.installed (s : State) (p : PartId) (a : Nat) : Bool :=
  match s.homeDie a with
  | some 8 => match s.windowAt a with
    | some (i, w) => decide (w.part = p) && (s.part p).windows.getLsbD i
    | none => false
  | some d => (s.part p).spokes.getLsbD d
  | none => false

/-- The tensor die whose HBM holds a thread's névé window: the one of its core, the one that it stood on last, or before
the first the lowest powered one of its partition (R90, R227; that last case is a DESIGN CHOICE, log 144). -/
def State.windowDie (s : State) (t : Thread) : Nat :=
  if t.cls = .tensor then coreDie t.core.toNat
  else
    match t.neveDie, (s.dctx? (handleDctx t.handle)).map (·.part) with
    | some d, _ => d.toNat
    | none, some p => ((List.range 8).find? fun d => (s.part p).spokes.getLsbD d && decide (coreClass (dieFirstCore d) = CoreClass.tensor)).getD 4
    | none, none => 4

/-- The die that homes a cell: the M-die for host memory, the thread's tensor die for a window (R90, R227). -/
def State.cellHome (s : State) (k : Nat) : Nat :=
  if k < hostBase then (s.homeDie k).getD 8
  else if k < windowBase then 8
  else
    match s.thread? (BitVec.ofNat 32 ((k - windowBase) / windowStep)) with
    | some t => s.windowDie t
    | none => 8

/-! ### Address translation (R86, R90, R296 to R309) -/

/-- What an access asks for. -/
structure Access where
  read  : Bool
  write : Bool
  fetch : Bool
  /-- supervisor level: u is ignored (R299) -/
  sup   : Bool
  /-- the accessing thread's névé window, when its range is served by the window (R90): base, bytes, first key -/
  window : Option (Nat × Nat × Nat)
  /-- the host page that the host has refused to this access, for it to fail (R304) -/
  refused : Option Nat := none
  /-- whether a unit of the device makes it, other than a thread's core or engine -/
  device : Bool := true
  /-- number of the element, segment or row of its instruction that makes it (R307) -/
  nth : Nat := 0
  deriving DecidableEq, Repr

/-- Why an instruction or a device access cannot go on. -/
inductive Trouble where
  /-- a trap, with tdetail and taddr (R285) -/
  | trap (cause : BitVec 8) (detail addr : BitVec 64)
  /-- a translation or permission failure (R308): reason, address, flags write, fetch, ats -/
  | fail (reason : BitVec 8) (addr : BitVec 64) (write fetch ats : Bool)
  /-- the host is asked for the page (R304) -/
  | page (addr : BitVec 64) (write fetch : Bool)
  /-- the instruction waits -/
  | wait (k : WaitKind)
  /-- the access is made for a device context that is not there: no run comes to this -/
  | noContext
  deriving DecidableEq, Repr

/-- Cause of a reason code (R308). -/
def reasonCause (reason : BitVec 8) : BitVec 8 :=
  if reason.toNat / 16 = 1 then 0x06 else if reason.toNat / 16 = 3 then 0x0A else 0x05

/-- A run of bytes of one access that lies in one page: cells from `key`, through the leaf word. -/
structure Span where
  key  : Nat
  len  : Nat
  leaf : BitVec 64
  deriving DecidableEq, Repr

/-- Memory type, log-all bit and ats bit of a leaf (R298). -/
def leafMt (l : BitVec 64) : Nat := (l.extractLsb' 6 2).toNat
def leafLg (l : BitVec 64) : Bool := l.getLsbD 8
def leafAts (l : BitVec 64) : Bool := l.getLsbD 9
def leafFrame (l : BitVec 64) : Nat := (l.extractLsb' 18 35).toNat
def leafSkew (l : BitVec 64) : Nat := (l.extractLsb' 10 3).toNat

/-- Page number of an address (R296). -/
def pageNumber (a : BitVec 64) : Nat := (a.extractLsb' 0 56).toNat / 196608
def pageOffset (a : BitVec 64) : Nat := (a.extractLsb' 0 56).toNat % 196608

/-- Whether bits [63:56] are copies of bit 55 (R86). -/
def canonical (a : BitVec 64) : Bool := decide ((a.extractLsb' 0 56).signExtend 64 = a)

/-- Whether a leaf entry at a level is refused (R298), but for the place of its frame. -/
def leafRefused (l : BitVec 64) (level : Nat) : Bool :=
  decide (l.extractLsb' 53 11 ≠ 0) || l.getLsbD 17 || decide (leafMt l = 3) || decide (3 ≤ leafSkew l) ||
  (decide (10 ≤ (l.extractLsb' 13 4).toNat) && decide ((l.extractLsb' 13 4).toNat ≠ 15)) ||
  decide (leafFrame l % 8192 ^ level ≠ 0) ||
  (leafAts l && (decide (leafFrame l ≠ 0) || decide (leafSkew l ≠ 0) || decide ((l.extractLsb' 13 4).toNat ≠ 15)))

/-- The 8-byte entry at index i of the table at a physical address, or the reason why it cannot be read. A table that lies outside the
device memory of its partition is refused as a frame there is (R298, R348; DESIGN CHOICE, log 108). -/
def State.tableEntry (s : State) (p : PartId) (table i : Nat) : Except (BitVec 8) (BitVec 64) :=
  let k := table + 8 * i
  if !s.installed p k then .error 0x02
  else if (poisonedSector s.poison k 8).isSome then .error 0x05
  else .ok (BitVec.ofNat 64 (leNat (readCells s.mem k 8)))

/-- A walk from a table of a level (R297, R298): the leaf word and the level at which it stands; levels above 2 never
occur. -/
def State.walk (s : State) (p : PartId) (pn : Nat) : Nat → Nat → Except (BitVec 8) (BitVec 64 × Nat)
  | 0, table =>
    match s.tableEntry p table (pn % 8192) with
    | .error e => .error e
    | .ok w =>
      if !w.getLsbD 0 then .error 0x01
      else if !w.getLsbD 1 || leafRefused w 0 then .error 0x02
      else .ok (w, 0)
  | level + 1, table =>
    match s.tableEntry p table (pn / 8192 ^ (level + 1) % 8192) with
    | .error e => .error e
    | .ok w =>
      if !w.getLsbD 0 then .error 0x01
      else if w.getLsbD 1 then
        if leafRefused w (level + 1) then .error 0x02 else .ok (w, level + 1)
      else if w.extractLsb' 2 14 ≠ 0 ∨ w.extractLsb' 52 12 ≠ 0 then .error 0x02
      else s.walk p pn level ((w.extractLsb' 16 36).toNat * 65536)

/-- The leaf that maps a page now, as a leaf word whose frame is that of the page itself: the walk, then the checks of
the frame's place (R298; log 30: the frame checked is the one the access reaches). -/
def State.leafOf (s : State) (d : Dctx) (a : BitVec 64) : Except (BitVec 8) (BitVec 64) :=
  if !canonical a then .error 0x03
  else
    match s.walk d.part (pageNumber a) 2 d.ptroot.toNat with
    | .error e => .error e
    | .ok (w, level) =>
      if leafAts w then .ok w
      else
        let f := leafFrame w + pageNumber a % 8192 ^ level
        let home := (w.extractLsb' 13 4).toNat
        if !s.installed d.part (f * 196608) then .error 0x02
        else if home ≠ 15 ∧ s.homeDie (f * 196608) ≠ some home then .error 0x04
        else .ok (BitVec.ofNat 64 (setBits w.toNat 18 35 f))

/-- The translations of an address's page that are still held for a device context. -/
def State.heldLeaves (s : State) (d : Dctx) (a : BitVec 64) : List TlbEntry :=
  s.tlb.filter fun e => decide (e.part = d.part) && decide (e.dc = d.id) && decide (e.page.toNat = pageNumber a)

/-- The leaf an access uses: the tables' own, or any translation of its page that is still held, chosen for each address, and for each
element, segment and row of an instruction, by itself (R306, R307). -/
def State.leafUsed (s : State) (d : Dctx) (a : BitVec 64) (nth : Nat := 0) : Except (BitVec 8) (BitVec 64) :=
  let old := s.heldLeaves d a
  if old.isEmpty || !canonical a then s.leafOf d a
  else
    match old[Config.which s.tick (a.toNat + 2 ^ 64 * nth) % (old.length + 1)]? with
    | some e => .ok e.leaf
    | none => s.leafOf d a

/-- Whether a loaded supervisor image protects a physical address from writes (R428). -/
def State.imageProtects (s : State) (p : PartId) (k : Nat) : Bool :=
  (s.part p).images.any fun i =>
    decide (i.base / 196608 ≤ k / 196608) && decide (k / 196608 ≤ (i.base + (i.bytes - 1)) / 196608)

/-- Whether a byte of [k, k + n) is text of a loaded supervisor image, which only supervisor level executes (R138, R428). -/
def State.supervisorText (s : State) (p : PartId) (k n : Nat) : Bool :=
  (s.part p).images.any fun i => i.texts.any fun (a, m) => decide (k < a + m) && decide (a < k + n)

/-- The reason a leaf withholds an access, if it does (R299; log 31: the permission asked for before u). -/
def leafDenies (l : BitVec 64) (acc : Access) : Option (BitVec 8) :=
  if acc.read && !l.getLsbD 2 then some 0x10
  else if acc.write && !l.getLsbD 3 then some 0x11
  else if acc.fetch && !l.getLsbD 4 then some 0x12
  else if !acc.sup && !l.getLsbD 5 then some 0x13
  else none

/-- The host's translation of a 4 KiB page for a device context, where the module holds one: no translation crosses a partition or
a PASID (R306). -/
def State.hostPage? (s : State) (d : Dctx) (page : Nat) : Option HostPage :=
  s.host.find? fun h => decide (h.part = d.part) && decide (h.pasid = d.pasid) && decide (h.page.toNat = page)

/-- Translation of the first byte of [a, a + n) and the run of bytes it serves (R296 to R305, R90). Only the first byte's address is
checked for copies of bit 55, so a run may go on past 2^55 within its page (R86; DESIGN CHOICE, log 148). -/
def State.translate1 (s : State) (d : Dctx) (acc : Access) (a : BitVec 64) (n : Nat) : Except Trouble Span :=
  let off := match acc.window with
    | some (base, size, _) => if base ≤ a.toNat ∧ a.toNat < base + size then some (a.toNat - base) else none
    | none => none
  match acc.window, off with
  | some (_, size, key), some o =>
    if acc.fetch then .error (.fail 0x12 a false true false)
    else .ok { key := key + o, len := min n (size - o), leaf := 0 }
  | _, _ =>
    let n := match acc.window with
      | some (base, size, _) => if a.toNat < base ∧ 0 < size then min n (base - a.toNat) else n
      | none => n
    match s.leafUsed d a acc.nth with
    | .error r => .error (.fail r a acc.write acc.fetch false)
    | .ok l =>
      match leafDenies l acc with
      | some r => .error (.fail r a acc.write acc.fetch (leafAts l))
      | none =>
        if leafAts l then
          let page := a.toNat / 4096
          let len := min n (4096 - a.toNat % 4096)
          let failed := decide (acc.refused = some page) || (acc.device && d.pages.any fun q => decide (q.page.toNat = page) && q.failed)
          match s.hostPage? d page with
          | none => if failed then .error (.fail 0x06 a acc.write acc.fetch true) else .error (.page a acc.write acc.fetch)
          | some h =>
            if (acc.read && !h.r) || (acc.write && !h.w) || (acc.fetch && !h.x) then
              if failed || !s.mod.pri then .error (.fail 0x14 a acc.write acc.fetch true) else .error (.page a acc.write acc.fetch)
            else .ok { key := hostBase + h.hpa.toNat / 4096 * 4096 + a.toNat % 4096, len := len, leaf := l }
        else
          let k := leafFrame l * 196608 + pageOffset a
          if acc.write && s.imageProtects d.part k then .error (.fail 0x11 a true acc.fetch false)
          -- refused as a leaf without u refuses it (DESIGN CHOICE, log 145)
          else if acc.fetch && !acc.sup && s.supervisorText d.part k n then .error (.fail 0x13 a false true false)
          else .ok { key := k, len := min n (196608 - pageOffset a), leaf := l }

/-- Translation of all of [a, a + n): every page before any byte (R104). -/
def State.translateFuel (s : State) (d : Dctx) (acc : Access) : Nat → BitVec 64 → Nat → Except Trouble (List Span)
  | 0, _, _ => .ok []
  | fuel + 1, a, n =>
    if n = 0 then .ok []
    else
      match s.translate1 d acc a n with
      | .error e => .error e
      | .ok sp =>
        if sp.len = 0 then .ok [] else
        match s.translateFuel d acc fuel (a + BitVec.ofNat 64 sp.len) (n - sp.len) with
        | .error e => .error e
        | .ok t => .ok (sp :: t)

def State.translate (s : State) (d : Dctx) (acc : Access) (a : BitVec 64) (n : Nat) : Except Trouble (List Span) :=
  s.translateFuel d acc (n + 1) a n

/-- The eight-byte words that ascending cells spell, with their places in memory. -/
def entryWords : List Host.Cell → List (Nat × Nat)
  | [] => []
  | (k, b) :: t =>
    let x := b.toNat <<< (8 * (k % 8))
    match entryWords t with
    | (i, w) :: r => if i = k / 8 then (i, w + x) :: r else (k / 8, x) :: (i, w) :: r
    | [] => [(k / 8, x)]

/-- The present entries of a table that lies in a partition's installed memory. -/
def State.tableWords (s : State) (p : PartId) (table : Nat) : List (BitVec 64) :=
  if !s.installed p table then [] else
  ((entryWords (s.mem.filter fun c => decide (table ≤ c.1) && decide (c.1 < table + 65536))).map fun (_, w) => BitVec.ofNat 64 w).filter (·.getLsbD 0)

/-- Every valid leaf under a table of a level, with its level. -/
def State.leavesUnder (s : State) (p : PartId) : Nat → Nat → List (BitVec 64 × Nat)
  | 0, table => (s.tableWords p table).filterMap fun w => if w.getLsbD 1 && !leafRefused w 0 then some (w, 0) else none
  | level + 1, table =>
    (s.tableWords p table).flatMap fun w =>
      if w.getLsbD 1 then (if leafRefused w (level + 1) then [] else [(w, level + 1)])
      else s.leavesUnder p level ((w.extractLsb' 16 36).toNat * 65536)

/-- The skews of the valid leaves of a context's tables that map a frame: one of the partition's own memory (R298, R349). -/
def State.skewsOf (s : State) (d : Dctx) (f : Nat) : List Nat :=
  if !s.installed d.part (f * 196608) then [] else
  ((s.leavesUnder d.part 2 d.ptroot.toNat).filter fun (w, level) =>
    !leafAts w && decide (leafFrame w ≤ f) && decide (f < leafFrame w + 8192 ^ level)).map fun (w, _) => leafSkew w

/-- Whether a frame of a compute die is mapped by valid leaves of different skews (R302). -/
def State.skewClash (s : State) (k : Nat) : Bool :=
  decide (k < hostBase) && decide ((s.homeDie k).getD 8 < 8) &&
    (match s.dctxs.flatMap fun d => s.skewsOf d (k / 196608) with
     | [] => false
     | x :: t => t.any fun y => decide (y ≠ x))

/-- Bytes of a list of spans; of a frame whose leaves differ in skew, any values that it has held (R302, log 19). -/
def State.spanBytes (s : State) (sp : List Span) : List (BitVec 8) :=
  sp.flatMap fun x =>
    if s.skewClash x.key then
      let vs := heldValues s.frames (x.key / 196608)
      (List.range x.len).map fun i => vs[Config.skewed s.tick (x.key + i) % vs.length]?.getD 0
    else readCells s.mem x.key x.len

/-- The bits [lo + 5 : lo], [lo + 11 : lo + 6], … of a line number, folded by exclusive or, n fields in all. -/
def xorFold (line : Nat) : Nat → Nat
  | 0 => 0
  | n + 1 => Nat.xor (bitsOf line (6 * n) 6) (xorFold line n)

/-- The channel group of a die's two stacks that holds a line of a local frame, by its number PL and its leaf's skew (R302): the
skew changes no value. -/
def channelGroup (skew line : Nat) : Nat :=
  match skew with
  | 0 => line % 64
  | 1 => xorFold line 8
  | _ => line % 61

/-- The offset, within an access, of the first byte in a poisoned sector; none when no span is poisoned. -/
def spanPoison (p : List Nat) : List Span → Nat → Option Nat
  | [], _ => none
  | x :: t, o =>
    match poisonedSector p x.key x.len with
    | some q => some (o + (q * 48 - x.key))
    | none => spanPoison p t (o + x.len)

/-- The address of the sector that holds an address (R87). -/
def sectorAddress (a : BitVec 64) : BitVec 64 := a - BitVec.ofNat 64 ((a.extractLsb' 0 56).toNat % 48)

/-! ### The persistent error log (R343, R356) -/

/-- Entries of the fatal region and of the general ring. -/
def fatalRoom : Nat := 16384
def generalRoom : Nat := 1032192
/-- Hub cycles in a second (R360). -/
def hubSecond : Nat := 2200000000

/-- Appends to a ring, overwriting its oldest entry when it is full. -/
def pushRing {α : Type} (room : Nat) (l : List α) (x : α) : List α := if room ≤ l.length then l.drop 1 ++ [x] else l ++ [x]

/-- Logs a detected error: class, die, partition (0xFF shared), row of R342, unit, address and detail; a corrected error
that repeats within a second, of one boot, only counts (R356). -/
def State.logWith (s : State) (cls die part row unit : Nat) (addr detail syndrome : BitVec 64) : State :=
  let m := s.mod
  let again (e : LogEntry) : Bool :=
    decide (cls = 1) && decide (e.cls = 1) && decide (e.die.toNat = die) && decide (e.row.toNat = row) && decide (e.unit.toNat = unit) &&
    decide (e.addr = addr) && decide (e.boot = m.boot) && decide (s.cyc < e.time.toNat + hubSecond)
  if m.logGeneral.any again then
    { s with mod := { m with
        logGeneral := m.logGeneral.map fun e => if again e then { e with count := if e.count = 0xFFFF then e.count else e.count + 1 } else e } }
  else
    let e : LogEntry :=
      { seq := m.logSeq, boot := m.boot, time := BitVec.ofNat 64 s.cyc, cls := BitVec.ofNat 8 cls, die := BitVec.ofNat 8 die
        part := BitVec.ofNat 8 part, row := BitVec.ofNat 8 row, unit := BitVec.ofNat 16 unit, count := 1, addr := addr
        syndrome := syndrome, detail := detail }
    let fatal := cls = 4 ∨ cls = 5
    { s with mod := { m with
        logSeq := m.logSeq + 1
        logFatal := if fatal then pushRing fatalRoom m.logFatal e else m.logFatal
        logGeneral := if fatal then m.logGeneral else pushRing generalRoom m.logGeneral e } }

/-- Logs a detected error of a structure that has an ECC syndrome: it is the device's (log 20). -/
def State.logError (s : State) (cls die part row unit : Nat) (addr detail : BitVec 64) : State :=
  s.logWith cls die part row unit addr detail (Config.openField 6 s.tick 0)

/-- The 64 bytes of a log entry (R356). -/
def LogEntry.bytes (e : LogEntry) : List (BitVec 8) :=
  leBytes 8 e.seq.toNat ++ leBytes 4 e.boot.toNat ++ leBytes 8 e.time.toNat ++ [e.cls, e.die, e.part, e.row] ++ leBytes 2 e.unit.toNat ++
  leBytes 2 e.count.toNat ++ leBytes 8 e.addr.toNat ++ leBytes 8 e.syndrome.toNat ++ leBytes 8 e.detail.toNat ++ List.replicate 12 0

/-- The partition of a device context, 0xFF where there is none, for the log. -/
def State.partCode (s : State) (dc : DctxId) : Nat := ((s.dctx? dc).map fun d => d.part.toNat).getD 0xFF

/-! ### Taking an exception and returning from one (R286, R288, R290) -/

/-- Whether line 8 is pending (R284, R292). -/
def State.timerDue (s : State) : Bool := decide (s.th.sup.tcmp.toNat ≤ s.cyc)

/-- `ipend` as it reads: the latched lines and line 8. -/
def State.ipendNow (s : State) : BitVec 12 :=
  if s.timerDue then s.th.sup.ipend ||| 0x100 else s.th.sup.ipend &&& 0xEFF

def Thread.setPc (t : Thread) (pc : BitVec 64) : Thread := { t with arch := { t.arch with pc := pc } }

/-- The trap registers and level after trap entry (R286). -/
def Sup.enter (u : Sup) (cause : BitVec 8) (pc detail addr : BitVec 64) (info : BitVec 13) : Sup :=
  { u with
    tpc := pc, tcause := cause, tdetail := detail, taddr := addr, tinfo := info
    -- end 0, tip 1, pm level, pie ie, ie 0
    sstat := 0#1 ++ 1#1 ++ BitVec.ofBool u.level ++ u.sstat.extractLsb' 0 1 ++ 0#1
    level := true }

/-- The handler's address. -/
def Sup.handler (u : Sup) : BitVec 64 := (u.tvec ++ 0#2).setWidth 64

def Sup.tip (u : Sup) : Bool := u.sstat.getLsbD 3
def Sup.ie (u : Sup) : Bool := u.sstat.getLsbD 0

/-- TRET's change of level and status (R290). -/
def Sup.leave (u : Sup) : Sup :=
  { u with
    sstat := u.sstat.extractLsb' 4 1 ++ 0#1 ++ u.sstat.extractLsb' 2 1 ++ u.sstat.extractLsb' 1 1 ++ u.sstat.extractLsb' 1 1
    level := u.sstat.getLsbD 2 }

/-- Whether a trap is one that no unit raises: an interrupt, or a slice-watch stop (R292, R409). It leaves skip as it stands (R399). -/
def ofNoUnit (cause : BitVec 8) (detail : BitVec 64) : Bool :=
  decide (cause = 0x10) || (decide (cause = 0x0C) && decide (0x100 ≤ detail.toNat))

/-- Trap entry of a thread that is not in trap state (R286): the saved registers, the status, the level and the pc.
A trap consumes the exemption of `dctl` skip when a unit at user level raises it (R399). A divergence fault that tells of a mismatched
device item, or of an element at its home, has told of it (R438). -/
def Thread.enterTrap (t : Thread) (cause : BitVec 8) (pc detail addr : BitVec 64) (info : BitVec 13) : Thread :=
  { t with
    arch := { t.arch with pc := t.sup.handler }
    sup := t.sup.enter cause pc detail addr info
    dbg := if t.sup.level || ofNoUnit cause detail then t.dbg else { t.dbg with dctl := t.dbg.dctl &&& 0x77F }
    trapCore := t.core, wait := none, refused := none, stalledAt := none, grant := false
    mismatch := if cause = 0x0B ∧ t.mismatch.any (fun m => decide (m.2.setWidth 28 = detail.setWidth 28)) then none else t.mismatch }

/-- The fault record of a double trap: the second cause and the trap registers as they stood (R288, R308). -/
def Thread.doubleTrapRecord (t : Thread) (cause : BitVec 8) : FaultRecord :=
  { kind := 0x03, cause := cause, reason := t.sup.tcause, handle := t.handle, addr := t.sup.tdetail, pc := t.sup.tpc
    flags := if t.sup.level then 0x08 else 0, elem := 0, core := t.core.setWidth 16 }

/-- Appends a fault record to those waiting in the thread's device context; each posts when its ring has space (R309). -/
def State.queueFault (s : State) (dc : DctxId) (r : FaultRecord) : State :=
  s.modDctx dc fun d => { d with fqWait := d.fqWait ++ [r] }

/-- Taking an exception (R286): entry, or, in trap state, a double trap that holds the thread at the instruction and
queues a record (R288). -/
def State.takeTrap (s : State) (cause : BitVec 8) (pc detail addr : BitVec 64) (info : BitVec 13) : State :=
  if s.th.sup.tip then
    let s' := s.queueFault (handleDctx s.th.handle) (s.th.doubleTrapRecord cause)
    { s' with th := { s.th with held := true, wait := none, grant := false, arch := { s.th.arch with pc := pc } } }
  else { s with th := s.th.enterTrap cause pc detail addr info }

end Sys2Proof.Machine
end

