-- ==== Sys2Proof/Machine/Flags.lean ====
section
/-! DEFINITION. Number formats, rounding and the flags of `fstat`: chapter "Number formats and arithmetic" (R67 to
R85). A value is held exactly; every operation computes exactly and rounds once (R75). -/

namespace Sys2Proof.Machine

/-! ### Formats (R69) -/

inductive Fmt where
  | f64 | f32 | f16 | bf16 | e5m2 | e4m3 | e3m2 | e2m3 | e2m1
  deriving DecidableEq, Repr

/-- Storage bits of a value. -/
def Fmt.bits : Fmt → Nat
  | .f64 => 64 | .f32 => 32 | .f16 | .bf16 => 16 | .e5m2 | .e4m3 => 8 | .e3m2 | .e2m3 => 6 | .e2m1 => 4
/-- Precision p: fraction bits and the hidden bit. -/
def Fmt.prec : Fmt → Nat
  | .f64 => 53 | .f32 => 24 | .f16 => 11 | .bf16 => 8 | .e5m2 => 3 | .e4m3 => 4 | .e3m2 => 3 | .e2m3 => 4 | .e2m1 => 2
def Fmt.bias : Fmt → Nat
  | .f64 => 1023 | .f32 => 127 | .f16 => 15 | .bf16 => 127 | .e5m2 => 15 | .e4m3 => 7 | .e3m2 => 3 | .e2m3 => 1 | .e2m1 => 1
/-- Whether the format has infinities. -/
def Fmt.hasInf : Fmt → Bool
  | .f64 | .f32 | .f16 | .bf16 | .e5m2 => true
  | _ => false
/-- Exponent of the largest finite value (emax of R73). -/
def Fmt.emax : Fmt → Int
  | .f64 => 1023 | .f32 => 127 | .f16 => 15 | .bf16 => 127 | .e5m2 => 15 | .e4m3 => 8 | .e3m2 => 4 | .e2m3 => 2 | .e2m1 => 2
/-- Exponent of the smallest normal value. -/
def Fmt.emin (f : Fmt) : Int := 1 - (f.bias : Int)
/-- Bits of the largest finite magnitude. -/
def Fmt.maxBits : Fmt → Nat
  | .f64 => 0x7FEF_FFFF_FFFF_FFFF | .f32 => 0x7F7F_FFFF | .f16 => 0x7BFF | .bf16 => 0x7F7F | .e5m2 => 0x7B
  | .e4m3 => 0x7E | .e3m2 => 0x1F | .e2m3 => 0x1F | .e2m1 => 0x7
/-- Bits of +∞. -/
def Fmt.infBits : Fmt → Nat
  | .f64 => 0x7FF0_0000_0000_0000 | .f32 => 0x7F80_0000 | .f16 => 0x7C00 | .bf16 => 0x7F80 | .e5m2 => 0x7C | f => f.maxBits
/-- The canonical NaN (R71); a format without NaN has none, and 0 stands there. -/
def Fmt.nanBits : Fmt → Nat
  | .f64 => 0x7FF8_0000_0000_0000 | .f32 => 0x7FC0_0000 | .f16 => 0x7E00 | .bf16 => 0x7FC0 | .e5m2 => 0x7E | .e4m3 => 0x7F
  | _ => 0
/-- The sign bit of a format. -/
def Fmt.signBit (f : Fmt) : Nat := 2 ^ (f.bits - 1)

/-- A decoded value: NaN (signalling or quiet), an infinity, or (−1)^neg · m · 2^e with m possibly 0. -/
inductive FVal where
  | nan (signalling : Bool)
  | inf (neg : Bool)
  | fin (neg : Bool) (m : Nat) (e : Int)
  deriving DecidableEq, Repr

/-- The value that bits encode (R69 to R71). -/
def Fmt.decode (f : Fmt) (x : Nat) : FVal :=
  let fb := f.prec - 1
  let eb := f.bits - f.prec
  let neg := decide (bitsOf x (f.bits - 1) 1 = 1)
  let e := bitsOf x fb eb
  let m := bitsOf x 0 fb
  if f.hasInf ∧ e = 2 ^ eb - 1 then
    if m = 0 then .inf neg else .nan (decide (bitsOf m (fb - 1) 1 = 0))
  else if f = .e4m3 ∧ e = 15 ∧ m = 7 then .nan false
  else if e = 0 then .fin neg m (f.emin - fb)
  else .fin neg (2 ^ fb + m) ((e : Int) - f.bias - fb)

def FVal.isNan : FVal → Bool
  | .nan _ => true
  | _ => false
def FVal.isSNan : FVal → Bool
  | .nan s => s
  | _ => false
def FVal.isInf : FVal → Bool
  | .inf _ => true
  | _ => false
def FVal.isZero : FVal → Bool
  | .fin _ m _ => decide (m = 0)
  | _ => false
def FVal.neg : FVal → Bool
  | .nan _ => false
  | .inf n => n
  | .fin n _ _ => n
def FVal.negate : FVal → FVal
  | .nan s => .nan s
  | .inf n => .inf (!n)
  | .fin n m e => .fin (!n) m e

/-! ### Rounding (R75, R76) -/

inductive Mode where
  | rne | rtz | rdn | rup | rmm
  deriving DecidableEq, Repr

/-- The mode of an `fround` code; 5 to 7 cannot be written. -/
def Mode.of (c : BitVec 3) : Mode :=
  match c.toNat with
  | 0 => .rne | 1 => .rtz | 2 => .rdn | 3 => .rup | _ => .rmm

/-- Flags as `fstat` bits. -/
abbrev FFlags := BitVec 5
def flagInvalid : FFlags := 1
def flagDivZero : FFlags := 2
def flagOverflow : FFlags := 4
def flagUnderflow : FFlags := 8
def flagInexact : FFlags := 16

/-- m · 2^e (plus a part below one unit of m when sticky) as a multiple of 2^q: the multiple and whether it is inexact. -/
def roundAt (mode : Mode) (neg : Bool) (m : Nat) (e : Int) (sticky : Bool) (q : Int) : Nat × Bool :=
  if q ≤ e then (m * 2 ^ (e - q).toNat, sticky)
  else
    let sh := (q - e).toNat
    let n := m >>> sh
    let r := m % 2 ^ sh
    let half := 2 ^ (sh - 1)
    let inexact := decide (r ≠ 0) || sticky
    let up := match mode with
      | .rne => decide (half < r) || (decide (r = half) && (sticky || decide (n % 2 = 1)))
      | .rtz => false
      | .rdn => neg && inexact
      | .rup => !neg && inexact
      | .rmm => decide (half ≤ r)
    (if up then n + 1 else n, inexact)

/-- What an overflowing or infinite value becomes (R76, R77). -/
inductive Overflow where
  /-- R76: by the mode, or the e4m3 NaN of its sign in a format without infinities -/
  | arithmetic
  /-- R77 saturating: the largest finite value with its sign -/
  | saturate
  deriving DecidableEq, Repr

/-- Bits with a sign. -/
def Fmt.signed (f : Fmt) (neg : Bool) (mag : Nat) : Nat := if neg then mag + f.signBit else mag

/-- Bits that an overflow delivers. -/
def Fmt.overflowBits (f : Fmt) (mode : Mode) (o : Overflow) (neg : Bool) : Nat :=
  match o with
  | .saturate => f.signed neg f.maxBits
  | .arithmetic =>
    if f.hasInf then
      match mode with
      | .rne | .rmm => f.signed neg f.infBits
      | .rtz => f.signed neg f.maxBits
      | .rdn => f.signed neg (if neg then f.infBits else f.maxBits)
      | .rup => f.signed neg (if neg then f.maxBits else f.infBits)
    else if f = .e4m3 then f.signed neg f.nanBits
    else f.signed neg f.maxBits

/-- Rounds (−1)^neg · m · 2^e (sticky: a little more in magnitude) to a format, with its flags. -/
def Fmt.round (f : Fmt) (mode : Mode) (o : Overflow) (neg : Bool) (m : Nat) (e : Int) (sticky : Bool) : Nat × FFlags :=
  if m = 0 then
    -- a value below one unit that is not zero never arises with m = 0: exact zero
    (f.signed neg 0, 0)
  else
    let top := (Nat.log2 m : Int) + e
    let p1 : Int := (f.prec : Int) - 1
    -- rounded with unbounded exponent
    let (n, _) := roundAt mode neg m e sticky (top - p1)
    let ntop := (Nat.log2 n : Int) + (top - p1)
    let big := decide (f.emax < ntop) || (decide (f = .e4m3) && decide (ntop = 8) && decide (14 < n >>> (Nat.log2 n - 3)))
    if big then (f.overflowBits mode o neg, flagOverflow ||| flagInexact)
    else if f.emin ≤ ntop ∧ f.emin ≤ top then
      -- normal: n may be one past the precision
      let (r, inexact) := roundAt mode neg m e sticky (top - p1)
      let r' := if Nat.log2 r = f.prec then r / 2 else r
      let ex := (ntop + f.bias).toNat
      (f.signed neg (ex * 2 ^ (f.prec - 1) + (r' - 2 ^ (f.prec - 1))), if inexact then flagInexact else 0)
    else
      let (r, inexact) := roundAt mode neg m e sticky (f.emin - p1)
      let tiny := decide (ntop < f.emin)
      (f.signed neg r, (if inexact then flagInexact else 0) ||| (if inexact && tiny then flagUnderflow else 0))

/-! ### Exact results -/

/-- The exact result of an operation, before rounding, with the flags the operation itself raises. -/
inductive Exact where
  | nan (flags : FFlags)
  | inf (neg : Bool) (flags : FFlags)
  | fin (neg : Bool) (m : Nat) (e : Int) (sticky : Bool)
  deriving DecidableEq, Repr

/-- Delivers an exact result in a format: bits and flags. -/
def Exact.deliver (x : Exact) (f : Fmt) (mode : Mode) : Nat × FFlags :=
  match x with
  | .nan fl => (f.nanBits, fl)
  | .inf n fl => (f.signed n f.infBits, fl)
  | .fin n m e st => f.round mode .arithmetic n m e st

/-- invalid if any operand is a signalling NaN. -/
def nanFlags (xs : List FVal) : FFlags := if xs.any FVal.isSNan then flagInvalid else 0

/-- The sum of two finite signed magnitudes. -/
def addFin (mode : Mode) (n1 : Bool) (m1 : Nat) (e1 : Int) (n2 : Bool) (m2 : Nat) (e2 : Int) : Exact :=
  let e := if e1 ≤ e2 then e1 else e2
  let a := m1 * 2 ^ (e1 - e).toNat
  let b := m2 * 2 ^ (e2 - e).toNat
  if n1 = n2 then .fin n1 (a + b) e false
  else if a = b then .fin (decide (mode = .rdn)) 0 e false
  else if b < a then .fin n1 (a - b) e false
  else .fin n2 (b - a) e false

/-- x + y. -/
def FVal.add (mode : Mode) (x y : FVal) : Exact :=
  match x, y with
  | .nan _, _ | _, .nan _ => .nan (nanFlags [x, y])
  | .inf a, .inf b => if a = b then .inf a 0 else .nan flagInvalid
  | .inf a, .fin _ _ _ => .inf a 0
  | .fin _ _ _, .inf b => .inf b 0
  | .fin n1 m1 e1, .fin n2 m2 e2 => addFin mode n1 m1 e1 n2 m2 e2

/-- x · y, exact. -/
def FVal.mul (x y : FVal) : Exact :=
  match x, y with
  | .nan _, _ | _, .nan _ => .nan (nanFlags [x, y])
  | .inf a, .inf b => .inf (a ^^ b) 0
  | .inf a, .fin n m _ => if m = 0 then .nan flagInvalid else .inf (a ^^ n) 0
  | .fin n m _, .inf a => if m = 0 then .nan flagInvalid else .inf (a ^^ n) 0
  | .fin n1 m1 e1, .fin n2 m2 e2 => .fin (n1 ^^ n2) (m1 * m2) (e1 + e2) false

/-- x · y + z, exact; 0 · ∞ is invalid whatever z holds (R181, R191). -/
def FVal.fma (mode : Mode) (x y z : FVal) : Exact :=
  match x.mul y with
  | .nan fl => .nan (fl ||| nanFlags [z])
  | .inf a _ =>
    match z with
    | .nan s => .nan (if s then flagInvalid else 0)
    | .inf b => if a = b then .inf a 0 else .nan flagInvalid
    | .fin _ _ _ => .inf a 0
  | .fin n m e _ =>
    match z with
    | .nan s => .nan (if s then flagInvalid else 0)
    | .inf b => .inf b 0
    | .fin n2 m2 e2 => addFin mode n m e n2 m2 e2

/-- x / y, to 2·prec + 70 bits with a sticky remainder. -/
def FVal.div (x y : FVal) : Exact :=
  match x, y with
  | .nan _, _ | _, .nan _ => .nan (nanFlags [x, y])
  | .inf _, .inf _ => .nan flagInvalid
  | .inf a, .fin n _ _ => .inf (a ^^ n) 0
  | .fin n _ _, .inf a => .fin (n ^^ a) 0 0 false
  | .fin n1 m1 e1, .fin n2 m2 e2 =>
    if m2 = 0 then (if m1 = 0 then .nan flagInvalid else .inf (n1 ^^ n2) flagDivZero)
    else
      let q := (m1 <<< 180) / m2
      .fin (n1 ^^ n2) q (e1 - e2 - 180) (decide ((m1 <<< 180) % m2 ≠ 0))

/-- Integer square root by trial bits from bit k downward. -/
def isqrtFrom (x : Nat) : Nat → Nat → Nat
  | 0, r => if (r + 1) * (r + 1) ≤ x then r + 1 else r
  | k + 1, r =>
    let t := r + 2 ^ (k + 1)
    isqrtFrom x k (if t * t ≤ x then t else r)
def isqrt (x : Nat) : Nat := isqrtFrom x (Nat.log2 x / 2 + 1) 0

/-- √x. -/
def FVal.sqrt (x : FVal) : Exact :=
  match x with
  | .nan _ => .nan (nanFlags [x])
  | .inf n => if n then .nan flagInvalid else .inf false 0
  | .fin n m e =>
    if m = 0 then .fin n 0 0 false
    else if n then .nan flagInvalid
    else
      -- an even exponent, and 160 more bits
      let odd := e % 2 ≠ 0
      let m' := (if odd then m * 2 else m) <<< 160
      let e' := (if odd then e - 1 else e) - 160
      let r := isqrt m'
      .fin false r (e' / 2) (decide (r * r ≠ m'))

/-- Whether x < y as numbers; NaN compares false. -/
def FVal.lt (x y : FVal) : Bool :=
  match x, y with
  | .nan _, _ | _, .nan _ => false
  | .inf a, .inf b => a && !b
  | .inf a, .fin _ _ _ => a
  | .fin _ _ _, .inf b => !b
  | .fin n1 m1 e1, .fin n2 m2 e2 =>
    match addFin .rne n1 m1 e1 (!n2) m2 e2 with
    | .fin n m _ _ => n && decide (m ≠ 0)
    | _ => false

/-- Whether x = y as numbers: zeros of either sign are equal. -/
def FVal.eq (x y : FVal) : Bool := !x.isNan && !y.isNan && !x.lt y && !y.lt x

/-! ### Conversions (R77 to R79) -/

/-- An integer's value. -/
def intVal (i : Int) : FVal := .fin (decide (i < 0)) i.natAbs 0

/-- A value converted to a floating-point format, saturating or not (R77). -/
def FVal.convert (x : FVal) (f : Fmt) (mode : Mode) (sat : Bool) : Nat × FFlags :=
  match x with
  | .nan s => (f.nanBits, if s then flagInvalid else 0)
  | .inf n =>
    if f.hasInf && !sat then (f.signed n f.infBits, 0)
    else (f.overflowBits .rne (if sat then .saturate else .arithmetic) n, flagOverflow ||| flagInexact)
  | .fin n m e => f.round mode (if sat then .saturate else .arithmetic) n m e false

/-- Floor of log2 of the magnitude of a non-zero finite value. -/
def FVal.log2 : FVal → Int
  | .fin _ m e => (Nat.log2 m : Int) + e
  | _ => 0

/-- A value rounded to an integer, and whether it was exact. -/
def roundInt (mode : Mode) (n : Bool) (m : Nat) (e : Int) : Int × Bool :=
  let (r, inexact) := roundAt mode n m e false 0
  (if n then -(r : Int) else r, inexact)

/-- A value converted to a w-bit integer, signed or unsigned, saturating (R78): bits and flags. -/
def FVal.toInt (x : FVal) (mode : Mode) (sgn : Bool) (w : Nat) : Nat × FFlags :=
  let lo : Int := if sgn then -((2 ^ (w - 1) : Nat) : Int) else 0
  let hi : Int := if sgn then ((2 ^ (w - 1) : Nat) : Int) - 1 else ((2 ^ w : Nat) : Int) - 1
  match x with
  | .nan _ => (0, flagInvalid)
  | .inf n => (wrapInt w (if n then lo else hi), flagInvalid)
  | .fin n m e =>
    let (i, inexact) := roundInt mode n m e
    if hi < i then (wrapInt w hi, flagInvalid)
    else if i < lo then (wrapInt w lo, flagInvalid)
    else (wrapInt w i, if inexact then flagInexact else 0)

/-! ### Scales and codewords (R72 to R74) -/

/-- A value times 2^k, exactly. -/
def FVal.scale (x : FVal) (k : Int) : FVal :=
  match x with
  | .fin n m e => .fin n m (e + k)
  | v => v

/-- An element of an MX block with scale byte X (R72). -/
def mxElem (f : Fmt) (scale bits : Nat) : FVal :=
  if scale = 0xFF then .nan false else (f.decode bits).scale ((scale : Int) - 127)

/-- Weight j of rime-2 codeword c in a block with scale X (R74). -/
def rimeWeight (c scale j : Nat) : FVal :=
  if scale = 0xFF then .nan false
  else
    let bit (i : Nat) : Nat := bitsOf c i 1
    let s7 := (bit 0 + bit 1 + bit 2 + bit 3 + bit 4 + bit 5 + bit 6) % 2
    let s := if j < 7 then bit j else s7
    .fin (decide (s = 1)) ((1 + 2 * bit (8 + j)) * (1 + bit 7)) ((scale : Int) - 128)

/-- An exact finite value, for sums. -/
def FVal.ofExact : Exact → FVal
  | .nan _ => .nan false
  | .inf n _ => .inf n
  | .fin n m e _ => .fin n m e

/-- The MX conversion of a block's source values with their activity (R73): scale byte, elements and flags. -/
def mxBlock (f : Fmt) (mode : Mode) (xs : List (Bool × FVal)) : Nat × List Nat × FFlags :=
  let act := (xs.filter (·.1)).map (·.2)
  let zeros := xs.map fun _ => 0
  let sflags := nanFlags act
  if act.any FVal.isNan then (0xFF, zeros, flagInvalid ||| sflags)
  else if act.all FVal.isZero then (0, zeros, 0)
  else
    let logs := (act.filter fun x => !x.isInf && !x.isZero).map FVal.log2
    let e0 : Int := match logs with
      | [] => 127
      | l :: ls => ls.foldl max l - f.emax
    let e := max (-127) (min 127 e0)
    let els := xs.map fun (a, x) =>
      if a then
        match x with
        | .fin n m ex => f.round mode .saturate n m (ex - e) false
        | x => x.convert f mode true
      else (0, 0)
    ((e + 127).toNat, els.map (·.1), els.foldl (fun acc r => acc ||| r.2) 0)

/-! ### Dot products (R80, R81) -/

/-- The sum of a group of exact products (R80). -/
def groupSum (ps : List FVal) : FVal :=
  if ps.any FVal.isNan then .nan false
  else
    let infs := ps.filter FVal.isInf
    if infs.any FVal.neg && infs.any (fun x => !x.neg) then .nan false
    else match infs with
    | x :: _ => x
    | [] =>
      match (ps.filter fun x => !x.isZero).map FVal.log2 with
      | [] => .fin false 0 0
      | l :: ls =>
        let u := ls.foldl max l - 46
        let total : Int := ps.foldl (fun (acc : Int) x => match x with
          | .fin n m e =>
            let k : Nat := if u ≤ e then m * 2 ^ (e - u).toNat else m >>> (u - e).toNat
            if n then acc - k else acc + k
          | _ => acc) 0
        .fin (decide (total < 0)) total.natAbs u

/-- acc + s rounded to f32, where s is not zero. -/
def accAdd (acc : Nat) (s : FVal) : Nat := (((Fmt.f32).decode acc).add .rne s |>.deliver .f32 .rne).1

/-- DotAccumulate over the groups of products (R80). -/
def dotAccumulate (acc : Nat) (groups : List (List FVal)) : Nat :=
  groups.foldl (fun a g => let s := groupSum g; if s.isZero then a else accAdd a s) acc

/-- Lists of n consecutive elements, at most fuel of them. -/
def chunks {α : Type} (n : Nat) : Nat → List α → List (List α)
  | 0, _ => []
  | fuel + 1, xs => if xs.isEmpty then [] else xs.take n :: chunks n fuel (xs.drop n)

/-! ### Tree reductions (R83) -/

/-- Combines neighbours pairwise, once. -/
def treeStep {α : Type} (op : α → α → α) : List α → List α
  | a :: b :: t => op a b :: treeStep op t
  | t => t

/-- The tree reduction of R83 over a list, with `none` for Empty and a fuel of levels; flags are the operation's. -/
def treeReduce {α : Type} (op : α → α → α) : Nat → List α → List α
  | 0, xs => xs
  | fuel + 1, xs => if xs.length ≤ 1 then xs else treeReduce op fuel (treeStep op xs)

/-- Smallest power of two that is at least n, as its exponent. -/
def ceilLog2 (n : Nat) : Nat := if n ≤ 1 then 0 else Nat.log2 (n - 1) + 1

end Sys2Proof.Machine
end

