-- ==== Sys2Proof/Machine/Operands.lean ====
section
/-! DEFINITION. Operand forms: general, vector and predicate registers of the current thread with their poison, the
element formats of `vform`, scopes and the work tree, and which registers each instruction reads and writes. -/

namespace Sys2Proof.Machine

/-! ### Element formats (R61 `vform`) -/

/-- Element width of a `vform` code. -/
def formWidth (c : BitVec 4) : Nat :=
  match c.toNat with
  | 0 | 4 => 8 | 1 | 5 | 8 | 9 => 16 | 2 | 6 | 10 => 32 | _ => 64

/-- The floating-point format of a `vform` code, none for an integer one. -/
def formFmt (c : BitVec 4) : Option Fmt :=
  match c.toNat with
  | 8 => some .f16 | 9 => some .bf16 | 10 => some .f32 | 11 => some .f64 | _ => none

/-- Whether a `vform` code is a signed integer. -/
def formSigned (c : BitVec 4) : Bool := decide (c.toNat < 4)

/-- The format of an F-group fmt code (R181). -/
def scalarFmt (f : BitVec 2) : Fmt :=
  match f.toNat with
  | 0 => .f64 | 1 => .f32 | 2 => .f16 | _ => .bf16

/-- Elements of width w in a grant of 2^lg bits, at most 256 (R64); 0 without a grant. -/
def grantCount (lg w : Nat) : Nat := if lg = 0 then 0 else min (2 ^ lg / w) 256

/-! ### General registers (R53) -/

def State.g (s : State) (r : BitVec 5) : BitVec 64 := if r = 0 then 0 else s.th.arch.g[r.toNat]

def Arch.setG (a : Arch) (r : BitVec 5) (x : BitVec 64) : Arch :=
  if r = 0 then a else { a with g := a.g.set r.toNat x }

/-- Writes g[r], clearing its poison; a write to g0 is discarded. -/
def State.setG (s : State) (r : BitVec 5) (x : BitVec 64) : State :=
  { s with th :=
    { s.th with
      arch := s.th.arch.setG r x
      poison := { s.th.poison with g := s.th.poison.g &&& ~~~(1#32 <<< r.toNat) } } }

/-! ### Vector registers (R54, R55) -/

/-- The physical number of vn (R55). -/
def physV (vrot : BitVec 5) (n : BitVec 6) : Fin 64 :=
  if n.toNat < 32 then ⟨n.toNat % 64, Nat.mod_lt _ (by decide)⟩
  else ⟨32 + (n.toNat - 32 + vrot.toNat) % 32, by have := Nat.mod_lt (n.toNat - 32 + vrot.toNat) (y := 32) (by decide); omega⟩

def State.vReg (s : State) (n : BitVec 6) : Nat := s.th.arch.v[physV s.th.arch.vrot n].toNat

/-- Element width and count of the current thread. -/
def State.w (s : State) : Nat := formWidth s.th.arch.vform
def State.vl (s : State) : Nat := s.th.arch.vcount.toNat

/-- Element i of vn. -/
def State.elem (s : State) (n : BitVec 6) (i : Nat) : Nat := bitsOf (s.vReg n) (i * s.w) s.w

/-- Predicate pn as it reads: p0 is all-true (R57). -/
def State.pReg (s : State) (n : BitVec 3) : Nat :=
  if n = 0 then 2 ^ s.vl - 1 else s.th.arch.p[n.toNat].toNat

/-- Whether element i is active under pn (R178). -/
def State.active (s : State) (n : BitVec 3) (i : Nat) : Bool := decide (i < s.vl) && (s.pReg n).testBit i

/-- Elements below `vcount`. -/
def State.lanes (s : State) : List Nat := List.range s.vl

/-- A bit pattern and its write mask from a list of elements of width w, `none` where nothing is written. -/
def assemble (w : Nat) : List (Option Nat) → Nat × Nat
  | [] => (0, 0)
  | x :: t =>
    let (v, m) := assemble w t
    match x with
    | some e => (e % 2 ^ w + v * 2 ^ w, 2 ^ w - 1 + m * 2 ^ w)
    | none => (v * 2 ^ w, m * 2 ^ w)

/-- Words of 64 bits that a mask covers whole, as a bit per word. -/
def wholeWords (mask : Nat) : BitVec 32 :=
  BitVec.ofNat 32 (((List.range 32).filter fun j => decide (bitsOf mask (64 * j) 64 = 2 ^ 64 - 1)).foldl (fun a j => a + 2 ^ j) 0)

/-- Writes the bits of vn that a mask names, clearing the poison of words written whole (R345). -/
def State.putVBits (s : State) (n : BitVec 6) (val mask : Nat) : State :=
  let k := physV s.th.arch.vrot n
  let old := s.th.arch.v[k].toNat
  let new := BitVec.ofNat 2048 ((old - (old &&& mask)) + (val &&& mask))
  { s with th :=
    { s.th with
      arch := { s.th.arch with v := s.th.arch.v.set k new }
      poison := { s.th.poison with v := s.th.poison.v.set k (s.th.poison.v[k] &&& ~~~(wholeWords mask)) } } }

/-- Writes element results to vn as R178's table says: `none` is an inactive element, z zeroes it and every bit at and
above `vcount`. -/
def State.putV (s : State) (n : BitVec 6) (z : BitVec 1) (items : List (Option Nat)) : State :=
  let (v, m) := assemble s.w items
  if z = 1 then s.putVBits n v (2 ^ 2048 - 1) else s.putVBits n v m

/-- Element results of an element-wise form: f i for each active element. -/
def State.mapLanes (s : State) (p : BitVec 3) (f : Nat → Nat) : List (Option Nat) :=
  s.lanes.map fun i => if s.active p i then some (f i) else none

/-- Writes predicate bits as R178 says: bits at and above `vcount` are not kept (R57), a write to p0 is discarded. -/
def State.putP (s : State) (n : BitVec 3) (z : BitVec 1) (items : List (Option Bool)) : State :=
  if n = 0 then s
  else
    let (v, m) := assemble 1 (items.map fun x => match x with
      | some b => some (if b then 1 else 0)
      | none => if z = 1 then some 0 else none)
    let old := s.th.arch.p[n.toNat].toNat
    let new := ((old - (old &&& m)) + v) % 2 ^ s.vl
    { s with th :=
      { s.th with
        arch := { s.th.arch with p := s.th.arch.p.set n.toNat (BitVec.ofNat 256 new) }
        poison := { s.th.poison with p := if z = 1 ∨ items.all Option.isSome then s.th.poison.p &&& ~~~(1#8 <<< n.toNat) else s.th.poison.p } } }

/-- Sets `vcount`, clearing predicate bits at and above a lower value (R57). -/
def Arch.setVcount (a : Arch) (n : Nat) : Arch :=
  { a with
    vcount := BitVec.ofNat 12 n
    p := if n < a.vcount.toNat then a.p.map fun x => x &&& BitVec.ofNat 256 (2 ^ n - 1) else a.p }

/-- ORs flags into `fstat` (R76). -/
def State.orFlags (s : State) (f : FFlags) : State :=
  { s with th := { s.th with arch := { s.th.arch with fstat := s.th.arch.fstat ||| f } } }

/-! ### Scopes and the work tree (R36, R37, R113, R114) -/

/-- Whether the leaf is LANE-bound: a `vl` leaf. -/
def laneLeaf (t : List Level) : Bool :=
  match t with
  | l :: _ => l.vl
  | [] => false

/-- Threads per node that a level's fan-out stands for: a LANE leaf counts one per context (R113). -/
def Level.count (l : Level) : Nat := if l.vl then 1 else l.fanout
/-- Bits of a level's WID field (R37). -/
def Level.width (l : Level) : Nat := if l.vl then 8 else max 1 (ceilLog2 l.fanout)

def product (xs : List Nat) : Nat := xs.foldl (· * ·) 1

/-- Threads beneath a node at height h. -/
def membersAt (t : List Level) (h : Nat) : Nat := product ((t.take h).map Level.count)
/-- Nodes at height h, 1 at the depth and above. -/
def nodesAt (t : List Level) (h : Nat) : Nat := product ((t.drop h).map Level.count)

/-- The sibling index that a WID holds for each level, leaf first. -/
def widFields : List Level → Nat → List Nat
  | [], _ => []
  | l :: t, w => w % 2 ^ l.width :: widFields t (w >>> l.width)

/-- The WID of sibling indices, leaf first. -/
def widOf : List Level → List Nat → Nat
  | l :: t, i :: is => i + (widOf t is <<< l.width)
  | _, _ => 0

/-- Sibling indices of thread n in ascending WID order, leaf first (R322). -/
def indicesOf : List Level → Nat → List Nat
  | [], _ => []
  | l :: t, n => (if l.vl then 0 else n % l.fanout) :: indicesOf t (n / l.count)

/-- Dense index of the node at height h (R114): indices of levels h and above, root first. -/
def denseIndex (t : List Level) (idx : List Nat) (h : Nat) : Nat :=
  ((t.zip idx).drop h).foldr (fun (l, i) k => k * l.count + i) 0

/-- The height that a scope field names: 30 reads `slv`; 31 is SYSTEM, given here as the depth (R36, R156). -/
def State.height (s : State) (c : BitVec 5) (depth : Nat) : Nat :=
  min depth (if c.toNat = 30 then s.th.arch.slv.toNat else if c.toNat = 31 then depth else c.toNat)

/-- Words in the region of height h: none for height 1 over a LANE leaf, one at the depth (R114). In a tree of one level with a
LANE leaf both hold of height 1, and it has the launch's one word (DESIGN CHOICE, log 152). -/
def regionWords (t : List Level) (h : Nat) : Nat :=
  if h = 1 ∧ laneLeaf t ∧ 1 < t.length then 0 else if h = t.length then 1 else nodesAt t h

/-- Offset of the barrier word of the node at height h of a thread with indices idx (R114). -/
def barrierOffset (t : List Level) (idx : List Nat) (h : Nat) : Nat :=
  48 * (((List.range h).drop 1).foldl (fun a j => a + regionWords t j) 0 + (if h = t.length then 0 else denseIndex t idx h))

/-- Words of the regions of heights 1 to d. -/
def heightWords (t : List Level) : Nat :=
  ((List.range (t.length + 1)).drop 1).foldl (fun a j => a + regionWords t j) 0

/-- Words of the domain region for levels below i (R114). -/
def domainWordsBelow (t : List Level) (i : Nat) : Nat :=
  ((List.range i).map fun j => match t[j]? with
    | some l => nodesAt t (j + 1) * l.domains.length
    | none => 0).foldl (· + ·) 0

/-- Offset of the word of domain k of level i under the parent of a thread with indices idx. -/
def domainOffset (t : List Level) (idx : List Nat) (i k : Nat) : Nat :=
  let n := match t[i]? with
    | some l => l.domains.length
    | none => 0
  48 * (heightWords t + domainWordsBelow t i + denseIndex t idx (i + 1) * n + k)

/-- Bytes of a launch's sync area (R114). -/
def syncBytes (t : List Level) : Nat := 48 * (heightWords t + domainWordsBelow t t.length)

/-- Set bits of a bitmap below n. -/
def popcount (x n : Nat) : Nat := ((List.range n).filter fun i => x.testBit i).length

/-! ### Registers that an instruction names -/

/-- Registers an instruction reads and writes: the general registers, the vector registers (all, those checked for
poison by active element, those read whole), predicates, and whether it writes `vcount`, `vform` or `vrot`. -/
structure Uses where
  g     : List (BitVec 5) := []
  v     : List (BitVec 6) := []
  lanes : List (BitVec 6) := []
  whole : List (BitVec 6) := []
  p     : List (BitVec 3) := []
  gov   : BitVec 3 := 0
  gw    : List (BitVec 5) := []
  vw    : List (BitVec 6) := []
  pw    : List (BitVec 3) := []
  cfg   : Bool := false

/-- An element-wise form: sources, governing predicate, destination. -/
def Uses.ew (srcs : List (BitVec 6)) (p : BitVec 3) (d : BitVec 6) : Uses :=
  { v := srcs, lanes := srcs, p := [p], gov := p, vw := [d] }
/-- A permutation form, which reads its sources whole (R206). -/
def Uses.perm (srcs : List (BitVec 6)) (p : BitVec 3) (d : BitVec 6) : Uses :=
  { v := srcs, whole := srcs, p := [p], gov := p, vw := [d] }
/-- A form of general registers only. -/
def Uses.gg (srcs : List (BitVec 5)) (d : BitVec 5) : Uses := { g := srcs, gw := [d] }

/-- Storage width in bits of a VCVT type code, R127 and R198: rime2 counts 2 bits per weight. -/
def typeWidth (t : BitVec 5) : Nat :=
  match t.toNat with
  | 0x00 | 0x04 => 8 | 0x01 | 0x05 | 0x08 | 0x09 => 16 | 0x02 | 0x06 | 0x0A => 32 | 0x03 | 0x07 | 0x0B => 64
  | 0x0C | 0x11 => 4 | 0x13 => 2 | _ => 8

/-- Whether a VCVT type's block scales travel in the register above the operand (R127, R200). -/
def typeScaled (t : BitVec 5) : Bool := decide (0x0F ≤ t.toNat) && decide (t.toNat ≤ 0x15) && decide (t.toNat ≠ 0x12)

/-- Registers of the T side of a conversion at element width w (R198). -/
def typeGroup (w : Nat) (t : BitVec 5) (r : BitVec 6) : List (BitVec 6) :=
  (List.range (max 1 (typeWidth t / w))).map fun j => r + BitVec.ofNat 6 j

/-- The scale register of a scaled type (R200). -/
def typeScaleReg (t : BitVec 5) (r : BitVec 6) : List (BitVec 6) := if typeScaled t then [r + 1] else []

/-- The registers of an instruction word. Events name none. -/
def Uses.of (w : Nat) (i : Instr) : Uses :=
  match i with
  | .add d a b | .sub d a b | .and d a b | .or d a b | .xor d a b | .andn d a b | .sll d a b | .srl d a b | .sra d a b
  | .rot d a b | .slt d a b | .sltn d a b | .min d a b | .max d a b | .minn d a b | .maxn d a b
  | .mul d a b | .mulh d a b | .mulhn d a b | .div d a b | .divn d a b | .rem d a b | .remn d a b => .gg [a, b] d
  | .clz d a | .ctz d a | .popc d a | .brev d a | .sextB d a | .sextH d a | .sextW d a | .zextB d a | .zextH d a
  | .zextW d a => .gg [a] d
  | .addi d a _ | .andi d a _ | .ori d a _ | .xori d a _ | .slli d a _ | .srli d a _ | .srai d a _ | .roti d a _
  | .slti d a _ | .sltni d a _ => .gg [a] d
  | .lih d _ _ => .gg [] d
  | .lihK d _ _ => .gg [d] d
  | .beq d a _ | .bne d a _ | .blt d a _ | .bge d a _ | .bltn d a _ | .bgen d a _ => { g := [d, a] }
  | .jmp d _ => .gg [] d
  | .jr d a _ => .gg [a] d
  | .lp a _ => { g := [a] }
  | .lpImmediate _ _ => {}
  | .ld d b _ _ _ | .ldq d b _ _ _ _ => .gg [b] d
  | .ldIndexed d b _ _ x => .gg [b, x] d
  | .st t b _ _ | .stq t b _ _ _ => { g := [t, b] }
  | .stIndexed t b _ x => { g := [t, b, x] }
  | .atom d b _ _ _ x => .gg [b, x] d
  | .cas d b _ _ x => .gg [b, x, d] d
  | .pref _ _ _ | .fence _ _ | .fencex _ _ _ | .bar _ | .bard _ _ => {}
  | .bara _ d => .gg [] d
  | .barw _ a => { g := [a] }
  | .sigadd d a _ | .sigwait d a _ | .sigarmWake d a _ | .snowpub d a _ => { g := [d, a] }
  | .sigarmPost d a b _ | .sigarmLaunch d a b _ => { g := [d, a, b] }
  | .bxq a => { g := [a, a + 1, a + 2, a + 3] }
  | .bxqS d a => .gg [a, a + 1, a + 2, a + 3] d
  | .wid d | .lvl d _ | .lvln d _ | .phys d _ => .gg [] d
  | .crd d _ => .gg [] d
  | .cwr a x => { g := [a], cfg := decide (x.toNat = 1 ∨ x.toNat = 2) }
  | .cxg d a x => { g := [a], gw := [d], cfg := decide (x.toNat = 1 ∨ x.toNat = 2) }
  | .sysc _ | .brk _ | .migh _ | .unassignedEncoding _ | .hint _ => {}
  | .fadd d a b _ | .fsub d a b _ | .fmul d a b _ | .fdiv d a b _ | .fmin d a b _ | .fmax d a b _ | .fcmp d a b _ _ => .gg [a, b] d
  | .fsqrt d a _ | .fclass d a _ | .fcvt d a _ _ | .fcvtFromInt d a _ _ => .gg [a] d
  | .fsgn d a b g _ => .gg (if g = 3 then [a] else [a, b]) d
  | .fma d a b c _ | .fms d a b c _ => .gg [a, b, c] d
  | .vadd d a b p _ | .vsub d a b p _ | .vmul d a b p _ | .vmulh d a b p _ | .vmulhn d a b p _ | .vmin d a b p _
  | .vmax d a b p _ | .vminn d a b p _ | .vmaxn d a b p _ | .vand d a b p _ | .vor d a b p _ | .vxor d a b p _
  | .vsll d a b p _ | .vsrl d a b p _ | .vsra d a b p _ | .vsadd d a b p _ | .vssub d a b p _ | .vsaddn d a b p _
  | .vssubn d a b p _ | .vfadd d a b p _ | .vfsub d a b p _ | .vfmul d a b p _ | .vfmin d a b p _ | .vfmax d a b p _
  | .vfdiv d a b p _ | .vdiv d a b p _ | .vdivn d a b p _ | .vrem d a b p _ | .vremn d a b p _ => .ew [a, b] p d
  | .vmacc d a b p _ | .vfma d a b p _ | .vfnma d a b p _ => .ew [a, b, d] p d
  | .vabs d a p _ | .vclz d a p _ | .vpopc d a p _ | .vfabs d a p _ | .vfneg d a p _ | .vmov d a p _
  | .vfsqrt d a p _ | .vfexp2 d a p _ | .vflog2 d a p _ | .vftanh d a p _ => .ew [a] p d
  | .vcmp _ q a b p _ | .vfcmp _ q a b p _ => { v := [a, b], lanes := [a, b], p := [p], gov := p, pw := [q] }
  | .vsel d a b p => { v := [a, b], p := [p], gov := p, vw := [d] }
  | .plog _ q a b p _ => { p := [a, b, p], gov := p, pw := [q] }
  | .pcnt d a p => { p := [a, p], gov := p, gw := [d] }
  | .bpany _ p | .bpnone _ p => { p := [p], gov := p }
  | .vcvtTo d a _ t p _ => { v := [a], lanes := [a], p := [p], gov := p, vw := typeGroup w t d ++ typeScaleReg t d }
  | .vcvtFrom d a _ t p _ =>
    { v := typeGroup w t a ++ typeScaleReg t a, p := [p], gov := p, vw := [d] }
  | .vidx d p _ => { p := [p], gov := p, vw := [d] }
  | .vext d a x => { g := [x], v := [a], gw := [d] }
  | .vld d b p _ _ | .vldf d b p _ _ =>
    { g := [b], p := [p], gov := p, vw := [d], cfg := match i with
      | .vldf .. => true
      | _ => false }
  | .vst x b p _ _ => { g := [b], v := [x], lanes := [x], p := [p], gov := p }
  | .vlds d b r p _ _ => { g := [b, r], p := [p], gov := p, vw := [d] }
  | .vsts x b r p _ _ => { g := [b, r], v := [x], lanes := [x], p := [p], gov := p }
  | .vaddScalar d a g p _ m | .vsubScalar d a g p _ m | .vmulScalar d a g p _ m | .vminScalar d a g p _ m
  | .vmaxScalar d a g p _ m | .vminnScalar d a g p _ m | .vmaxnScalar d a g p _ m | .vandScalar d a g p _ m
  | .vorScalar d a g p _ m | .vxorScalar d a g p _ m | .vsllScalar d a g p _ m | .vsrlScalar d a g p _ m
  | .vsraScalar d a g p _ m => { Uses.ew [a] p d with g := if m = 0 then [g] else [] }
  | .vfaddScalar d a g p _ | .vfmulScalar d a g p _ => { Uses.ew [a] p d with g := [g] }
  | .vbcast d g p _ m => { g := if m = 0 then [g] else [], p := [p], gov := p, vw := [d] }
  | .vconf d g m => { g := if m = 0 then [g] else [], gw := [d], cfg := true }
  | .vloop g => { g := [g], gw := [g], p := [4, 5, 6], pw := [4, 5, 6, 7], cfg := true }
  | .vrget d g => { g := [g], vw := [d] }
  | .vrput x g => { g := [g], v := [x], whole := [x] }
  | .vrng d g p _ => { g := [g], p := [p], gov := p, vw := [d] }
  | .vxch d a _ p _ | .vpermBr d a p _ | .vcompact d a p _ | .vexpand d a p _ => .perm [a] p d
  | .vpermIx d a b p _ => .perm [a, b] p d
  | .vslideUp d a n p _ | .vslideDn d a n p _ => { Uses.perm [a] p d with g := [n] }
  | .vscan d a _ _ p _ | .vred d a _ p _ => .ew [a] p d
  | .vgath d b x p _ _ => { g := [b], v := [x], lanes := [x], p := [p], gov := p, vw := [d] }
  | .vscat y b x p _ _ | .vscadd y b x p _ _ => { g := [b], v := [y, x], lanes := [y, x], p := [p], gov := p }
  | .vrdst y b t p _ => { g := [b, t], v := [y], lanes := [y], p := [p], gov := p }
  | .vldseg d b _ p _ => { g := [b], p := [p], gov := p, vw := [d, d + 1] }
  | .vstseg y b _ p _ => { g := [b], v := [y, y + 1], p := [p], gov := p }
  | .tmma _ _ a b | .tmmas _ _ a b => { g := [a, b] }
  | .tmmagM _ _ a b x | .tmmagK _ _ a b x => { g := [a, b], v := [x] }
  | .tload _ a b x | .tstore _ a b x => { g := [a, b, x] }
  | .tzero _ _ => {}
  | .tacc _ _ a b => { g := [a, b] }
  | .tadda _ _ a => { g := [a] }
  | .tcmp _ a b | .tdec _ a b | .ttrn _ a b => { g := [a, b] }
  | .xsend _ g _ => { g := [g] }
  | .xslot _ g => .gg [] g
  | .xrecv _ _ | .xwait _ _ | .xrecvS _ _ => {}
  | .tlbinvP a => { g := [a] }
  | .tlbinvPv a b | .ctxsave a b | .ctxload a b | .migr a b | .ipi a b => { g := [a, b] }
  | _ => {}

/-- Register codes for convoy membership (R31): g r, v 64 + n, p 128 + n, and 140 for `vcount`, `vform` and `vrot`; a
destination g0 or p0 counts as written (log 21). -/
def Uses.readCodes (u : Uses) : List Nat :=
  u.g.map (·.toNat) ++ u.v.map (64 + ·.toNat) ++ u.p.map (128 + ·.toNat) ++ [140]
def Uses.writeCodes (u : Uses) : List Nat :=
  u.gw.map (·.toNat) ++ u.vw.map (64 + ·.toNat) ++ u.pw.map (128 + ·.toNat) ++ (if u.cfg then [140] else [])

/-- 64-bit words of a register that hold bits of the lanes that f selects. -/
def laneWords (w : Nat) (lanes : List Nat) : List Nat :=
  lanes.map fun i => i * w / 64

/-- The trap of a poisoned register word (R345). -/
def poisonedWord (reg word : Nat) : Trouble :=
  .trap 0x0A (BitVec.ofNat 64 (reg + 64 * word)) 0

/-- The first poisoned word of vn among some words. -/
def State.vPoison (s : State) (n : BitVec 6) (words : List Nat) : Option Trouble :=
  let marks := s.th.poison.v[physV s.th.arch.vrot n]
  if marks = 0 then none else (words.find? fun j => marks.getLsbD j).map fun j => poisonedWord n.toNat j

/-- The poison-consumed trap of the registers an instruction reads, if any is poisoned (R345). -/
def State.usesPoison (s : State) (u : Uses) : Option Trouble :=
  match u.g.find? fun r => r ≠ 0 && s.th.poison.g.getLsbD r.toNat with
  | some r => some (poisonedWord r.toNat 0)
  | none =>
    match u.p.find? fun r => r ≠ 0 && s.th.poison.p.getLsbD r.toNat with
    | some r => some (poisonedWord r.toNat 0)
    | none =>
      if u.v.isEmpty then none
      else
        match u.lanes.findSome? fun n => s.vPoison n (laneWords s.w (s.lanes.filter fun i => s.active u.gov i)) with
        | some t => some t
        | none => u.whole.findSome? fun n => s.vPoison n (laneWords s.w s.lanes)

end Sys2Proof.Machine
end

