-- ==== Sys2Proof/Machine/Access.lean ====
section
/-! DEFINITION. Accesses to memory: a thread's path-C reads and writes with their checks (R104, R299, R344, R400), the
reads and writes of the device on behalf of a device context, and what every write that performs does to poison, to
dirty sectors and to slice watchpoints (R344, R407). -/

namespace Sys2Proof.Machine

/-! ### Whose access it is -/

/-- A thread's névé window: base address, bytes and first cell (R90). -/
def State.windowOf (s : State) (t : Thread) : Option (Nat × Nat × Nat) :=
  match s.launchOf? t.handle with
  | some l => if l.info.neve = 0 then none else some (l.info.nwin.toNat, l.info.neve, windowBase + t.handle.toNat * windowStep)
  | none => none

/-- An access of the current thread at its level. -/
def State.coreAccess (s : State) (r w : Bool) : Access :=
  { read := r, write := w, fetch := false, sup := s.th.sup.level, window := s.windowOf s.th, refused := s.th.refused.map (·.toNat), device := false }

/-- An access of an engine, an armed action or the command processor: checked as user accesses are (R299). -/
def deviceAccess (r w : Bool) : Access := { read := r, write := w, fetch := false, sup := false, window := none }

/-! ### Precise watchpoints (R400) -/

/-- The first byte of [a, a + n) that precise watchpoint k of a thread watches for this kind of access. -/
def Dbg.watchByte (d : Dbg) (k : Fin 2) (a : BitVec 64) (n : Nat) (r w : Bool) : Option Nat :=
  let c := d.dwc[k]
  let size := 2 ^ (c.extractLsb' 0 5).toNat
  let base := d.dwa[k].toNat / size * size
  let lo := (a.extractLsb' 0 56).toNat
  if d.dctl.getLsbD (4 + k) && ((r && c.getLsbD 5) || (w && c.getLsbD 6)) && decide (lo < base + size) && decide (base < lo + n)
  then some (base - lo) else none

/-- The lowest precise watchpoint that an access matches, and the first matching byte's address. -/
def Dbg.watch (d : Dbg) (a : BitVec 64) (n : Nat) (r w : Bool) : Option (Nat × BitVec 64) :=
  if d.dctl.extractLsb' 4 2 = 0 then none else
  match d.watchByte 0 a n r w with
  | some o => some (0, a + BitVec.ofNat 64 o)
  | none => (d.watchByte 1 a n r w).map fun o => (1, a + BitVec.ofNat 64 o)

/-- Whether comparators act at the thread's level (R396, R398, R400). -/
def Thread.debugActs (t : Thread) : Bool := !t.sup.level || t.dbg.dctl.getLsbD 10

/-- Whether the present unit is exempt by skip (R399). -/
def Thread.exempt (t : Thread) : Bool := !t.sup.level && t.dbg.dctl.getLsbD 7

/-! ### Lines and their agents (R369, R372) -/

/-- What an agent holds of a line. -/
def Fabric.agentLine (f : Fabric) (l : Nat) (a : AgentId) : Option AgentLine :=
  f.agents.find? fun x => decide (x.line = l) && decide (x.agent = a)

/-- An agent's state for a line. -/
def Fabric.agentState (f : Fabric) (l : Nat) (a : AgentId) : AgentState := ((f.agentLine l a).map fun x => x.state).getD .i

/-- Lines of device memory that an access of the cached or stream type touches (R300). -/
def Span.lines (sp : Span) : List Nat :=
  if hostBase ≤ sp.key ∨ sp.len = 0 ∨ 2 ≤ leafMt sp.leaf then []
  else (List.range ((sp.key + sp.len - 1) / 192 - sp.key / 192 + 1)).map (· + sp.key / 192)

/-- Notes an agent's access, which may need a request to the home. -/
def State.touch (s : State) (a : AgentId) (write : Bool) (who : Option Handle) (sp : List Span) : State :=
  { s with touched := s.touched ++ (sp.flatMap Span.lines).map fun l => { agent := a, line := l, write := write, who := who } }

/-- The agent of a thread's accesses: its die. -/
def Thread.agent (t : Thread) : AgentId := BitVec.ofNat 4 (coreDie t.core.toNat)

/-- Whether another agent holds a line or has asked for it. -/
def Fabric.contested (f : Fabric) (l : Nat) (a : AgentId) : Bool :=
  (f.agents.any fun x => decide (x.line = l) && decide (x.agent ≠ a)) || f.asks.any fun x => decide (x.line = l) && decide (x.agent ≠ a)

/-- The first line of a store of the current thread that its die may not write yet, since another holds it or has asked for it: the store
performs when the home has given the line (R372, R373). -/
def State.missingLine (s : State) (sp : List Span) : Option Nat :=
  if s.fab.agents.isEmpty && s.fab.asks.isEmpty then none
  else (sp.flatMap Span.lines).find? fun l =>
    (match s.fab.agentState l s.th.agent with
      | .m | .e => false
      | _ => true) && s.fab.contested l s.th.agent

/-! ### Writes that perform -/

/-- Who writes: the class and identifier of R407, the thread, whether a precise watchpoint matched as well, and the number of
a block-transfer request. -/
structure Writer where
  cls    : Nat
  ident  : BitVec 32
  handle : Handle
  dup    : Bool
  request : Nat := 0
  /-- step of the issue of its instruction, where that is an earlier one -/
  since  : Option Nat := none
  /-- user-level instructions that its thread has retired since that instruction (R409) -/
  after  : Nat := 0

/-- A store of the current thread (class 1). -/
def State.coreWriter (s : State) (dup : Bool) : Writer :=
  { cls := 1, ident := BitVec.ofNat 32 (s.th.core.toNat + 8192 * s.th.slot), handle := s.th.handle, dup := dup }

/-- Bytes of sector q that [k, k + n) covers, as a mask. -/
def sectorMask (q k n : Nat) : BitVec 48 :=
  BitVec.ofNat 48 (((List.range 48).filter fun b => decide (k ≤ q * 48 + b) && decide (q * 48 + b < k + n)).foldl
    (fun a b => a + 2 ^ b) 0)

/-- A slice watchpoint record (R407). -/
def watchRecord (wr : Writer) (k : Nat) (hit : BitVec 48) (time : Nat) : List (BitVec 8) :=
  [0xB0, if wr.dup then 0x11 else 0x01, BitVec.ofNat 8 wr.cls, BitVec.ofNat 8 k] ++ leBytes 4 wr.ident.toNat ++
  leBytes 4 (if wr.cls ≤ 3 ∨ wr.cls = 7 then wr.handle.toNat else 0) ++ leBytes 4 0 ++ leBytes 6 hit.toNat ++ leBytes 2 0 ++
  leBytes 8 time

/-- Reports a write of [k, k + n) to slice watchpoint j of a device context, when it is installed there and a watched
byte is written (R407); the times of the reports rise (R408, log 134); with stop set, a store of a thread of
that device context is to stop (R409). -/
def State.watchSlot (s : State) (wr : Writer) (k n : Nat) (d : Dctx) (j : Fin 4) : State :=
  match d.dsSector[j] with
  | none => s
  | some q =>
    let hit := sectorMask q k n &&& d.dsm[j].extractLsb' 0 48
    if hit = 0 ∨ (wr.cls = 5 ∧ !d.dsm[j].getLsbD 49) then s
    else
      let time := max s.cyc (s.mod.watchTime + 1)
      let s1 := { s with mod := { s.mod with watchTime := time }, outbox := s.outbox ++ [.watch d.id (watchRecord wr j hit time) time] }
      if wr.cls = 1 ∧ d.dsm[j].getLsbD 50 ∧ handleDctx wr.handle = d.id then
        s1.modThread wr.handle fun t =>
          if t.sliceStop.isSome then t else { t with sliceStop := some (BitVec.ofNat 2 j, d.dsa[j], wr.after) }
      else s1

/-- Whether the cells from k on lie in the window of a thread that is on its tensor core: no write of theirs reaches a slice (R90). -/
def State.inNeve (s : State) (k : Nat) : Bool :=
  decide (windowBase ≤ k) && (s.thread? (BitVec.ofNat 32 ((k - windowBase) / windowStep))).any fun t =>
    decide (t.place = .resident) && decide (t.cls = .tensor)

def State.watchWrites (s : State) (wr : Writer) (k n : Nat) : State :=
  if s.inNeve k then s else s.dctxs.foldl (fun s d => if d.dsSector.all Option.isNone then s else
    ([0, 1, 2, 3] : List (Fin 4)).foldl (fun s j => s.watchSlot wr k n d j) s) s

/-- The path of a writer class (R100). -/
def writerPath (cls : Nat) : Nat :=
  match cls with
  | 2 => 1 | 3 | 4 => 2 | 7 => 3 | _ => 0

/-- Whether every reader sees a write by now (R51). -/
def OldByte.faded (e : OldByte) (now : Nat) : Bool := decide (e.made + Config.fade e.made ≤ now)

/-- Whether a write to a byte, or a later one to it, is one that every reader sees: nobody can see what it replaced. -/
def State.settled (s : State) (e : OldByte) : Bool :=
  s.hist.any fun x => decide (x.key = e.key) && decide (e.made ≤ x.made) && x.faded s.tick

/-- Remembers the bytes that a write replaces, for the readers that may not have seen it yet. -/
def State.noteWrite (s : State) (wr : Writer) (stream : Bool) (k : Nat) (olds : List (BitVec 8)) : State :=
  { s with hist := (s.hist.filter fun e => !s.settled e) ++ ((List.range olds.length).zip olds).map fun (i, b) =>
    { key := k + i, old := b, path := writerPath wr.cls, writer := if wr.cls = 4 ∨ wr.cls = 6 then none else some wr.handle
      made := s.tick, issued := wr.since.getD s.tick, stream := stream, fenced := false, request := wr.request, received := false, seenC := [], seenB := []
      allC := false, allB := false } }

/-- Marks the névé sectors of a write at k dirty (R235), for the thread whose window holds it, on its tensor core. -/
def State.markDirty (s : State) (k n : Nat) : State :=
  if k < windowBase then s
  else s.modThread (BitVec.ofNat 32 ((k - windowBase) / windowStep)) fun t =>
    if t.place ≠ .resident ∨ t.cls ≠ .tensor then t else
    { t with neveBack := false, neveDirty := (sectorsOf ((k - windowBase) % windowStep) n).foldl (fun l q => insertNat q l) t.neveDirty }

/-- The agent at which a write of a class performs: the storing core's die, the engine's, the home's, or the host (R369, R407). -/
def State.writerAgent (s : State) (wr : Writer) (k : Nat) : Option AgentId :=
  match wr.cls with
  | 1 => some (BitVec.ofNat 4 (coreDie (wr.ident.toNat % 8192)))
  | 2 => some (BitVec.ofNat 4 (wr.ident.toNat / 256 % 256))
  | 3 | 4 => (s.homeDie k).map (BitVec.ofNat 4)
  | 6 => some 9
  | _ => none

/-- Notes that agent's write. -/
def State.touchBy (s : State) (wr : Writer) (sp : Span) : State :=
  match s.writerAgent wr sp.key with
  | some a => s.touch a true (some wr.handle) [sp]
  | none => s

/-- One write that performs: cells, poison cleared where a whole sector is covered (R344), and its reports. -/
def State.putSpan (s : State) (wr : Writer) (sp : Span) (bs : List (BitVec 8)) : State :=
  let olds := readCells s.mem sp.key bs.length
  let whole := sectorsWithin sp.key bs.length
  let s1 := { s with
    mem := writeCells s.mem sp.key bs
    frames := noteValues s.frames sp.key bs
    poison := if s.poison.isEmpty then [] else s.poison.filter fun q => !whole.contains q }
  let s2 := s1.noteWrite wr (decide (leafMt sp.leaf = 1)) sp.key olds
  ((s2.markDirty sp.key bs.length).watchWrites wr sp.key bs.length).touchBy wr sp

/-- Writes bytes over the spans of one access. -/
def State.put (s : State) (wr : Writer) : List Span → List (BitVec 8) → State
  | [], _ => s
  | sp :: t, bs => (s.putSpan wr sp (bs.take sp.len)).put wr t (bs.drop sp.len)

/-! ### Path-C accesses of the current thread -/

/-- Whether an instruction is a TLOAD or TSTORE. -/
def isTransfer (i : Instr) : Bool :=
  match i with
  | .tload .. | .tstore .. => true
  | _ => false

/-- Whether a running T instruction of the thread still writes bytes of an access, or still reads in memory bytes that the access
writes (R92, R234). -/
def Thread.tileWrites (t : Thread) (sp : List Span) (w : Bool) : Bool :=
  let meets (k n : Nat) : Bool := sp.any fun x => decide (x.key < k + n) && decide (k < x.key + x.len)
  t.runs.any fun r =>
    (r.writes.any fun (k, n) => meets k n) ||
    ((w || (match r.instr with
      | .tstore .. => true
      | _ => false)) && ((r.ahead.getD []).any fun row => row.any fun (k, n, _) => meets k n))

/-- Translation of an access of the current thread, then its watchpoints, then poison of what it reads
(log 33: in this order); an access waits for a running T instruction that writes its bytes (R234). -/
def State.checkAccess (s : State) (a : BitVec 64) (n : Nat) (r w watched : Bool) (nth : Nat := 0) : Except Trouble (List Span) :=
  match s.myDctx with
  | none => .error .noContext
  | some d =>
    match s.translate d { s.coreAccess r w with nth := nth } a n with
    | .error e => .error e
    | .ok sp =>
      if s.th.tileWrites sp w then .error (.wait .unit) else
      let hit := if watched && s.th.debugActs && !s.th.exempt then s.th.dbg.watch a n r w else none
      match hit with
      | some (k, b) => .error (.trap 0x0C (BitVec.ofNat 64 k) b)
      | none =>
        match (if r then spanPoison s.poison sp 0 else none) with
        | some o => .error (.trap 0x0A 0 (sectorAddress (a + BitVec.ofNat 64 o)))
        | none => .ok sp

/-- A path-C access of the current thread: its checks, and for a write the wait for its line (R373, log 142). -/
def State.checkC (s : State) (a : BitVec 64) (n : Nat) (r w watched : Bool) (nth : Nat := 0) : Except Trouble (List Span) :=
  match s.checkAccess a n r w watched nth with
  | .error e => .error e
  | .ok sp =>
    match (if w then s.missingLine sp else none) with
    | some l => .error (.wait (.home l))
    | none => .ok sp

/-! ### What a reader sees (R92, R98, R102, R103, R118) -/

/-- Who reads: a thread by path C, or by instruction fetch; an engine for a request of a thread. -/
inductive Reader where
  | data | fetch
  | engine (request : Nat)
  deriving DecidableEq

/-- A cell of an access, and whether it is reached through a leaf of the stream type. -/
abbrev ByteAt := Nat × Bool

/-- The bytes of an access in order. -/
def accessBytes (sp : List Span) : List ByteAt := sp.flatMap fun x => (List.range x.len).map fun i => (x.key + i, decide (leafMt x.leaf = 1))

/-- Whether a write is sure to be before a read of a thread h: path C's own order, a fence, a report or an earlier read. -/
def OldByte.reached (e : OldByte) (h : Handle) (r : Reader) (stream : Bool) (now : Nat) : Bool :=
  let own := decide (e.writer = some h)
  e.faded now ||
  (match r with
   | .data => e.allC || e.seenC.contains h || (decide (e.path = 0) && !(own && decide (e.stream ≠ stream) && !e.fenced))
   -- a word that the thread itself has written is fetched for sure only after a FENCE.sl (R118)
   | .fetch => if own && decide (e.path = 0) then e.fenced else e.allC || e.seenC.contains h || decide (e.path = 0)
   | .engine q =>
     e.allB || e.seenB.contains h || (decide (e.path = 0) && own && decide (e.issued < q)) || (decide (e.path = 1) && decide (e.request = q)))

/-- The writes to a byte that a reader may not see, oldest first: those after the last one that is sure to be before. -/
def State.behind (s : State) (h : Handle) (r : Reader) (b : ByteAt) : List OldByte :=
  (((s.hist.filter fun e => decide (e.key = b.1)).reverse).takeWhile fun e => !e.reached h r b.2 s.tick).reverse

/-- The step from whose writes on a read of one unit sees nothing, none where it sees every write: the n-th free choice. -/
def State.cutOf (s : State) (h : Handle) (r : Reader) (n : Nat) (unit : List ByteAt) : Option Nat :=
  let times := (unit.flatMap fun b => (s.behind h r b).map (·.made)).foldl (fun l x => insertNat x l) []
  times[Config.which s.tick n % (times.length + 1)]?

/-- A byte as a reader sees it under a cut. -/
def State.seenByte (s : State) (h : Handle) (r : Reader) (cut : Option Nat) (b : ByteAt) (now : BitVec 8) : BitVec 8 :=
  match cut with
  | none => now
  | some c => ((((s.behind h r b).find? fun e => decide (c ≤ e.made))).map (·.old)).getD now

/-- The bytes of an access as a reader sees them, unit by unit: units are given by their lengths, and n numbers the first
byte's choice. -/
def State.seenUnits (s : State) (h : Handle) (r : Reader) : List Nat → Nat → List ByteAt → List (BitVec 8) → List (BitVec 8)
  | [], _, _, now => now
  | u :: us, n, bs, now =>
    let cut := s.cutOf h r n (bs.take u)
    ((bs.take u).zip (now.take u)).map (fun (b, x) => s.seenByte h r cut b x) ++
      s.seenUnits h r us (n + u) (bs.drop u) (now.drop u)

/-- A reader has seen a write. -/
def OldByte.seenBy (e : OldByte) (h : Handle) (r : Reader) : OldByte :=
  match r with
  | .engine _ => if e.seenB.contains h then e else { e with seenB := e.seenB ++ [h] }
  | _ => if e.seenC.contains h then e else { e with seenC := e.seenC ++ [h] }

/-- A reader has seen the writes to a unit up to a cut. -/
def State.saw (s : State) (h : Handle) (r : Reader) (cut : Option Nat) (unit : List ByteAt) : State :=
  { s with hist := s.hist.map fun e =>
    if (unit.any fun b => decide (b.1 = e.key)) && (cut.all fun c => decide (e.made < c)) then e.seenBy h r else e }

/-- A reader has read an access unit by unit. -/
def State.sawUnits (s : State) (h : Handle) (r : Reader) : List Nat → Nat → List ByteAt → State
  | [], _, _ => s
  | u :: us, n, bs => (s.sawUnits h r us (n + u) (bs.drop u)).saw h r (s.cutOf h r n (bs.take u)) (bs.take u)

/-- A thread that reads a completion report by path C learns of it (R101). -/
def State.learn (s : State) (sp : List Span) : State :=
  if s.reports.isEmpty then s
  else
    let new := (s.reports.filter fun x => sp.any fun y => decide (y.key < x.key + x.len) && decide (x.key < y.key + y.len)).map (·.request)
    { s with th := { s.th with told := (s.th.told.filter fun q => s.hist.any fun e => decide (e.request = q)) ++ new } }

/-- The current thread has seen an access's bytes as they stand: the read of an RMW (R92). -/
def State.observe (s : State) (sp : List Span) : State :=
  let s := s.touch s.th.agent true (some s.th.handle) sp
  if s.hist.isEmpty then s else (s.saw s.th.handle .data none (accessBytes sp)).learn sp

/-- What is left of an entry once some threads are gone. -/
def OldByte.forget (e : OldByte) (gone : Handle → Bool) : OldByte :=
  { e with
    writer := e.writer.filter fun h => !gone h, seenC := e.seenC.filter fun h => !gone h, seenB := e.seenB.filter fun h => !gone h }

/-- Whether an entry is a write of one of some threads. -/
def OldByte.writtenBy (e : OldByte) (mine : Handle → Bool) : Bool := e.writer.any mine

/-- What a launch has written is before whatever acquires its completion (R320): every path-C read that follows the posting sees it. -/
def State.published (s : State) (mine : Handle → Bool) : State :=
  { s with hist := s.hist.map fun e => if e.writtenBy mine then { e with allC := true } else e }

/-- How an access is cut into single-copy atomic units (R103). -/
inductive Units where
  /-- an aligned access of up to 8 bytes whole; of a longer one each aligned 8 bytes; any other byte alone -/
  | natural
  /-- a segment -/
  | whole
  /-- physical sectors of 48 bytes -/
  | sectors
  deriving DecidableEq

/-- Lengths of the pieces of [o, o + n) at the multiples of m; with single, what is no whole piece goes byte by byte. -/
def pieces (m : Nat) (single : Bool) (o n : Nat) : List Nat :=
  let head := min n ((m - o % m) % m)
  let rest := n - head
  let edge (k : Nat) : List Nat := if single then List.replicate k 1 else if k = 0 then [] else [k]
  edge head ++ List.replicate (rest / m) m ++ edge (rest % m)

/-- Units of a read of n bytes at an address over its spans. -/
def Units.lengths (u : Units) (a : BitVec 64) (n : Nat) (sp : List Span) : List Nat :=
  match u with
  | .natural => if n ≤ 8 then (if a.toNat % n = 0 then [n] else List.replicate n 1) else pieces 8 true a.toNat n
  | .whole => [n]
  | .sectors => sp.flatMap fun x => pieces 48 false x.key x.len

/-- The value of a path-C read of n bytes over its spans. -/
def State.unitsValue (s : State) (u : Units) (a : BitVec 64) (n : Nat) (sp : List Span) : Nat :=
  if s.hist.isEmpty then leNat (s.spanBytes sp)
  else leNat (s.seenUnits s.th.handle .data (u.lengths a n sp) a.toNat (accessBytes sp) (s.spanBytes sp))

/-- A path-C read of n bytes in units of a kind: value, through every check. -/
def State.readUnits (s : State) (u : Units) (a : BitVec 64) (n : Nat) (watched : Bool) (nth : Nat := 0) : Except Trouble (Nat × List Span) :=
  match s.checkC a n true false watched nth with
  | .error e => .error e
  | .ok sp => .ok (s.unitsValue u a n sp, sp)

/-- The state after a path-C read of n bytes in units of a kind. -/
def State.afterUnits (s : State) (u : Units) (a : BitVec 64) (n : Nat) (sp : List Span) : State :=
  let s := s.touch s.th.agent false none sp
  if s.hist.isEmpty then s else (s.sawUnits s.th.handle .data (u.lengths a n sp) a.toNat (accessBytes sp)).learn sp

/-- A path-C read of n bytes, and the state after it. -/
def State.readC (s : State) (a : BitVec 64) (n : Nat) (watched : Bool) : Except Trouble (Nat × List Span) := s.readUnits .natural a n watched
def State.afterRead (s : State) (a : BitVec 64) (n : Nat) (sp : List Span) : State := s.afterUnits .natural a n sp

/-- A store of the current thread over checked spans; that of an RMW matches a precise watchpoint under ld too (R400, R408). -/
def State.storeSpans (s : State) (a : BitVec 64) (sp : List Span) (bs : List (BitVec 8)) (rmw : Bool := false) : State :=
  s.put (s.coreWriter (s.th.debugActs && (s.th.dbg.watch a bs.length rmw true).isSome)) sp bs

/-- A path-C write of n bytes of x. -/
def State.writeC (s : State) (a : BitVec 64) (n : Nat) (x : Nat) (watched : Bool) : Except Trouble State :=
  match s.checkC a n false true watched with
  | .error e => .error e
  | .ok sp => .ok (s.storeSpans a sp (leBytes n x))

/-! ### Accesses of the device on behalf of a device context -/

/-- Whether a thread waits for a page of the host. -/
def Thread.waitsFor (t : Thread) (page : BitVec 64) : Bool :=
  match t.wait with
  | some { kind := .page va .., .. } => decide (va.toNat / 4096 = page.toNat)
  | _ => false

/-- Threads and engines of a device context that wait for a page. -/
def State.pageUsers (s : State) (dc : DctxId) (page : BitVec 64) : Nat :=
  (s.threads.filter fun t => decide (handleDctx t.handle = dc) && t.waitsFor page).length +
    (s.threads.filter fun t => decide (handleDctx t.handle = dc) &&
      t.bxq.any fun x => !x.refused && x.waitPage.any fun a => decide (a.toNat / 4096 = page.toNat)).length

/-- Page requests that a partition holds at once (R304). -/
def requestRoom : Nat := 512

/-- Whether the host has a page request before it: the others wait for a slot in the order of their arrival (R304). -/
def State.outstanding (s : State) (d : Dctx) (q : PageRequest) : Bool :=
  q.pri && !q.failed &&
  decide ((((s.dctxs.filter fun x => decide (x.part = d.part)).flatMap (·.pages)).filter fun x =>
    x.pri && !x.failed && decide (x.asked < q.asked)).length < requestRoom)

/-- A number above those of every page request made so far. -/
def State.nextAsked (s : State) : Nat := s.dctxs.foldl (fun n d => d.pages.foldl (fun n q => max n (q.asked + 1)) n) 0

/-- Asks the host about a page, once: for its translation, or, where the module holds one with too few permissions, for the page
(R303, R304). -/
def State.askHost (s : State) (dc : DctxId) (a : BitVec 64) (write fetch device : Bool) : State :=
  s.modDctx dc fun d =>
    if d.pages.any fun q => decide (q.page.toNat = a.toNat / 4096) && !q.failed then
      { d with pages := d.pages.map fun q => if q.page.toNat = a.toNat / 4096 ∧ !q.failed then { q with device := q.device || device } else q }
    else
      { d with pages := d.pages ++
        [{ page := BitVec.ofNat 64 (a.toNat / 4096), pri := (s.hostPage? d (a.toNat / 4096)).isSome, asked := s.nextAsked, device := device
           write := write, fetch := fetch, failed := false }] }

/-- A thread, or a thread's engine, asks; and a unit of the device asks. -/
def State.askFor (s : State) (dc : DctxId) (a : BitVec 64) (write fetch : Bool) : State := s.askHost dc a write fetch false
def State.askPage (s : State) (dc : DctxId) (a : BitVec 64) (write fetch : Bool) : State := s.askHost dc a write fetch true

/-- The access of the device whose page request has been answered negatively has failed: the request is over. -/
def Dctx.dropPage (d : Dctx) (a : BitVec 64) : Dctx :=
  { d with pages := d.pages.filter fun q => !(q.failed && decide (q.page.toNat = a.toNat / 4096)) }

/-- A thread of a device context, and its engine, are told that the host has refused a page that they wait for: their accesses fail. -/
def Thread.refusePage (t : Thread) (dc : DctxId) (page : BitVec 64) : Thread :=
  if handleDctx t.handle ≠ dc then t
  else
    { t with
      refused := if t.waitsFor page then some page else t.refused
      bxq := t.bxq.map fun x => if x.waitPage.any fun a => decide (a.toNat / 4096 = page.toNat) then { x with refused := true } else x }

/-- The host will not give a page: every access that waits for it fails, and no other (R304). The request is over, but for an access of
the device. -/
def State.refusePage (s : State) (dc : DctxId) (page : BitVec 64) : State :=
  (s.mapThreads fun t => t.refusePage dc page).modDctx dc fun d => { d with
    pages := (d.pages.filter fun q => !(decide (q.page = page) && !q.failed && !q.device)).map fun q =>
      if q.page = page then { q with failed := true } else q }

/-- A request that nobody waits for any more is over (R310). -/
def State.releasePage (s : State) (dc : DctxId) (page : BitVec 64) : State :=
  if s.pageUsers dc page ≠ 0 then s
  else s.modDctx dc fun d => { d with pages := d.pages.filter fun q => !(decide (q.page = page) && !q.device) }

/-- A device read through a device context: bytes, or why not; poison is consumed as reason 0x33 (R161, R435). -/
def State.deviceRead (s : State) (d : Dctx) (a : BitVec 64) (n : Nat) : Except Trouble (List (BitVec 8) × List Span) :=
  match s.translate d (deviceAccess true false) a n with
  | .error e => .error e
  | .ok sp =>
    match spanPoison s.poison sp 0 with
    | some o => .error (.fail 0x33 (a + BitVec.ofNat 64 o) false false false)
    | none => .ok (s.spanBytes sp, sp)

/-- Spans of a device write, checked. -/
def State.deviceSpans (s : State) (d : Dctx) (a : BitVec 64) (n : Nat) (r : Bool) : Except Trouble (List Span) :=
  s.translate d (deviceAccess r true) a n

/-- A device write over checked spans; the device's own postings are no class of R407 and are not reported, and every path sees
them (R100). -/
def State.devicePut (s : State) : List Span → List (BitVec 8) → State
  | [], _ => s
  | sp :: t, bs =>
    let b := bs.take sp.len
    let whole := sectorsWithin sp.key b.length
    ({ s with
      mem := writeCells s.mem sp.key b
      frames := noteValues s.frames sp.key b
      hist := if s.hist.isEmpty then [] else s.hist.filter fun e => !(decide (sp.key ≤ e.key) && decide (e.key < sp.key + b.length))
      poison := if s.poison.isEmpty then [] else s.poison.filter fun q => !whole.contains q }).devicePut t (bs.drop sp.len)

/-! ### Save areas (R322, R339) -/

/-- Size of a save area (R340). -/
def Launch.saveSize (l : Launch) : Nat := if l.info.deep then 107328 else 58176

/-- Address of a thread's save area (R322). -/
def Launch.saveAddr (l : Launch) (n : Nat) : BitVec 64 := l.info.save + BitVec.ofNat 64 (n * l.saveSize)

/-- Spans of a save area or image: the command processor's access, against no permission of the thread. -/
def State.saveSpans (s : State) (d : Dctx) (a : BitVec 64) (n : Nat) : Except Trouble (List Span) :=
  s.translate d { read := false, write := false, fetch := false, sup := true, window := none } a n

/-- Whether a thread's registers stand in its save area alone. -/
def Thread.inArea (t : Thread) : Bool :=
  match t.place with
  | .saved | .unstarted | .fifo _ => true
  | _ => false

/-- Spans of n bytes at an offset of a thread's save area, where they translate. -/
def State.areaSpans (s : State) (h : Handle) (off n : Nat) : Option (List Span) :=
  match s.launchOf? h, s.dctx? (handleDctx h) with
  | some l, some d => (s.saveSpans d (l.saveAddr (handleDense h) + BitVec.ofNat 64 off) n).toOption
  | _, _ => none

/-! ### Where consumed poison lies (R343, R356) -/

/-- The offset within an access of a cell that it reaches. -/
def spanOffset (k : Nat) : List Span → Nat → Option Nat
  | [], _ => none
  | x :: t, o => if x.key ≤ k ∧ k < x.key + x.len then some (o + (k - x.key)) else spanOffset k t (o + x.len)

/-- The thread whose state a cell of memory holds, in its save area, and the offset there. -/
def State.areaAt (s : State) (k : Nat) : Option (Handle × Nat) :=
  s.threads.findSome? fun t =>
    if t.inArea then
      ((s.launchOf? t.handle).bind fun l => s.areaSpans t.handle 0 l.saveSize).bind fun sp => (spanOffset k sp 0).map fun o => (t.handle, o)
    else none

/-- Protection row and address of a cell, for the log: in a névé window, a save area, or other memory (R342, R356). -/
def State.cellPlace (s : State) (k : Nat) : Nat × BitVec 64 :=
  if windowBase ≤ k then (4, BitVec.ofNat 64 ((k - windowBase) % windowStep))
  else (if (s.areaAt k).isSome then 7 else 0, BitVec.ofNat 64 (k % hostBase))

/-- The table entry at which a walk for a page, from a table of a level, meets poison. -/
def State.poisonedEntry (s : State) (p : PartId) (pn : Nat) : Nat → Nat → Option Nat
  | 0, table => let k := table + 8 * (pn % 8192); if (poisonedSector s.poison k 8).isSome then some k else none
  | level + 1, table =>
    let i := pn / 8192 ^ (level + 1) % 8192
    match s.tableEntry p table i with
    | .ok w => if w.getLsbD 0 && !w.getLsbD 1 then s.poisonedEntry p pn level ((w.extractLsb' 16 36).toNat * 65536) else none
    | .error _ => if (poisonedSector s.poison (table + 8 * i) 8).isSome then some (table + 8 * i) else none

/-- The cell at which an access of a device context met poison: in its data, or in a table. -/
def State.poisonCell (s : State) (d : Dctx) (window : Option (Nat × Nat × Nat)) (reason : BitVec 8) (a : BitVec 64) : Nat :=
  if reason = 0x05 then (s.poisonedEntry d.part (pageNumber a) 2 d.ptroot.toNat).getD 0
  else
    match s.translate1 d { read := false, write := false, fetch := false, sup := true, window := window } a 1 with
    | .ok sp => sp.key
    | .error _ => 0

/-- Logs that a unit of a die has consumed the poison of a cell, for a partition (class 3). -/
def State.logPoisonAt (s : State) (p : PartId) (die unit k : Nat) : State :=
  let x := s.cellPlace k
  s.logError 3 die p.toNat x.1 unit x.2 0

/-- Logs a consumption of poison by a unit of a die, where a failure of an access of a device context has that reason. -/
def State.logPoisonOf (s : State) (d : Dctx) (die unit : Nat) (window : Option (Nat × Nat × Nat)) (reason : BitVec 8) (a : BitVec 64) : State :=
  if reason ≠ 0x05 ∧ reason ≠ 0x33 then s else s.logPoisonAt d.part die unit (s.poisonCell d window reason a)

def State.logPoison (s : State) (dc : DctxId) (die unit : Nat) (window : Option (Nat × Nat × Nat)) (reason : BitVec 8) (a : BitVec 64) : State :=
  match s.dctx? dc with
  | none => s
  | some d => s.logPoisonOf d die unit window reason a

/-- Logs what the cirque's controller has met of poison in a failed read for a device context (R343). -/
def State.logRead {α : Type} (s : State) (d : Dctx) (x : Except Trouble α) : State :=
  match x with
  | .error (.fail r a _ _ _) => s.logPoisonOf d 9 0 none r a
  | _ => s

/-- Whether a poison trap with an address of 0 is of memory, at that address, and not of a register. -/
def State.zeroPoison (s : State) (t : Thread) (detail : BitVec 64) : Bool :=
  decide (detail = 0) && (s.dctx? (handleDctx t.handle)).any fun d =>
    match s.translate1 d { read := false, write := false, fetch := false, sup := true, window := s.windowOf t } 0 1 with
    | .ok sp => (poisonedSector s.poison sp.key 1).isSome
    | .error _ => false

/-- Logs that a thread, or an engine for it, has consumed poison, in memory or, where there is no address, in a register: of the given
row, with the register's number and word. -/
def State.logConsumed (s : State) (t : Thread) (die unit row : Nat) (detail addr : BitVec 64) : State :=
  if addr = 0 ∧ !s.zeroPoison t detail then s.logError 3 die (s.partCode (handleDctx t.handle)) row unit detail 0
  else s.logPoison (handleDctx t.handle) die unit (s.windowOf t) 0x33 addr

/-- Sets bits of n bytes at an offset of a thread's save area. -/
def State.areaOr (s : State) (h : Handle) (off n x : Nat) : State :=
  match s.areaSpans h off n with
  | some sp => s.devicePut sp (leBytes n (leNat (s.spanBytes sp) ||| x))
  | none => s

/-- A number at an offset of a byte list. -/
def fieldAt (bs : List (BitVec 8)) (off n : Nat) : Nat := leNat ((bs.drop off).take n)

/-! ### Instruction fetch (R118, R299) -/

/-- Translation of a fetch of the current thread at an address. -/
def State.fetchSpans (s : State) (a : BitVec 64) : Except Trouble (List Span) :=
  match s.myDctx with
  | none => .error .noContext
  | some d =>
    match s.translate d { s.coreAccess false false with fetch := true } a 4 with
    | .error e => .error e
    | .ok sp =>
      match spanPoison s.poison sp 0 with
      | some o => .error (.trap 0x0A 0 (sectorAddress (a + BitVec.ofNat 64 o)))
      | none => .ok sp

/-- The instruction word at an address: a path-C read with fetch permission; a word that the thread itself wrote without
a FENCE.sl since is fetched old or new, whole (R118). -/
def State.fetchWord (s : State) (a : BitVec 64) : Except Trouble (BitVec 32) :=
  match s.fetchSpans a with
  | .error e => .error e
  | .ok sp =>
    if s.hist.isEmpty then .ok (BitVec.ofNat 32 (leNat (s.spanBytes sp)))
    else .ok (BitVec.ofNat 32 (leNat (s.seenUnits s.th.handle .fetch [4] a.toNat (accessBytes sp) (s.spanBytes sp))))

/-- The state after the fetch of a word that executes. -/
def State.afterFetch (s : State) (a : BitVec 64) : State :=
  match s.fetchSpans a with
  | .error _ => s
  | .ok sp =>
    let s := s.touch s.th.agent false none sp
    if s.hist.isEmpty then s else (s.sawUnits s.th.handle .fetch [4] a.toNat (accessBytes sp)).learn sp

end Sys2Proof.Machine
end

