-- ==== Sys2Proof/Machine/Rings.lean ====
section
/-! DEFINITION. Record rings (R162, R163), signal adds of the device and the armed actions they cross (R110, R434),
interrupt lines 9 to 11 (R292, R314), and the posting of waiting fault records (R309). -/

namespace Sys2Proof.Machine

/-! ### Live threads and interrupt lines (R292, R437) -/

/-- Whether a handle names a live thread (R437): its launch runs and it has not ended. -/
def State.live (s : State) (h : Handle) : Bool :=
  match s.thread? h with
  | some t => decide (t.place ≠ .ended)
  | none => false

/-- Sets lines of a thread. -/
def Thread.setLines (t : Thread) (lines : BitVec 12) : Thread :=
  { t with sup := { t.sup with ipend := t.sup.ipend ||| lines } }

/-- Sets lines of a thread; those of one that is not resident stand in its save area (R292, R437). -/
def State.raiseLines (s : State) (h : Handle) (lines : BitVec 12) : State :=
  let s1 := s.modThread h (·.setLines lines)
  if (s.thread? h).any Thread.inArea then s1.areaOr h 2944 8 lines.toNat else s1

/-- Sets a line of 9 to 11 in the thread that the routing word names, or holds it in the device context (R314). -/
def State.raiseLine (s : State) (dc : DctxId) (line : Nat) : State :=
  match s.dctx? dc with
  | none => s
  | some d =>
    if s.live d.iroute then s.raiseLines d.iroute (1 <<< line)
    else s.modDctx dc fun d => { d with lines := d.lines ||| (1 <<< line) }

/-! ### Descriptors (R162, R163) -/

structure RingDesc where
  base    : BitVec 64
  lg      : Nat
  wr      : BitVec 64
  rd      : BitVec 64
  dropped : BitVec 64
  sig     : BitVec 64
  deriving DecidableEq, Repr

/-- A descriptor's fields, none when it is invalid (R163). -/
def ringDesc (bs : List (BitVec 8)) : Option RingDesc :=
  let base := fieldAt bs 0 8
  let lg := fieldAt bs 8 1
  let sig := fieldAt bs 40 8
  if lg < 4 ∨ 24 < lg ∨ base % 32 ≠ 0 ∨ sig % 8 ≠ 0 ∨ fieldAt bs 9 7 ≠ 0 then none
  else some { base := BitVec.ofNat 64 base, lg := lg, wr := BitVec.ofNat 64 (fieldAt bs 16 8)
              rd := BitVec.ofNat 64 (fieldAt bs 24 8), dropped := BitVec.ofNat 64 (fieldAt bs 32 8)
              sig := BitVec.ofNat 64 sig }

/-- Entries of a ring that hold records not yet consumed. -/
def RingDesc.used (r : RingDesc) : Nat := (r.wr - r.rd).toNat

/-- The descriptor at an address through a device context: none when invalid. -/
def State.readDesc (s : State) (d : Dctx) (a : BitVec 64) : Except Trouble (Option RingDesc) :=
  match s.deviceRead d a 48 with
  | .error e => .error e
  | .ok (bs, _) => .ok (ringDesc bs)

/-! ### Signal adds and armed actions (R110, R111, R434) -/

/-- Whether an increment from old to new crosses a threshold (R110). -/
def crosses (old new threshold : Nat) : Bool :=
  if new < old then decide (old < threshold) else decide (old < threshold) && decide (threshold ≤ new)

/-- Inserts an action of a device context by threshold, then by arming. -/
def insertAction (x : DctxId × Action) : List (DctxId × Action) → List (DctxId × Action)
  | [] => [x]
  | y :: t =>
    if x.2.threshold.toNat < y.2.threshold.toNat ∨ (x.2.threshold = y.2.threshold ∧ x.2.armed < y.2.armed) then x :: y :: t
    else y :: insertAction x t

/-- Takes the actions that an increment of the counter at a physical cell crosses out of their tables and puts their
firings, in order, on the list of postings (R110). -/
def State.crossActions (s : State) (key old new : Nat) : State :=
  let hit (a : Action) : Bool := decide (a.key = key) && crosses old new a.threshold.toNat
  if s.dctxs.all fun d => d.actions.isEmpty then s
  else
    let fired := s.dctxs.foldl (fun acc d => (d.actions.filter hit).foldl (fun acc a => insertAction (d.id, a) acc) acc) []
    { s with
      dctxs := s.dctxs.map fun d => { d with actions := d.actions.filter fun a => !hit a }
      outbox := s.outbox ++ fired.map fun (dc, a) => .fire dc a (BitVec.ofNat 64 new) none }

/-- First cell of an access. -/
def firstKey : List Span → Nat
  | [] => 0
  | x :: _ => x.key

/-- The spans of a counter that the device is to add to, translated and checked, or why the add fails (R434). -/
def State.counterSpans (s : State) (d : Dctx) (a : BitVec 64) : Except Trouble (List Span) :=
  match s.deviceSpans d a 8 true with
  | .error e => .error e
  | .ok sp =>
    if (spanPoison s.poison sp 0).isSome then .error (.fail 0x33 a true false false)
    else if (s.part d.part).resetting.isSome && decide (firstKey sp < hostBase) then .error (.fail 0x20 a true false false)
    else .ok sp

/-- Adds to a counter over checked spans. -/
def State.addSpans (s : State) (sp : List Span) (v : Nat) : State :=
  let old := leNat (s.spanBytes sp)
  let new := (old + v) % 2 ^ 64
  (s.devicePut sp (leBytes 8 new)).crossActions (firstKey sp) old new

/-- A signal add of the device, which is not made when it fails (R434). -/
def State.deviceAdd (s : State) (d : Dctx) (a : BitVec 64) (v : Nat) : State :=
  match s.counterSpans d a with
  | .ok sp => s.addSpans sp v
  | .error _ => s

/-- The page that a translation waits for, as a trouble of its own (R304). -/
def waitsPage {α : Type} (x : Except Trouble α) : Option Trouble :=
  match x with
  | .error (.page a w f) => some (.page a w f)
  | _ => none

/-- A failed access has been counted: one user fewer of a page request that was answered negatively (R304). -/
def State.dropped {α : Type} (s : State) (dc : DctxId) (x : Except Trouble α) : State :=
  match x with
  | .error (.fail _ a _ _ _) => s.modDctx dc (·.dropPage a)
  | _ => s

/-- A failed access of the device: counted, and logged where it has met poison (R343). -/
def State.counted {α : Type} (s : State) (dc : DctxId) (x : Except Trouble α) : State :=
  match x with
  | .error (.fail r a _ _ _) => (s.logPoison dc 9 0 none r a).dropped dc x
  | _ => s

/-! ### Posting (R163) -/

/-- What a posting came to. -/
inductive Post where
  | posted (s : State)
  | full
  | invalid
  | failed (t : Trouble)

/-- Writes 32-byte entries from an index of a ring upward. -/
def State.putEntries (s : State) (d : Dctx) (r : RingDesc) : Nat → List (List (BitVec 8)) → Except Trouble State
  | _, [] => .ok s
  | i, e :: t =>
    match s.deviceSpans d (r.base + BitVec.ofNat 64 (32 * (i % 2 ^ r.lg))) 32 false with
    | .error x => .error x
    | .ok sp => (s.devicePut sp e).putEntries d r (i + 1) t

/-- Posts one record of n 32-byte entries to the ring whose descriptor stands at an address: space, entries, wr, then
the signal add (R163). The record is told whether its signal add fails (R434). -/
def State.postRing (s : State) (d : Dctx) (desc : BitVec 64) (n : Nat) (record : Bool → List (BitVec 8)) : Post :=
  match s.readDesc d desc with
  | .error e => .failed e
  | .ok none => .invalid
  | .ok (some r) =>
    if 2 ^ r.lg < r.used + n then .full
    else
      match s.deviceSpans d desc 48 false with
      | .error e => .failed e
      | .ok dsp =>
        let sig := s.counterSpans d r.sig
        let bad := decide (r.sig ≠ 0) && !sig.isOk
        match (if r.sig = 0 then none else waitsPage sig), s.putEntries d r r.wr.toNat (chunks 32 n (record bad)) with
        | some e, _ => .failed e
        | none, .error e => .failed e
        | none, .ok s1 =>
          let bs := s.spanBytes dsp
          let s2 := s1.devicePut dsp (bs.take 16 ++ leBytes 8 (r.wr.toNat + n) ++ bs.drop 24)
          .posted (if r.sig = 0 then s2 else if bad then s2.counted d.id sig else s2.deviceAdd d r.sig 1)

/-- Counts a discarded record in the descriptor's dropped field, when the descriptor can be written. -/
def State.countDropped (s : State) (d : Dctx) (desc : BitVec 64) : State :=
  match s.readDesc d desc, s.deviceSpans d desc 48 false with
  | .ok (some r), .ok sp =>
    let bs := s.spanBytes sp
    s.devicePut sp (bs.take 32 ++ leBytes 8 (r.dropped.toNat + 1) ++ bs.drop 40)
  | _, _ => s

/-- Posts a record whose rule says that a full ring or a failed posting discards it, counted where it can be
(R161, R402, R407, R435). -/
def State.postOrDrop (s : State) (d : Dctx) (desc : BitVec 64) (n : Nat) (record : List (BitVec 8)) : State × Bool :=
  match s.postRing d desc n fun _ => record with
  | .posted s1 => (s1, true)
  | .full => (s.countDropped d desc, false)
  | .invalid => (s, false)
  | .failed e => ((s.counted d.id (.error e : Except Trouble Unit)).countDropped d desc, false)

/-! ### The fault queue (R308, R309) -/

/-- The 32 bytes of a fault record, at its posting. -/
def FaultRecord.bytes (r : FaultRecord) (cyc : Nat) : List (BitVec 8) :=
  [r.kind, 0x01, r.cause, r.reason] ++ leBytes 4 r.handle.toNat ++ leBytes 8 r.addr.toNat ++ leBytes 8 r.pc.toNat ++
  [r.flags, r.elem] ++ leBytes 2 r.core.toNat ++ leBytes 4 cyc

/-- A record of a kind that carries only what its own rule names (R309). -/
def FaultRecord.plain (kind cause reason : BitVec 8) (h : Handle) (addr : BitVec 64) : FaultRecord :=
  { kind := kind, cause := cause, reason := reason, handle := h, addr := addr, pc := 0, flags := 0, elem := 0, core := 0 }

/-- Posts a fault record of a device context: the ring, then line 10 (R292). -/
def State.postFault (s : State) (d : Dctx) (r : FaultRecord) : Post :=
  if d.fqdesc = 0 then .invalid
  else
    match s.postRing d (va56 d.fqdesc) 1 fun _ => r.bytes s.cyc with
    | .posted s1 => .posted (s1.raiseLine d.id 10)
    | x => x

/-- A record of kind 0x04: of a thread's save-area header, with the fields that R308 gives (R347). -/
def FaultRecord.header (t : Thread) (addr : BitVec 64) : FaultRecord :=
  { FaultRecord.plain 0x04 0x0A 0x32 t.handle addr with flags := if t.sup.level then 8 else 0, core := t.core.setWidth 16 }

/-- Whether the first waiting record of a device context cannot be posted, for want of space or of its ring (R309). -/
def State.fqBlocked (s : State) (d : Dctx) : Bool :=
  match d.fqWait with
  | r :: _ => (match s.postFault d r with
    | .posted _ | .failed (.page ..) => false
    | _ => true)
  | [] => false

/-- A record that is discarded is counted where the fault queue has a descriptor (R309, R310). -/
def State.fqDropped (s : State) (d : Dctx) : State := if d.fqdesc = 0 then s else s.countDropped d (va56 d.fqdesc)

/-- Whether it waits for the host's answer to a page request that the ring needs. -/
def State.fqAsks (s : State) (d : Dctx) : Bool :=
  match d.fqWait with
  | r :: _ => (match s.postFault d r with
    | .failed (.page ..) => true
    | _ => false)
  | [] => false

/-- Posts, discards or counts a kind-0x02 record: it joins records that are about to be posted, and never waits behind one that cannot
be (R309). -/
def State.actionFault (s : State) (dc : DctxId) (r : FaultRecord) : State :=
  match s.dctx? dc with
  | none => s
  | some d =>
    if s.fqBlocked d then s.fqDropped d
    else if !d.fqWait.isEmpty then s.queueFault dc r
    else
      match s.postFault d r with
      | .posted s1 => s1
      | .invalid => s
      | .failed (.page a w f) => (s.askPage dc a w f).queueFault dc r
      | .failed e => (s.counted dc (.error e : Except Trouble Unit)).fqDropped d
      | .full => s.fqDropped d

/-- The records of kind 0x02 among those that wait are discarded, and counted where there is a ring (R309, R310). -/
def State.dropActionFaults (s : State) (dc : DctxId) : State :=
  match s.dctx? dc with
  | none => s
  | some d =>
    let s1 := s.modDctx dc fun d => { d with fqWait := d.fqWait.filter fun r => decide (r.kind ≠ 0x02) }
    (d.fqWait.filter fun r => decide (r.kind = 0x02)).foldl (fun a _ => a.fqDropped d) s1

/-- The records that are left have waited. -/
def State.faultWaits (s : State) (dc : DctxId) : State :=
  s.modDctx dc fun d => if d.fqWait.isEmpty then d else { d with fqOvf := true }

/-- Posts the first waiting record of a device context; a record that cannot be posted has waited (R309). -/
def State.faultRecordPost (s : State) (dc : DctxId) : State :=
  match s.dctx? dc with
  | none => s
  | some d =>
    match d.fqWait with
    | [] => s
    | r :: t =>
      match s.postFault d r with
      | .posted s1 => s1.modDctx dc fun d => { d with fqWait := t }
      | .failed (.page a w f) => (s.askPage dc a w f).modDctx dc fun d => { d with fqOvf := true }
      | .failed (.fail r a w f t) =>
        let e : Except Trouble Unit := .error (.fail r a w f t)
        ((if d.fqOvf then s.dropped dc e else s.counted dc e).dropActionFaults dc).faultWaits dc
      | _ => (s.dropActionFaults dc).faultWaits dc

/-- Whether the first waiting record of a device context would post, or has not yet been tried (R309). -/
def State.faultDue (s : State) (d : Dctx) : Bool :=
  match d.fqWait with
  | [] => false
  | r :: _ => !d.fqOvf || d.fqWait.any (fun r => decide (r.kind = 0x02) && !s.fqAsks d) || (match s.postFault d r with
    | .posted _ => true
    | _ => false)

end Sys2Proof.Machine
end

