-- ==== Sys2Proof/Machine/Moraine.lean ====
section
/-! DEFINITION. The moraine log and replay (R377 to R392, R438): records, order counters, the admission of an event
before it performs and its logging when it performs, and the records of scheduling decisions. -/

namespace Sys2Proof.Machine

/-! ### Digests and items (R377 to R379) -/

/-- XOR of the 32-bit words of a byte string: F of R379, and F48 of a sector. -/
def foldBytes (bs : List (BitVec 8)) : BitVec 32 :=
  (chunks 4 (bs.length + 1) bs).foldl (fun a c => a ^^^ BitVec.ofNat 32 (leNat c)) 0

/-- The digest of R379. -/
def digest (old opnd : List (BitVec 8)) : BitVec 32 := foldBytes old ^^^ (foldBytes opnd).rotateLeft 13

/-- The object of an access: the sector that holds it, the lower one of two (R378). -/
def objectOf (sp : List Span) : Nat := firstKey sp / 48

/-- A record of an access with 64-bit old value and operand. -/
def eventItem (type op elem : Nat) (va : BitVec 64) (sp : List Span) (old opnd : Nat) : EventItem :=
  { type := type, op := op, elem := elem, va := va, object := objectOf sp
    digest := digest (leBytes 8 old) (leBytes 8 opnd) }

/-- Whether an access touches an L page (R301). -/
def onLPage (sp : List Span) : Bool := sp.any fun x => leafLg x.leaf

/-! ### Mode of a launch -/

/-- What acts on the events of a launch: 0 nothing, 1 recording, 2 enforced replay (R377, R391). -/
def Launch.acts (l : Launch) : Nat :=
  if l.info.mode = 1 then 1 else if l.info.mode = 2 ∧ l.enforced then 2 else 0

def State.actsOn (s : State) (h : Handle) : Nat :=
  match s.launchOf? h with
  | some l => l.acts
  | none => 0

/-- Whether a launch of a device context is in a mode and not done. -/
def State.anyMode (s : State) (dc : DctxId) (m : Nat) : Bool :=
  s.launches.any fun l => decide (l.dc = dc) && decide (l.info.mode.toNat = m) && decide (l.state = .running)

/-! ### Posting (R163, R382 to R384) -/

/-- Whether k records can be posted now, or the ring is empty and they begin to fit (R383). -/
def State.ringRoom (s : State) (d : Dctx) (k : Nat) : Bool :=
  if d.mrdesc = 0 ∨ d.mrBroken then false
  else
    match s.readDesc d (va56 d.mrdesc) with
    | .ok (some r) => decide (r.used + k ≤ 2 ^ r.lg) || (decide (r.used = 0) && decide (0 < k))
    | _ => false

/-- Whether records of an event that has performed wait for space: they come before any later one (R381). -/
def State.owes (s : State) (dc : DctxId) : Bool := s.threads.any fun t => decide (handleDctx t.handle = dc) && !t.moraineDebt.isEmpty

/-- Whether k records of a decision or an event that is still to come can be posted now. -/
def State.moraineRoom (s : State) (d : Dctx) (k : Nat) : Bool := !s.owes d.id && s.ringRoom d k

/-- Notes which device contexts' recording launches have met an invalid descriptor, or one that cannot be read: their records wait for a write to `mrdesc`, also
where the descriptor becomes valid again by itself (R382). -/
def State.noteMoraine (s : State) : State :=
  if s.launches.all fun l => decide (l.info.mode ≠ 1) then s
  else
    s.dctxs.foldl (fun (a : State) d =>
      if !s.anyMode d.id 1 || d.mrBroken then a
      else if d.mrdesc = 0 then a.modDctx d.id fun d => { d with mrBroken := true }
      else
        let x := s.readDesc d (va56 d.mrdesc)
        match x with
        | .ok (some _) | .error (.page ..) => a
        | _ => (a.logRead d x).modDctx d.id fun d => { d with mrBroken := true }) s

/-- Posts one record; a posting that brings the ring to three quarters sets line 9 and hw (R384). -/
def State.postMoraine (s : State) (dc : DctxId) (bytes : List (BitVec 8)) : Option State :=
  match s.dctx? dc with
  | none => none
  | some d =>
    if d.mrdesc = 0 ∨ d.mrBroken then none
    else
      let desc := va56 d.mrdesc
      match s.readDesc d desc, s.postRing d desc 1 fun _ => bytes with
      | .ok (some r), .posted s1 =>
        let high := (3 * 2 ^ r.lg + 3) / 4
        if r.used < high ∧ high ≤ r.used + 1 then
          some ((s1.modDctx dc fun d => { d with mrHw := true }).raiseLine dc 9)
        else some s1
      | _, _ => none

/-- Bytes [15:0] that every record shares: type, version, element, handle, event number (R380). -/
def recordHead (type ver elem : Nat) (h : Handle) (event : BitVec 64) : List (BitVec 8) :=
  [BitVec.ofNat 8 type, BitVec.ofNat 8 ver] ++ leBytes 2 elem ++ leBytes 4 h.toNat ++ leBytes 8 event.toNat

/-- A record of types 0x01 to 0x08. -/
def EventItem.bytes (e : EventItem) (h : Handle) (event : BitVec 64) (order : BitVec 32) : List (BitVec 8) :=
  recordHead e.type (if e.last then 0x11 else 0x01) e.elem h event ++ leBytes 7 e.va.toNat ++ [BitVec.ofNat 8 e.op] ++
  leBytes 4 order.toNat ++ leBytes 4 e.digest.toNat

/-! ### Order counters (R378) -/

/-- The order number that an access takes, and the counter after it. -/
def State.takeOrder (s : State) (p : PartId) (object : Nat) (user : BitVec 10) : State × BitVec 32 :=
  match s.order.find? fun c => decide (c.part = p) && decide (c.object = object) with
  | some c =>
    ({ s with order := s.order.map fun x =>
        if x.part = p ∧ x.object = object then
          { x with next := x.next + 1, users := if x.users.contains user then x.users else x.users ++ [user] }
        else x }, c.next)
  | none => ({ s with order := s.order ++ [{ part := p, object := object, next := 1, users := [user] }] }, 0)

/-- Frees the counters that only an ended launch had accessed. -/
def State.freeOrders (s : State) (user : BitVec 10) : State :=
  { s with order := (s.order.map fun c => { c with users := c.users.filter (· ≠ user) }).filter fun c => !c.users.isEmpty }

/-- The items of accesses of the current thread that perform now and are recorded later, with the order numbers that they take now
(R378). -/
def State.numberItems (s : State) (items : List EventItem) : State × List EventItem :=
  match s.dctx? (handleDctx s.th.handle) with
  | some d =>
    if s.actsOn s.th.handle ≠ 1 ∨ s.th.sup.level then (s, items)
    else
      items.foldl (fun (acc : State × List EventItem) e =>
        let (s1, o) := acc.1.takeOrder d.part e.object (handleLaunch s.th.handle)
        (s1, acc.2 ++ [{ e with order := some o }])) (s, [])
  | none => (s, items)

/-- The order number that an access to an object took between two states, if it took one. -/
def State.numberTaken (s s1 : State) (p : PartId) (object : Nat) : Option (BitVec 32) :=
  let at_ (s : State) : Option (BitVec 32) := (s.order.find? fun c => decide (c.part = p) && decide (c.object = object)).map (·.next)
  if at_ s = at_ s1 then none else (at_ s1).map (· - 1)

/-- The firings at a counter that have just been decided carry the number that the increment took (R378). -/
def State.numberFirings (s before : State) (p : PartId) (key : Nat) : State :=
  match before.numberTaken s p (key / 48) with
  | none => s
  | some o => { s with outbox := s.outbox.map fun x => match x with
      | .fire dc a v none => if a.key = key then .fire dc a v (some o) else .fire dc a v none
      | x => x }

def State.numberMine (s before : State) (key : Nat) : State :=
  match s.myDctx with
  | some d => s.numberFirings before d.part key
  | none => s

/-- Makes the record of an item: takes its order number and posts it, or leaves it with the thread when the ring has
no space left (an event of more records than the ring holds, R383). -/
def State.logItem (s : State) (h : Handle) (event : BitVec 64) (e : EventItem) : State :=
  match s.dctx? (handleDctx h) with
  | none => s
  | some d =>
    let (s1, o) := match e.order with
      | some o => (s, o)
      | none => s.takeOrder d.part e.object (handleLaunch h)
    let bytes := e.bytes h event o
    match s1.postMoraine d.id bytes with
    | some s2 => s2
    | none => s1.modThread h fun t => { t with moraineDebt := t.moraineDebt ++ [bytes] }

/-! ### The replay source (R385 to R389) -/

/-- Address of record i of a launch's replay source. -/
def Launch.recordAddr (l : Launch) (i : Nat) : BitVec 64 := va56 l.rpBase + BitVec.ofNat 64 (32 * i)

def State.replayRead (s : State) (d : Dctx) (l : Launch) (i : Nat) : Option (List (BitVec 8)) :=
  match s.deviceRead d (l.recordAddr i) 32 with
  | .ok (bs, _) => some bs
  | .error _ => none

/-- Whether a record is of the thread with dense number n. -/
def recordOf (bs : List (BitVec 8)) (n : Nat) : Bool := decide (fieldAt bs 4 4 % 2 ^ 22 = n)
def recordType (bs : List (BitVec 8)) : Nat := fieldAt bs 0 1
def recordOp (bs : List (BitVec 8)) : Nat := fieldAt bs 23 1

/-- Records that a device item makes, not the thread's own event (R438). -/
def deviceRecord (bs : List (BitVec 8)) : Bool :=
  let t := recordType bs
  decide (t = 5) || decide (t = 6) || (decide (t = 3) && decide (recordOp bs = 5)) || (decide (t = 8) && decide (recordOp bs = 4))
/-- Records of VSCADD and VRDST elements, which the homes make. -/
def homeRecord (bs : List (BitVec 8)) : Bool := decide (recordType bs = 1) && decide (13 ≤ recordOp bs)
/-- Records of the thread's own events. -/
def eventRecord (bs : List (BitVec 8)) : Bool := decide (recordType bs ≤ 8) && !deviceRecord bs

/-- The records of thread n that are not consumed, in order, with their places; an unreadable record ends the list and
is given by its place. -/
def State.replayOwn (s : State) (d : Dctx) (l : Launch) (n : Nat) (sel : List (BitVec 8) → Bool) :
    List (Nat × List (BitVec 8)) × Option Nat :=
  (List.range l.rpCount).foldl (fun (acc : List (Nat × List (BitVec 8)) × Option Nat) i =>
    if acc.2.isSome || l.consumed.contains i then acc
    else
      match s.replayRead d l i with
      | none => (acc.1, some i)
      | some bs => if recordOf bs n && sel bs then (acc.1 ++ [(i, bs)], none) else acc) ([], none)

/-- Key of the byte at a virtual address as a thread of a device context sees it, whatever the permissions. -/
def State.keyOf (s : State) (d : Dctx) (h : Handle) (a : BitVec 64) : Option Nat :=
  match (s.thread? h).bind fun t => s.windowOf t with
  | some (base, size, key) => if base ≤ a.toNat ∧ a.toNat < base + size then some (key + (a.toNat - base)) else plain
  | none => plain
where
  plain : Option Nat :=
    match s.leafOf d a with
    | .ok l =>
      if leafAts l then
        (s.hostPage? d (a.toNat / 4096)).map fun p =>
          hostBase + p.hpa.toNat / 4096 * 4096 + a.toNat % 4096
      else some (leafFrame l * 196608 + pageOffset a)
    | .error _ => none

/-- The object of a record of the replay source. -/
def State.recordObject (s : State) (d : Dctx) (l : Launch) (bs : List (BitVec 8)) : Nat :=
  let a := BitVec.ofNat 64 (fieldAt bs 16 7)
  match s.keyOf d (handleOf l.dc l.slot (fieldAt bs 4 4 % 2 ^ 22)) a with
  | some k => k / 48
  | none => 2 ^ 64 + a.toNat / 48

/-- Whether order number a comes before b, as differences modulo 2^32. -/
def orderBefore (a b : Nat) : Bool := decide (2 ^ 31 ≤ (a + 2 ^ 32 - b) % 2 ^ 32)

/-- Whether every access of the replay source to an object with a lower order number has performed (R386); a record that cannot be
read may be one of them (log 163). Firings take no place of their own (R378). -/
def State.replayTurn (s : State) (d : Dctx) (l : Launch) (object order : Nat) : Bool :=
  (List.range l.rpCount).all fun i =>
    l.consumed.contains i ||
    match s.replayRead d l i with
    | none => false
    | some bs =>
      decide (8 < recordType bs) || decide (recordType bs = 5) || !orderBefore (fieldAt bs 24 4) order ||
      decide (s.recordObject d l bs ≠ object)

/-- Detail word of a divergence fault (R389). -/
def divergenceDetail (kind exp met op : Nat) (event : BitVec 64) : BitVec 64 :=
  BitVec.ofNat 64 (kind + exp * 2 ^ 4 + met * 2 ^ 12 + op * 2 ^ 20 + event.toNat % 2 ^ 36 * 2 ^ 28)

def divergence (kind exp met op : Nat) (event addr : BitVec 64) : Trouble :=
  .trap 0x0B (divergenceDetail kind exp met op event) addr

/-- Whether an item's op agrees with a record's before its event performs: an element of VRDST is then still to be applied or dropped,
14 or 15, and the status of a BXQ is not known. -/
def opAgrees (e : EventItem) (bs : List (BitVec 8)) : Bool :=
  decide (e.op = recordOp bs) || (decide (e.type = 1) && decide (e.op = 14) && decide (recordOp bs = 15)) || decide (e.type = 6)

/-- What an unreadable record of the replay source does to the thread that comes to it: a page request goes before the host first,
then it is the divergence fault of kind 7 (R385, R389). -/
def State.unreadable (s : State) (d : Dctx) (l : Launch) (i met op : Nat) (event : BitVec 64) : Trouble :=
  match s.deviceRead d (l.recordAddr i) 32 with
  | .error (.page a w f) => .page a w f
  | _ => divergence 7 0 met op event (l.recordAddr i)

/-- The events of the open convoy that wait to be counted. -/
def Thread.pendingEvents (t : Thread) : List (List EventItem) :=
  match t.convoy with
  | some c => c.events
  | none => []

/-- The number of the thread's next event. -/
def Thread.eventNumber (t : Thread) : BitVec 64 := t.arch.mevents + BitVec.ofNat 64 t.pendingEvents.length

/-- Steps 1 to 3 of R387 for an event's items: the records that they are held against, with their places, item by item, or why not. The
thread's next unconsumed record is the one of its event number where there is one; records of earlier events of its open convoy
are spoken for. Elements of VSCADD and VRDST are recorded in any order (R381), the items of an event that is made in parts (R203)
are the first of its records that are left, and the record of a BXQ is the one that its completion makes. -/
def State.replayGroup (s : State) (d : Dctx) (l : Launch) (t : Thread) (event : BitVec 64) (items : List EventItem) (part : Bool) :
    Except Trouble (List (EventItem × Nat × List (BitVec 8))) :=
  match items with
  | [] => .ok []
  | e0 :: _ =>
    let of (bs : List (BitVec 8)) : Bool := decide (fieldAt bs 8 8 = event.toNat)
    let spoken (bs : List (BitVec 8)) : Bool := decide (t.arch.mevents.toNat ≤ fieldAt bs 8 8) && decide (fieldAt bs 8 8 < event.toNat)
    let (own, bad) := s.replayOwn d l (handleDense t.handle) fun bs =>
      (of bs && (eventRecord bs || (decide (e0.type = 6) && decide (recordType bs = 6)))) ||
      (eventRecord bs && !homeRecord bs && !spoken bs)
    let mine := own.filter fun (_, bs) => of bs
    match (if mine.isEmpty then (if bad.isSome then [] else own) else mine) with
    | [] =>
      match bad with
      | some i => .error (s.unreadable d l i e0.type e0.op event)
      | none => .error (divergence 4 0 e0.type e0.op event e0.va)
    | (i0, r0) :: rest =>
      let exp := recordType r0
      if exp ≠ e0.type ∨ !opAgrees e0 r0 then .error (divergence 1 exp e0.type e0.op event e0.va)
      else
        let all := ((i0, r0) :: rest).filter fun (_, bs) => decide (fieldAt bs 8 8 = fieldAt r0 8 8)
        let late := decide (e0.type = 1) && decide (13 ≤ e0.op)
        let group := if part then all.take items.length
          else if late then items.filterMap fun e => all.find? fun (_, bs) => decide (fieldAt bs 2 2 = e.elem)
          else all
        let pairs := items.zip group
        match bad with
        | some i => if group.length < items.length then .error (s.unreadable d l i e0.type e0.op event) else check exp e0 pairs group.length all.length
        | none => check exp e0 pairs group.length all.length
where
  check (exp : Nat) (e0 : EventItem) (pairs : List (EventItem × Nat × List (BitVec 8))) (k all : Nat) :
      Except Trouble (List (EventItem × Nat × List (BitVec 8))) :=
    match pairs.find? fun (e, _, bs) => decide (s.recordObject d l bs ≠ e.object) with
    | some (e, _) => .error (divergence 2 exp e.type e.op event e.va)
    | none =>
      if k ≠ items.length ∨ (!part && decide (all ≠ items.length)) ∨ pairs.any (fun (e, _, bs) => decide (fieldAt bs 2 2 ≠ e.elem)) then
        .error (divergence 6 exp e0.type e0.op event e0.va)
      else .ok pairs

/-- Compares an event's items with the records of the thread (R386, R387): the places to consume when it performs, or why not. The turns
and digests of elements of VSCADD and VRDST and of a BXQ are their homes' and the device's. -/
def State.replayMatch (s : State) (d : Dctx) (l : Launch) (t : Thread) (event : BitVec 64) (items : List EventItem)
    (part : Bool := false) : Except Trouble (List Nat) :=
  match s.replayGroup d l t event items part with
  | .error e => .error e
  | .ok pairs =>
    if pairs.any fun (e, _) => (decide (e.type = 1) && decide (13 ≤ e.op)) || decide (e.type = 6) then .ok []
    else
      let places := pairs.map fun (_, i, _) => i
      if !pairs.all fun (e, _, bs) => s.replayTurn d { l with consumed := l.consumed ++ places } e.object (fieldAt bs 24 4) then
        .error (.wait .replay)
      else
        match pairs.find? fun (e, _, bs) => decide (fieldAt bs 28 4 ≠ e.digest.toNat) with
        | some (e, _, bs) => .error (divergence 3 (recordType bs) e.type e.op event e.va)
        | none => .ok places

/-! ### Admission and logging of a thread's event (R377, R383, R386) -/

/-- Whether the thread waits its turn at an object. -/
def Thread.waitsReplay (t : Thread) : Bool :=
  match t.wait with
  | some w => decide (w.kind = .replay)
  | none => false

/-- Whether no thread of the current thread's launch has waited longer for its turn at an object: once enforcement has ended, waiting
accesses perform in the order of their arrival, and before later ones (R391). -/
def State.replayNext (s : State) : Bool :=
  let now := (s.th.stalledAt.map (·.1)).getD s.lcc
  s.others.all fun t => !(t.waitsReplay && decide (handleLaunch t.handle = handleLaunch s.th.handle) && !t.held) ||
    decide (now ≤ (t.stalledAt.map (·.1)).getD 0)

/-- Whether the thread runs a TSTORE. -/
def Thread.storesTile (t : Thread) : Bool :=
  t.runs.any fun r => match r.instr with
    | .tstore .. => true
    | _ => false

/-- Before an event of the current thread performs: ring space for k records in record mode, the records and their turn in replay. No
event performs while the thread runs a TSTORE, which may be one itself (R377). Events of an open convoy that are not yet
counted come before it. -/
def State.allowEvent (s : State) (items : List EventItem) (part : Bool := false) (k : Nat := items.length) : Except Trouble Unit :=
  if s.th.sup.level then .ok ()
  else
    match s.myLaunch, s.myDctx with
    | some l, some d =>
      if l.info.mode ≠ 0 ∧ s.th.storesTile then .error (.wait .unit)
      else
        match l.acts with
        | 1 =>
          let n := k + (s.th.pendingEvents.map List.length).foldl (· + ·) 0
          if !s.th.moraineDebt.isEmpty || (decide (0 < n) && !s.moraineRoom d n) then .error (.wait .moraine)
          else .ok ()
        | 2 =>
          let event := s.th.eventNumber
          match s.th.mismatch with
          | some (a, detail) => .error (.trap 0x0B (detail ||| divergenceDetail 0 0 0 0 event) a)
          | none =>
            match s.replayMatch d l s.th event items part with
            | .ok _ => .ok ()
            | .error e => .error e
        | _ => if l.info.mode = 2 ∧ !s.replayNext then .error (.wait .replay) else .ok ()
    | _, _ => .ok ()

/-- Before a TSTORE that writes L pages issues (R383, R387): ring space for all its records, and in replay its records but for their
turns and digests, which are its sectors' as it writes them. -/
def State.allowTile (s : State) (items : List EventItem) (whole : Bool) : Except Trouble Unit :=
  if s.th.sup.level then .ok ()
  else
    match s.myLaunch, s.myDctx with
    | some l, some d =>
      match l.acts with
      | 1 => if !s.th.moraineDebt.isEmpty || !s.moraineRoom d items.length then .error (.wait .moraine) else .ok ()
      | 2 =>
        match s.th.mismatch with
        | some (a, detail) => .error (.trap 0x0B (detail ||| divergenceDetail 0 0 0 0 s.th.eventNumber) a)
        | none =>
          match s.replayGroup d l s.th s.th.eventNumber items (!whole) with
          | .ok _ => .ok ()
          | .error e => .error e
      | _ => .ok ()
    | _, _ => .ok ()

/-- The records of items of the event that the current thread is performing, made, or consumed in replay. -/
def State.commitPart (s : State) (items : List EventItem) (part : Bool := true) : State :=
  if s.th.sup.level then s
  else
    let event := s.th.eventNumber
    match s.myLaunch, s.myDctx with
    | some l, some d =>
      match l.acts with
      | 1 => items.foldl (fun (a : State) e => a.logItem s.th.handle event e) s
      | 2 =>
        match s.replayMatch d l s.th event items part with
        | .ok used => s.modLaunch l.dc l.slot fun l => { l with consumed := l.consumed ++ used }
        | .error _ => s
      | _ => s
    | _, _ => s

/-- An event of the current thread performs: its records, then its count (R377). -/
def State.commit (s : State) (items : List EventItem) (part : Bool := false) : State :=
  if s.th.sup.level then s
  else
    let event := s.th.arch.mevents
    let s1 := s.commitPart items part
    { s1 with th := { s1.th with lastEvent := event, segmentsDone := 0, arch := { s1.th.arch with mevents := event + 1 } } }

/-! ### Records of the device on behalf of a thread (R377, R383, R438) -/

/-- The record that a device item of a thread is held against, and its place; none where there is none left. An error is a record that
cannot be read before it. -/
def State.deviceRecord? (s : State) (h : Handle) (sel : List (BitVec 8) → Bool) : Except Unit (Option (Nat × List (BitVec 8))) :=
  match s.launchOf? h, s.dctx? (handleDctx h) with
  | some l, some d =>
    match s.replayOwn d l (handleDense h) sel with
    | (x :: _, _) => .ok (some x)
    | ([], some _) => .error ()
    | ([], none) => .ok none
  | _, _ => .ok none

/-- Whether k records of a device item of a thread may be made now: ring space, or in replay the turn of its record (R438). -/
def State.deviceMay (s : State) (h : Handle) (sel : List (BitVec 8) → Bool) (object : Nat) (k : Nat := 1) : Bool :=
  match s.launchOf? h, s.dctx? (handleDctx h) with
  | some l, some d =>
    match l.acts with
    | 1 => s.moraineRoom d k
    | 2 =>
      match s.deviceRecord? h sel with
      | .ok (some (i, bs)) => s.replayTurn d { l with consumed := i :: l.consumed } object (fieldAt bs 24 4)
      | .ok none => true
      | .error _ => false
    | _ => true
  | _, _ => true

/-- Notes a mismatch of a thread's device item, or of an element at its home: its next event raises the divergence fault. -/
def State.mismatched (s : State) (h : Handle) (kind exp : Nat) (e : EventItem) : State :=
  s.modThread h fun t =>
    if t.mismatch.isSome then t else { t with mismatch := some (e.va, divergenceDetail kind exp e.type e.op 0) }

/-- Whether a record is that of an item: type, op, object and digest (R386, R438). -/
def State.recordAgrees (s : State) (d : Dctx) (l : Launch) (e : EventItem) (bs : List (BitVec 8)) : Bool :=
  decide (recordType bs = e.type) && decide (recordOp bs = e.op) && decide (s.recordObject d l bs = e.object) &&
  decide (fieldAt bs 28 4 = e.digest.toNat)

/-- Makes, or consumes, the record of a device item that performs; a mismatch counts, and is the owning thread's divergence of kind 8
(R438). -/
def State.deviceLog (s : State) (h : Handle) (event : BitVec 64) (e : EventItem) (sel : List (BitVec 8) → Bool) : State :=
  match s.launchOf? h, s.dctx? (handleDctx h) with
  | some l, some d =>
    match l.acts with
    | 1 => s.logItem h event e
    | 2 =>
      let bad (s : State) (exp : Nat) : State := (s.modDctx d.id fun d => { d with mpdiv := d.mpdiv + 1 }).mismatched h 8 exp e
      match s.deviceRecord? h sel with
      | .ok (some (i, bs)) =>
        let s1 := s.modLaunch l.dc l.slot fun l => { l with consumed := l.consumed ++ [i] }
        if s.recordAgrees d l e bs then s1 else bad s1 (recordType bs)
      | .ok none => bad s 0
      | .error _ => s
    | _ => s
  | _, _ => s

/-- An element of VSCADD or VRDST at its home in replay (R386): whether it may have its effect, and its record consumed. One that
differs has none, leaves its record, and is its thread's divergence of kind 3, or 1 where it is dropped against the
record or applied against it. -/
def State.elementLog (s : State) (h : Handle) (event : BitVec 64) (e : EventItem) (sel : List (BitVec 8) → Bool) : State × Bool :=
  match s.launchOf? h, s.dctx? (handleDctx h) with
  | some l, some d =>
    match l.acts with
    | 1 => (s.logItem h event e, true)
    | 2 =>
      match s.deviceRecord? h sel with
      | .ok (some (i, bs)) =>
        if s.recordAgrees d l e bs then (s.modLaunch l.dc l.slot fun l => { l with consumed := l.consumed ++ [i] }, true)
        else (s.mismatched h (if recordOp bs = e.op then 3 else 1) (recordType bs) e, false)
      | .ok none => (s.mismatched h 4 0 e, false)
      | .error _ => (s, true)
    | _ => (s, true)
  | _, _ => (s, true)

/-- The first page of the replay source of an enforced launch that the host has still to be asked for (R385): the command processor
asks for it before a record there is needed. -/
def State.replayPage (s : State) (l : Launch) : Option (BitVec 64) :=
  if l.acts ≠ 2 ∨ !(l.state = .binding ∨ l.state = .running) then none
  else
    (s.dctx? l.dc).bind fun d => (List.range l.rpCount).findSome? fun i =>
      if l.consumed.contains i then none
      else
        match s.deviceRead d (l.recordAddr i) 32 with
        | .error (.page a _ _) => if d.pages.any fun q => decide (q.page.toNat = a.toNat / 4096) then none else some a
        | _ => none

/-! ### Scheduling records (R380, R381, R388) -/

/-- Bytes of a scheduling record of a thread. -/
def schedBytes (t : Thread) (kind core aux : Nat) (sup : Bool) : List (BitVec 8) :=
  recordHead 0x11 0x01 0 t.handle t.arch.mevents ++ leBytes 8 t.position ++
  [BitVec.ofNat 8 kind, BitVec.ofNat 8 ((coreClass core).code + (if sup then 4 else 0))] ++ leBytes 2 core ++ leBytes 4 aux

/-- Whether a decision's record is informational: discarded when the ring is full (R380, R381). -/
def informational (kind : Nat) (sup : Bool) : Bool :=
  decide (kind = 6) || decide (kind = 8) || decide (kind = 10) || (sup && decide (kind ≠ 11))

/-- Whether a decision about a thread, of k records, need not wait for ring space (R383). -/
def State.schedMay (s : State) (t : Thread) (kind : Nat) (k : Nat := 1) : Bool :=
  match s.launchOf? t.handle, s.dctx? (handleDctx t.handle) with
  | some l, some d => decide (l.acts ≠ 1) || informational kind t.sup.level || s.moraineRoom d k
  | _, _ => true

/-- Records a decision about a thread, at its position, in a recording launch. -/
def State.sched (s : State) (t : Thread) (kind core aux : Nat) : State :=
  match s.launchOf? t.handle, s.dctx? (handleDctx t.handle) with
  | some l, some d =>
    if l.acts = 1 then
      let bytes := schedBytes t kind core aux t.sup.level
      match s.postMoraine d.id bytes with
      | some s1 => s1
      | none =>
        if informational kind t.sup.level ∧ d.mrdesc ≠ 0 ∧ !d.mrBroken then s.countDropped d (va56 d.mrdesc) else s
    else s
  | _, _ => s

/-- Whether a record is one that replay consumes: neither the launch's own nor one that is for information (R380). -/
def consumable (bs : List (BitVec 8)) : Bool :=
  decide (recordType bs ≠ 0x10) &&
  (decide (recordType bs ≠ 0x11) || !informational (fieldAt bs 24 1) (decide (bitsOf (fieldAt bs 25 1) 2 1 = 1)))

/-- The next scheduling record of a replaying thread that enforces a decision, if its position has come (R388). -/
def State.schedNext (s : State) (t : Thread) : Option (Nat × List (BitVec 8)) :=
  match s.launchOf? t.handle, s.dctx? (handleDctx t.handle) with
  | some l, some d =>
    if l.acts = 2 then
      ((s.replayOwn d l (handleDense t.handle) fun bs =>
        decide (recordType bs = 0x11) && consumable bs).1.head?).bind
        fun (i, bs) => if fieldAt bs 16 8 ≤ t.position then some (i, bs) else none
    else none
  | _, _ => none

/-- The fault of the current thread at a decision that no record of it gives: kind 7 where the source is unreadable before its
next scheduling record, kind 5 otherwise (R385, R388). -/
def State.undecided (s : State) : Trouble :=
  let event := s.th.arch.mevents
  match s.myLaunch, s.myDctx with
  | some l, some d =>
    match s.replayOwn d l (handleDense s.th.handle) fun bs => decide (recordType bs = 0x11) && consumable bs with
    | ([], some i) => s.unreadable d l i 0x11 0 event
    | _ => divergence 5 0x11 0x11 0 event 0
  | _, _ => divergence 5 0x11 0x11 0 event 0

/-- Marks a record of a launch's replay source consumed. -/
def State.consume (s : State) (h : Handle) (i : Nat) : State :=
  s.modLaunch (handleDctx h) (handleSlot h) fun l => { l with consumed := l.consumed ++ [i] }

/-- Records of a thread's own that replay has not consumed (R390). -/
def State.leftRecords (s : State) (t : Thread) : Nat :=
  match s.launchOf? t.handle, s.dctx? (handleDctx t.handle) with
  | some l, some d => if l.acts = 2 then (s.replayOwn d l (handleDense t.handle) consumable).1.length else 0
  | _, _ => 0

/-! ### `mrstat` (R381) -/

/-- Threads of a gang of a launch that are to be placed. -/
def State.gangAwaits (s : State) (l : Launch) (g : Nat) : Nat :=
  (s.threads.filter fun t => decide (handleLaunch t.handle = handleLaunch (handleOf l.dc l.slot 0)) &&
    decide (handleDense t.handle / max 1 l.gang = g) && (decide (t.place = .unstarted) || decide (t.place = .saved)) && !t.held && !t.sup.level).length

/-- Whether the next byte that a request writes lies in an L page. -/
def State.nextLogged (s : State) (d : Dctx) (x : Transfer) : Bool :=
  decide (bitsOf x.w0.toNat 10 2 = 0) && (match s.leafOf d (x.w2 + BitVec.ofNat 64 x.done) with
    | .ok w => leafLg w
    | .error _ => false)

/-- Whether anything of a device context waits for ring space (R383): a thread at an event or a decision, records left of an event, an
engine, a home, a firing, or a launch or gang that its record holds up. -/
def State.moraineWaits (s : State) (d : Dctx) : Bool :=
  let rec_ (h : Handle) : Bool := decide (handleDctx h = d.id) && decide (s.actsOn h = 1)
  (s.threads.any fun t => decide (handleDctx t.handle = d.id) && (!t.moraineDebt.isEmpty || t.wait.any fun w => decide (w.kind = .moraine))) ||
  (!s.moraineRoom d 1 &&
    ((s.threads.any fun t => rec_ t.handle &&
        ((t.bxq.head?).any (fun x => x.event.isSome && (x.ended.isSome || (x.started && s.nextLogged d x))) ||
          (t.storesTile && decide (0 < t.tileSectors)))) ||
      (s.remote.any fun r => r.event.isSome && rec_ r.handle) ||
      (d.firing.any fun (a, _) => a.event.isSome && rec_ a.handle))) ||
  s.launches.any fun l => decide (l.dc = d.id) && decide (l.info.mode = 1) &&
    ((decide (l.state = .admitting) && !s.moraineRoom d 1) ||
      (l.waiting.head?).any fun g => decide (0 < s.gangAwaits l g) && !s.moraineRoom d (s.gangAwaits l g))

def State.mrstat (s : State) (d : Dctx) : Nat :=
  (if d.mrHw then 1 else 0) + (if s.moraineWaits d then 2 else 0) + (if s.anyMode d.id 1 then 4 else 0) +
  (if s.anyMode d.id 2 then 8 else 0)

end Sys2Proof.Machine
end

