-- ==== Sys2Proof/Machine/Threads.lean ====
section
/-! DEFINITION. Barrier words (R113, R114), the end of a thread (R290, R390), contexts and their capacity (R27, R28),
and eligible cores (R15, R16). -/

namespace Sys2Proof.Machine

/-! ### Barrier words (R113, R114, R156) -/

/-- A barrier word as read: arrived, departed, generation. -/
structure BarWord where
  arrived  : Nat
  departed : Nat
  gen      : Nat
  deriving DecidableEq, Repr

def barWord (bs : List (BitVec 8)) : BarWord :=
  { arrived := fieldAt bs 0 8, departed := fieldAt bs 8 8, gen := fieldAt bs 16 8 }

def BarWord.bytes (b : BarWord) : List (BitVec 8) := leBytes 8 b.arrived ++ leBytes 8 b.departed ++ leBytes 8 b.gen

/-- Completes the generation when every member has arrived or departed (R113); the sum is taken modulo 2^64, as the fields are
(DESIGN CHOICE, log 150). -/
def BarWord.settle (b : BarWord) (members : Nat) : BarWord × Bool :=
  if (b.arrived + b.departed) % 2 ^ 64 = members then ({ b with arrived := 0, gen := (b.gen + 1) % 2 ^ 64 }, true) else (b, false)

def BarWord.arrive (b : BarWord) (members : Nat) : BarWord × Bool :=
  ({ b with arrived := (b.arrived + 1) % 2 ^ 64 } : BarWord).settle members

/-- A departure; a thread with an arrival in the current generation takes it back in the same RMW. -/
def BarWord.depart (b : BarWord) (members : Nat) (arrivedHere : Bool) : BarWord × Bool :=
  ({ b with
    departed := (b.departed + 1) % 2 ^ 64
    arrived := if arrivedHere then (b.arrived + (2 ^ 64 - 1)) % 2 ^ 64 else b.arrived } : BarWord).settle members

/-- The spans of a barrier word: translated, and checked against no permission (R140). -/
def State.barSpans (s : State) (d : Dctx) (a : BitVec 64) : Except Trouble (List Span) :=
  s.translate d { read := false, write := false, fetch := false, sup := true, window := none } a 24

/-- Barrier words that count a thread: offset in the sync area and members (R113, R114). -/
def barriersOf (t : List Level) (idx : List Nat) : List (Nat × Nat) :=
  ((List.range (t.length + 1)).drop 1).filterMap (fun h =>
    if regionWords t h = 0 then none else some (barrierOffset t idx h, membersAt t h)) ++
  (List.range t.length).flatMap fun i =>
    match t[i]? with
    | none => []
    | some l => (List.range l.domains.length).filterMap fun k =>
        match l.domains[k]? with
        | some m => if m.getLsbD (idx.getD i 0) then some (domainOffset t idx i k, popcount m.toNat 64 * membersAt t i) else none
        | none => none

/-- One RMW on a barrier word by a thread; slice watchpoints see it as a store of the thread (R407). -/
def State.putBar (s : State) (h : Handle) (sp : List Span) (b : BarWord) : State :=
  match s.thread? h with
  | some t => s.put { cls := 1, ident := BitVec.ofNat 32 (t.core.toNat + 8192 * t.slot), handle := h, dup := false } sp b.bytes
  | none => s

/-- Departs a thread from one barrier word; from one that does not translate it does not depart, and nothing tells of it
(DESIGN CHOICE, log 151). -/
def State.departWord (s : State) (d : Dctx) (t : Thread) (addr : BitVec 64) (members : Nat) : State :=
  match s.barSpans d addr with
  | .error _ => s
  | .ok sp =>
    let b := barWord (s.spanBytes sp)
    let here := t.arrivals.any fun (a, g) => decide (a = addr) && decide (g.toNat = b.gen)
    s.putBar t.handle sp (b.depart members here).1

/-- A thread ends (R290, R113): it departs from its barriers, gives up its context, and its launch counts it. -/
def State.endNow (s : State) (h : Handle) : State :=
  match s.thread? h, s.launchOf? h, s.dctx? (handleDctx h) with
  | some t, some l, some d =>
    if t.place = .ended then s
    else
      let s1 := (barriersOf l.info.tree (widFields l.info.tree t.wid.toNat)).foldl
        (fun (a : State) (off, members) => a.departWord d t (l.info.sync + BitVec.ofNat 64 off) members) s
      (s1.modThread h fun t =>
        { t with
          place := .ended, wait := none, parked := none, held := false, convoy := none, runs := [], barHalf := [], arrivals := []
          sliceStop := none, stalledAt := none }).modLaunch l.dc l.slot fun l => { l with ended := l.ended + 1 }
  | _, _, _ => s

/-- The end of a thread: one with replay records or a mismatched device record left over first posts a fault record of
kind 0x06, and ends once that has been posted (R390, R438, R309). -/
def State.endThread (s : State) (h : Handle) : State :=
  match s.thread? h with
  | none => s
  | some t =>
    let left := s.leftRecords t
    if (left = 0 ∧ t.mismatch.isNone) ∨ s.actsOn h ≠ 2 then s.endNow h
    else
      let r := FaultRecord.plain 0x06 0x0B 0x30 h (BitVec.ofNat 64 left)
      (s.queueFault (handleDctx h) r).modThread h fun t => { t with wait := none, parked := some r }

/-! ### Contexts (R27, R28) -/

/-- Whether a thread is ready to issue on its core (R333). -/
def Thread.ready (t : Thread) : Bool := decide (t.place = .resident) && t.wait.isNone && t.parked.isNone && !t.held

/-- Halves of a lane cluster that a thread holds on a vector core. -/
def Thread.halves (t : Thread) : Nat :=
  if t.lgG0 = 11 then 8 else if t.lgG0 = 10 then 4 else if t.deepHeld then 2 else 1

/-- Contexts that a core of a class has for threads that hold so many halves each on a vector core (R27). -/
def CoreClass.contexts : CoreClass → Nat → Nat
  | .vector, n => 8 / n
  | .tensor, _ => 2
  | .control, _ => 4
  | .none, _ => 0

/-- Whether a thread holds a context: it runs on its core, or moves to it. -/
def Thread.holds (t : Thread) : Bool := decide (t.place = .resident) || decide (t.place = .transit)

/-- Threads that hold a context of a core. -/
def State.occupants (s : State) (c : Nat) : List Thread :=
  s.threads.filter fun t => t.holds && decide (t.core.toNat = c)

/-- Clusters of which no half is taken. -/
def wholeClusters (used : BitVec 8) : List Nat := (List.range 4).filter fun k => decide (used.extractLsb' (2 * k) 2 = 0)

/-- Where a thread that holds n halves goes on a vector core: whole clusters, the lowest free ones; or one half: beside a thread
of its own launch, else in a whole cluster, else beside any other (R28, R330; log 139). -/
def lanesFor (n : Nat) (used mates : BitVec 8) : Option (BitVec 8) :=
  if n = 1 then
    let other (i : Nat) : Nat := i / 2 * 2 + (1 - i % 2)
    let half (f : Nat → Bool) : Option Nat := (List.range 8).find? fun i => !used.getLsbD i && f i
    (((half fun i => mates.getLsbD (other i)).orElse fun _ => half fun i => !used.getLsbD (other i)).orElse fun _ =>
      half fun _ => true).map fun i => 1#8 <<< i
  else
    let free := wholeClusters used
    if free.length < n / 2 then none else some ((free.take (n / 2)).foldl (fun m k => m ||| (3#8 <<< (2 * k))) 0)

/-- Halves of clusters that some threads hold. -/
def lanesOf (ts : List Thread) : BitVec 8 := ts.foldl (fun m x => m ||| x.lanes) 0

/-- The halves of clusters that a core has for a thread, its own aside, and 0 off a vector core; none where it has no free context. -/
def State.lanesAt (s : State) (t : Thread) (c : Nat) : Option (BitVec 8) :=
  let others := (s.occupants c).filter fun x => decide (x.handle ≠ t.handle)
  if coreClass c = .vector then
    lanesFor t.halves (lanesOf others) (lanesOf (others.filter fun x => decide (handleLaunch x.handle = handleLaunch t.handle)))
  else if others.length < (coreClass c).contexts 1 then some 0 else none

/-- Whether a core has a free context for a thread, its own aside. -/
def State.fits (s : State) (t : Thread) (c : Nat) : Bool := (s.lanesAt t c).isSome

/-- Contexts that are free on a core for threads that hold n halves each. -/
def State.contextsFree (s : State) (c n : Nat) : Nat :=
  if coreClass c = .vector then
    let used := lanesOf (s.occupants c)
    if n = 1 then 8 - popcount used.toNat 8 else (wholeClusters used).length * 2 / n
  else (coreClass c).contexts 1 - (s.occupants c).length

/-- A thread takes a context of a core: its slot, its halves of clusters, and on a tensor core the die of its window. -/
def Thread.takeContext (t : Thread) (c slot : Nat) (lanes : Option (BitVec 8)) : Thread :=
  { t with
    core := BitVec.ofNat 13 c, slot := slot, lanes := lanes.getD 0
    neveDie := if coreClass c = .tensor then some (BitVec.ofNat 4 (coreDie c)) else t.neveDie }

/-- The lowest free context slot of a core. -/
def State.freeSlot (s : State) (c : Nat) : Nat :=
  let used := (s.occupants c).map (·.slot)
  ((List.range 8).find? fun n => !used.contains n).getD 0

/-! ### Eligible cores (R15, R16) -/

/-- Whether a thread could ever run on a core: its die is in the affinity mask and the partition, and its class can hold
the thread. -/
def State.couldHold (s : State) (t : Thread) (c : Nat) : Bool :=
  match s.launchOf? t.handle, s.dctx? (handleDctx t.handle) with
  | some l, some d =>
    l.info.affin.getLsbD (coreDie c) && s.coreOn d.part c &&
    (decide (coreClass c ≠ .tensor) || decide (t.lgG0 = 9)) && (!t.deepHeld || decide (coreClass c = .vector))
  | _, _ => false

/-- Cores of the module, and their die's first and last. -/
def allCores : List Nat := List.range 4672

/-- Whether some core could ever be eligible for classes that f selects: one core for each pod is enough. -/
def State.anyCore (s : State) (t : Thread) (f : CoreClass → Bool) : Bool :=
  (List.range 292).any fun p => f (coreClass (16 * p)) && s.couldHold t (16 * p)

/-- The nearest core that f selects and that has a free context for a thread; ties go to the lower number. -/
def State.nearest (s : State) (t : Thread) (f : CoreClass → Bool) : Option Nat :=
  (allCores.foldl (fun (best : Option (Nat × Nat)) c =>
    if f (coreClass c) && s.couldHold t c && s.fits t c then
      let d := travelTime t.core.toNat c
      match best with
      | some (b, _) => if d < b then some (d, c) else best
      | none => some (d, c)
    else best) none).map (·.2)

end Sys2Proof.Machine
end

