-- ==== Sys2Proof/Machine/Registers.lean ====
section
/-! DEFINITION. The control registers that belong to a thread, by index: what each reads as and how it is stored
(R61, R284, R396). Access rules and effects of writes stand in Crs.lean. -/

namespace Sys2Proof.Machine

/-- How a register is accessed (R60). -/
inductive CrKind where
  | ro | rw | wo
  deriving DecidableEq, Repr

/-- Access of a user index, none when unassigned (R61). -/
def userKind (x : Nat) : Option CrKind :=
  if x = 0x000 ∨ x = 0x004 ∨ x = 0x030 ∨ x = 0x031 ∨ x = 0x070 ∨ x = 0x0F0 ∨ x = 0x0F1 then some .ro
  else if (1 ≤ x ∧ x ≤ 6) ∨ (8 ≤ x ∧ x ≤ 0xA) ∨ x = 0x010 ∨ x = 0x011 ∨ (0x020 ≤ x ∧ x ≤ 0x027) ∨ x = 0x040 ∨
      (0x050 ≤ x ∧ x ≤ 0x057) ∨ x = 0x060 ∨ x = 0x080 ∨ x = 0x081 then some .rw
  else none

/-- `migctl` as it reads. -/
def Arch.migctlWord (a : Arch) : Nat :=
  a.migctl.toNat + (if a.anchor = .none then 0 else 4 + a.anchor.code * 8)

/-- What a user register of a thread reads as; `vcount` reads 0 on the control class, where the
grant is kept (R15, R61). -/
def Thread.userCr (t : Thread) (cyc x : Nat) : Nat :=
  let a := t.arch
  match x with
  | 0x000 => if t.cls = .control then 0 else a.vcount.toNat
  | 0x001 => a.vform.toNat
  | 0x002 => a.vrot.toNat
  | 0x003 => a.vslip.toNat
  | 0x004 => a.vdeep.toNat
  | 0x005 => a.vresume.toNat
  | 0x006 => a.vsnow.toNat
  | 0x008 => a.vcgroup.toNat
  | 0x009 => a.vcop.toNat
  | 0x00A => a.vcstride.toNat
  | 0x010 => a.fround.toNat
  | 0x011 => a.fstat.toNat
  | 0x020 => a.tfa.toNat
  | 0x021 => a.tfb.toNat
  | 0x022 => a.tsa.toNat
  | 0x023 => a.tsb.toNat
  | 0x024 => a.tma.toNat
  | 0x025 => a.tstr.toNat
  | 0x026 => a.tresume.toNat
  | 0x027 => a.tchk.toNat
  | 0x030 => a.xframe.toNat
  | 0x031 => a.xbase.toNat
  | 0x040 => a.slv.toNat
  | 0x050 => a.snowb[0].toNat
  | 0x051 => a.snowb[1].toNat
  | 0x052 => a.snowb[2].toNat
  | 0x053 => a.snowb[3].toNat
  | 0x054 => a.snowb[4].toNat
  | 0x055 => a.snowb[5].toNat
  | 0x056 => a.snowb[6].toNat
  | 0x057 => a.snowb[7].toNat
  | 0x060 => a.rngkey.toNat
  | 0x070 => a.mevents.toNat
  | 0x080 => a.migctlWord
  | 0x081 => a.mighold.toNat
  | 0x0F0 => cyc
  | 0x0F1 => a.retired.toNat
  | _ => 0

/-- Stores the assigned fields of a user register, whatever the access rules say; `cyc` is not stored. -/
def Arch.putCr (a : Arch) (x : Nat) (v : BitVec 64) : Arch :=
  match x with
  | 0x000 => a.setVcount (v.toNat % 4096)
  | 0x001 => { a with vform := v.setWidth 4 }
  | 0x002 => { a with vrot := v.setWidth 5 }
  | 0x003 => { a with vslip := v.setWidth 4 }
  | 0x004 => { a with vdeep := v.setWidth 8 }
  | 0x005 => { a with vresume := v.setWidth 9 }
  | 0x006 => { a with vsnow := v.setWidth 4 }
  | 0x008 => { a with vcgroup := if v.setWidth 5 = 0#5 then 0 else v.setWidth 9 }
  | 0x009 => { a with vcop := v.setWidth 8 }
  | 0x00A => { a with vcstride := v.setWidth 48 }
  | 0x010 => { a with fround := v.setWidth 3 }
  | 0x011 => { a with fstat := v.setWidth 5 }
  | 0x020 => { a with tfa := v.setWidth 4 }
  | 0x021 => { a with tfb := v.setWidth 4 }
  | 0x022 => { a with tsa := v.setWidth 56 }
  | 0x023 => { a with tsb := v.setWidth 56 }
  | 0x024 => { a with tma := v.setWidth 56 }
  | 0x025 => { a with tstr := v.setWidth 19 }
  | 0x026 => { a with tresume := v.setWidth 5 }
  | 0x027 => { a with tchk := v.setWidth 1 }
  | 0x030 => { a with xframe := v.setWidth 13 }
  | 0x031 => { a with xbase := v }
  | 0x040 => { a with slv := v.setWidth 7 }
  | 0x050 => { a with snowb := a.snowb.set 0 (snow v) }
  | 0x051 => { a with snowb := a.snowb.set 1 (snow v) }
  | 0x052 => { a with snowb := a.snowb.set 2 (snow v) }
  | 0x053 => { a with snowb := a.snowb.set 3 (snow v) }
  | 0x054 => { a with snowb := a.snowb.set 4 (snow v) }
  | 0x055 => { a with snowb := a.snowb.set 5 (snow v) }
  | 0x056 => { a with snowb := a.snowb.set 6 (snow v) }
  | 0x057 => { a with snowb := a.snowb.set 7 (snow v) }
  | 0x060 => { a with rngkey := v }
  | 0x070 => { a with mevents := v }
  | 0x080 =>
    { a with
      migctl := v.setWidth 2
      anchor := if v.getLsbD 2 then CoreClass.ofCode (v.extractLsb' 3 2).toNat else .none }
  | 0x081 => { a with mighold := v.setWidth 32 }
  | 0x0F1 => { a with retired := v }
  | _ => a
where
  snow (v : BitVec 64) : BitVec 58 := v.setWidth 58 &&& 0x3FFFFFFFFFFFFF8

/-- Access of a supervisor index of a thread or its device context, none when unassigned (R284, R309, R382, R396). -/
def supKind (x : Nat) : Option CrKind :=
  if x = 0x820 ∨ x = 0x821 ∨ x = 0x832 ∨ x = 0x833 ∨ x = 0xA05 ∨ (0xA58 ≤ x ∧ x ≤ 0xA5C) then some .ro
  else if x = 0x834 ∨ x = 0xA04 then some .wo
  else if (0x800 ≤ x ∧ x ≤ 0x806) ∨ (0x808 ≤ x ∧ x ≤ 0x80B) ∨ (0x810 ≤ x ∧ x ≤ 0x812) ∨ x = 0x830 ∨ x = 0x831 ∨
      (0xA00 ≤ x ∧ x ≤ 0xA03) ∨ x = 0xA40 ∨ (0xA44 ≤ x ∧ x ≤ 0xA4B) ∨ x = 0xA50 ∨ x = 0xA51 ∨ x = 0xA60 ∨
      (0xA61 ≤ x ∧ x ≤ 0xA68) then some .rw
  else none

/-- `sinfo` of a thread (R284). -/
def Thread.sinfo (t : Thread) (part : PartId) : Nat :=
  (handleDctx t.handle).toNat + part.toNat * 2 ^ 5 + t.cls.code * 2 ^ 7 + t.core.toNat * 2 ^ 9

/-- What a supervisor register of a thread reads as, but for `ipend` bit 8, `sinfo` and the shared registers. -/
def Thread.supCr (t : Thread) (x : Nat) : Nat :=
  let u := t.sup
  match x with
  | 0x800 => u.sstat.toNat
  | 0x801 => u.tvec.toNat * 4
  | 0x802 => u.tpc.toNat
  | 0x803 => u.tcause.toNat
  | 0x804 => u.tdetail.toNat
  | 0x805 => u.taddr.toNat
  | 0x806 => u.tinfo.toNat
  | 0x808 => u.sscr[0].toNat
  | 0x809 => u.sscr[1].toNat
  | 0x80A => u.sscr[2].toNat
  | 0x80B => u.sscr[3].toNat
  | 0x810 => u.ipend.toNat
  | 0x811 => u.imask.toNat
  | 0x812 => u.tcmp.toNat
  | 0x820 => t.handle.toNat
  | _ => 0

/-- Stores a supervisor register of a thread. -/
def Sup.putCr (u : Sup) (x : Nat) (v : BitVec 64) : Sup :=
  match x with
  | 0x800 => { u with sstat := v.setWidth 5 }
  | 0x801 => { u with tvec := v.extractLsb' 2 54 }
  | 0x802 => { u with tpc := v }
  | 0x803 => { u with tcause := v.setWidth 8 }
  | 0x804 => { u with tdetail := v }
  | 0x805 => { u with taddr := v }
  | 0x806 => { u with tinfo := v.setWidth 13 }
  | 0x808 => { u with sscr := u.sscr.set 0 v }
  | 0x809 => { u with sscr := u.sscr.set 1 v }
  | 0x80A => { u with sscr := u.sscr.set 2 v }
  | 0x80B => { u with sscr := u.sscr.set 3 v }
  | 0x810 => { u with ipend := v.setWidth 12 }
  | 0x811 => { u with imask := v.setWidth 12 }
  | 0x812 => { u with tcmp := v }
  | _ => u

/-- What a debug register of a thread reads as (R396). -/
def Dbg.cr (d : Dbg) (x : Nat) : Nat :=
  match x with
  | 0xA40 => d.dctl.toNat
  | 0xA44 => d.dbp[0].toNat * 4
  | 0xA45 => d.dbp[1].toNat * 4
  | 0xA46 => d.dbp[2].toNat * 4
  | 0xA47 => d.dbp[3].toNat * 4
  | 0xA48 => d.dwa[0].toNat
  | 0xA49 => d.dwa[1].toNat
  | 0xA4A => d.dwc[0].toNat
  | 0xA4B => d.dwc[1].toNat
  | 0xA50 => d.dtdesc.toNat
  | 0xA51 => d.period.toNat + d.cnt.toNat * 2 ^ 32
  | 0xA58 => d.dmigt.toNat
  | 0xA59 => d.dmigs.toNat
  | 0xA5A => d.dtrip.toNat
  | 0xA5B => d.dprox.toNat
  | 0xA5C => d.dmstall.toNat
  | _ => 0

/-- Stores a debug register of a thread. -/
def Dbg.putCr (d : Dbg) (x : Nat) (v : BitVec 64) : Dbg :=
  match x with
  | 0xA40 => { d with dctl := v.setWidth 11 }
  | 0xA44 => { d with dbp := d.dbp.set 0 (v.extractLsb' 2 54) }
  | 0xA45 => { d with dbp := d.dbp.set 1 (v.extractLsb' 2 54) }
  | 0xA46 => { d with dbp := d.dbp.set 2 (v.extractLsb' 2 54) }
  | 0xA47 => { d with dbp := d.dbp.set 3 (v.extractLsb' 2 54) }
  | 0xA48 => { d with dwa := d.dwa.set 0 (v.setWidth 56) }
  | 0xA49 => { d with dwa := d.dwa.set 1 (v.setWidth 56) }
  | 0xA4A => { d with dwc := d.dwc.set 0 (v.setWidth 7) }
  | 0xA4B => { d with dwc := d.dwc.set 1 (v.setWidth 7) }
  | 0xA50 => { d with dtdesc := v.setWidth 56 }
  | 0xA51 => { d with period := v.setWidth 24, cnt := v.extractLsb' 32 24 }
  | 0xA58 => { d with dmigt := v.setWidth 32 }
  | 0xA59 => { d with dmigs := v.setWidth 32 }
  | 0xA5A => { d with dtrip := v.setWidth 32 }
  | 0xA5B => { d with dprox := v.setWidth 32 }
  | 0xA5C => { d with dmstall := v }
  | _ => d

end Sys2Proof.Machine
end

