-- ==== Sys2Proof/Machine/Image.lean ====
section
/-! DEFINITION. Save areas: the image of a thread, region by region, its checks and its restoration (R339 to R341). -/

namespace Sys2Proof.Machine

def zeros (n : Nat) : List (BitVec 8) := List.replicate n 0

/-- The state byte of the header. -/
def Thread.stateCode (t : Thread) : Nat :=
  if t.place = .unstarted then 4
  else if t.held then 2
  else if (match t.place with
    | .fifo _ => true
    | _ => false) then 3
  else if t.parked.isSome then 1
  else
    match t.wait with
    | some { kind := .page .., .. } => 1
    | _ => 0

/-- The generation of a BAR or BARD in its wait half (R158). -/
def Thread.barrierGen (t : Thread) : Option Nat :=
  (t.barHalf.find? fun (pc, _) => decide (pc = t.arch.pc)).map fun (_, g) => g.toNat % 2 ^ 32

/-- Header of the image. -/
def Thread.header (t : Thread) : List (BitVec 8) :=
  leBytes 2 1 ++ [BitVec.ofNat 8 t.lastClass.code, BitVec.ofNat 8 t.stateCode] ++ leBytes 4 t.handle.toNat ++
  leBytes 8 t.arch.pc.toNat ++
  [if t.sup.level then 1 else 0, BitVec.ofNat 8 t.lgG0, BitVec.ofNat 8 t.lgG,
    BitVec.ofNat 8 ((if t.deepHeld then 1 else 0) + (if t.neveBack then 2 else 0) + (if t.barrierGen.isSome then 4 else 0))] ++
  leBytes 4 (t.barrierGen.getD 0) ++ (t.mix.toList.flatMap fun m => leBytes 4 m.toNat) ++ leBytes 8 t.lastEvent.toNat ++ zeros 192

/-- Loop stack region. -/
def Thread.loopBytes (t : Thread) : List (BitVec 8) :=
  let es := t.arch.loops.take 6
  (es.flatMap fun e => leBytes 8 e.start.toNat ++ leBytes 8 e.last.toNat ++ leBytes 8 e.count.toNat) ++
  zeros (24 * (6 - es.length)) ++ leBytes 8 es.length ++ zeros 104

/-- Block-transfer region. -/
def Thread.fifoBytes (t : Thread) : List (BitVec 8) :=
  let rs := t.bxq.take 8
  (rs.flatMap fun r => leBytes 8 r.w0.toNat ++ leBytes 8 r.w1.toNat ++ leBytes 8 r.w2.toNat ++ leBytes 8 r.w3.toNat ++
    leBytes 8 r.done ++ zeros 24) ++ zeros (64 * (8 - rs.length))

/-- The control registers marked S, by index, and where the image holds the first (R61, R339). -/
def savedCrs : List Nat := [0x20, 0x21, 0x22, 0x23, 0x24, 0x25, 0x26, 0x27, 0x30, 0x31]
def savedCrsAt : Nat := 1024

/-- The image's bytes from the first register marked S to the last. -/
def Arch.savedCrBytes (a : Arch) : List (BitVec 8) :=
  (List.range 18).flatMap fun i => leBytes 8 (({ Thread.start with arch := a } : Thread).userCr 0 (0x20 + i))

/-- Registers marked S from those bytes. -/
def Arch.withSavedCrs (a : Arch) (bs : List (BitVec 8)) : Arch :=
  savedCrs.foldl (fun a x => a.putCr x (BitVec.ofNat 64 (leNat ((bs.drop (8 * (x - 0x20))).take 8)))) a

/-- Header to block-transfer FIFO: what every class writes (R340). -/
def Thread.commonBytes (t : Thread) (part : PartId) (cyc : Nat) : List (BitVec 8) :=
  t.header ++ (t.arch.g.toList.flatMap fun x => leBytes 8 x.toNat) ++ t.loopBytes ++
  ((List.range 256).flatMap fun x => leBytes 8 (t.userCr cyc x)) ++
  ((List.range 64).flatMap fun i => leBytes 8 (if i = 0x21 then t.sinfo part
    else if i = 0x10 then t.sup.ipend.toNat % 256 + t.sup.ipend.toNat / 512 * 512 + (if t.sup.tcmp.toNat ≤ cyc then 256 else 0)
    else t.supCr (0x800 + i))) ++
  ((List.range 64).flatMap fun i => leBytes 8 (t.dbg.cr (0xA40 + i))) ++ t.fifoBytes

/-- Predicates and vector registers, by physical number; bits at and above G are zero. -/
def Thread.vectorBytes (t : Thread) : List (BitVec 8) :=
  (t.arch.p.toList.zip (List.range 8)).flatMap (fun (x, i) =>
    leBytes 32 (if i = 0 then 2 ^ t.arch.vcount.toNat - 1 else x.toNat)) ++
  t.arch.v.toList.flatMap fun x => leBytes 256 (if t.lgG0 = 0 then 0 else x.toNat % 2 ^ 2 ^ t.lgG0)

/-- The slot table (R259). -/
def Thread.slotBytes (t : Thread) : List (BitVec 8) := t.slots.toList.flatMap fun x => leBytes 16 x.toNat

/-- Accumulators, slot table and exchange region. -/
def Thread.tensorBytes (t : Thread) : List (BitVec 8) :=
  (t.arch.acc.toList.flatMap fun x => leBytes 4096 x.toNat) ++ t.slotBytes ++
  leBytes 32 t.fresh.toNat ++ zeros 288

def Thread.deepBytes (t : Thread) : List (BitVec 8) := t.arch.deep.toList.flatMap fun x => leBytes 256 x.toNat

/-- The whole image (R339). -/
def Thread.imageBytes (t : Thread) (l : Launch) (part : PartId) (cyc : Nat) : List (BitVec 8) :=
  t.commonBytes part cyc ++ t.vectorBytes ++ t.tensorBytes ++ (if l.info.deep then t.deepBytes else [])

/-- Regions that leaving a class writes, with their offsets (R340). -/
def Thread.regions (t : Thread) (part : PartId) (cyc : Nat) : CoreClass → List (Nat × List (BitVec 8))
  | .control => [(0, t.commonBytes part cyc)]
  | .vector => [(0, t.commonBytes part cyc), (4352, t.vectorBytes)] ++ (if t.deepHeld then [(58176, t.deepBytes)] else [])
  | .tensor => [(0, t.commonBytes part cyc), (4352, t.vectorBytes), (20992, t.tensorBytes)]
  | .none => []

/-- Parts of a thread's image, as offsets, that hold poisoned words (R339, R345). -/
def RegPoison.parts (r : RegPoison) : List (Nat × Nat) :=
  let bits (n off w x : Nat) : List (Nat × Nat) :=
    if x = 0 then [] else (List.range n).filterMap fun j => if x.testBit j then some (off + w * j, off + w * j + w) else none
  bits 32 256 8 r.g.toNat ++ bits 8 4352 32 r.p.toNat ++ (r.v.toList.zipIdx.flatMap fun (x, k) => bits 32 (4608 + 256 * k) 8 x.toNat) ++
  (r.acc.toList.zipIdx.flatMap fun (x, k) => bits 1024 (20992 + 4096 * k) 4 x.toNat) ++
  r.deep.toList.zipIdx.flatMap fun (x, k) => bits 32 (58176 + 256 * k) 8 x.toNat

/-- Poisons the sectors that hold some parts, given as offsets, of what stands at spans from an offset on. -/
def State.poisonParts (s : State) (ps : List (Nat × Nat)) : List Span → Nat → State
  | [], _ => s
  | x :: t, o =>
    let qs := ps.flatMap fun (lo, hi) =>
      let b := max lo o
      let e := min hi (o + x.len)
      if b < e then sectorsOf (x.key + (b - o)) (e - b) else []
    ({ s with poison := qs.foldl (fun p q => insertNat q p) s.poison } : State).poisonParts ps t (o + x.len)

/-- Writes regions of an image, with poison in some of its parts (R347); a region whose page does not translate is not
written. -/
def State.writeRegions (s : State) (d : Dctx) (a : BitVec 64) (ps : List (Nat × Nat)) (rs : List (Nat × List (BitVec 8))) : State :=
  rs.foldl (fun (acc : State) (off, bs) =>
    match acc.saveSpans d (a + BitVec.ofNat 64 off) bs.length with
    | .ok sp => if ps.isEmpty then acc.devicePut sp bs else (acc.devicePut sp bs).poisonParts ps sp off
    | .error _ => acc) s

/-- A thread's user state with the registers marked S as its save area holds them, where its class has none (R66). -/
def State.archOf (s : State) (t : Thread) : Arch :=
  if t.cls = .tensor then t.arch
  else
    match s.areaSpans t.handle savedCrsAt 144 with
    | some sp => t.arch.withSavedCrs (s.spanBytes sp)
    | none => t.arch

/-- Leaving a core: névé sectors are written back when it is a tensor core (R19, R235). -/
def Thread.leaveCore (t : Thread) : Thread :=
  if t.cls = .tensor then { t with neveDirty := [], neveBack := true, lastClass := .tensor, stopAsked := none }
  else { t with lastClass := t.cls, stopAsked := none }

/-- Writes regions of a thread's save area, and keeps what stands in it from then on. -/
def State.writeArea (s : State) (h : Handle) (rs : Thread → PartId → List (Nat × List (BitVec 8))) : State :=
  match s.thread? h, s.launchOf? h, s.dctx? (handleDctx h) with
  | some t0, some l, some d =>
    let t := { t0 with arch := s.archOf t0 }
    (s.writeRegions d (l.saveAddr (handleDense h)) t.poison.parts (rs t d.part)).modThread h fun t =>
      { t with areaHead := t.header.take 64, areaFifo := t.bxq.length }
  | _, _, _ => s

/-- Writes what leaving a class writes of a thread's state. -/
def State.writeSave (s : State) (h : Handle) (cls : CoreClass) : State := s.writeArea h fun t p => t.regions p s.cyc cls

/-! ### Restoration -/

def numAt (bs : List (BitVec 8)) (off n : Nat) : Nat := leNat ((bs.drop off).take n)

/-- n numbers of w bytes from an offset. -/
def numsAt (bs : List (BitVec 8)) (off w n : Nat) : List Nat := (chunks w (n + 1) ((bs.drop off).take (w * n))).map leNat

/-- A vector of n values from a list, the rest kept. -/
def fillVector {α : Type} {n : Nat} (v : Vector α n) (xs : List α) : Vector α n :=
  v.mapIdx fun i x => (xs[i]?).getD x

/-- What common bytes restore: registers, loop stack, control registers, debug registers, FIFO requests. -/
def Thread.loadCommon (t : Thread) (bs : List (BitVec 8)) : Thread :=
  let arch := { t.arch with
    pc := BitVec.ofNat 64 (numAt bs 8 8)
    g := fillVector t.arch.g ((numsAt bs 256 8 32).map (BitVec.ofNat 64))
    loops := (List.range (min 6 (numAt bs 656 8))).map fun i =>
      { start := BitVec.ofNat 64 (numAt bs (512 + 24 * i) 8), last := BitVec.ofNat 64 (numAt bs (520 + 24 * i) 8)
        count := BitVec.ofNat 32 (numAt bs (528 + 24 * i) 4) } }
  let arch := ((List.range 256).zip (numsAt bs 768 8 256)).foldl (fun (a : Arch) (x, v) =>
    if x = 0 ∧ numAt bs 2 1 = 1 then a else a.putCr x (BitVec.ofNat 64 v)) arch
  let sup := ((List.range 64).zip (numsAt bs 2816 8 64)).foldl (fun (u : Sup) (x, v) => u.putCr (0x800 + x) (BitVec.ofNat 64 v)) t.sup
  let dbg := ((List.range 64).zip (numsAt bs 3328 8 64)).foldl (fun (u : Dbg) (x, v) => u.putCr (0xA40 + x) (BitVec.ofNat 64 v)) t.dbg
  -- the requests that are left are the last ones of those that were saved
  let fifo := t.bxq.zipIdx.map fun (r, i) =>
    let i := i + (t.areaFifo - t.bxq.length)
    if 8 ≤ i ∨ r.started then r else
    { r with
      w0 := BitVec.ofNat 64 (numAt bs (3840 + 64 * i) 8), w1 := BitVec.ofNat 64 (numAt bs (3848 + 64 * i) 8)
      w2 := BitVec.ofNat 64 (numAt bs (3856 + 64 * i) 8), w3 := BitVec.ofNat 64 (numAt bs (3864 + 64 * i) 8)
      done := numAt bs (3872 + 64 * i) 8 }
  { t with
    arch := { arch with g := arch.g.set 0 0 }
    barHalf := if decide (bitsOf (numAt bs 19 1) 2 1 = 1) then [(arch.pc, BitVec.ofNat 64 (numAt bs 20 4))] else []
    sup := { sup with level := decide (numAt bs 16 1 = 1) }
    dbg := dbg, bxq := fifo
    lastClass := CoreClass.ofCode (numAt bs 2 1), lgG := numAt bs 18 1
    mix := fillVector t.mix ((numsAt bs 24 4 8).map (BitVec.ofNat 32))
    lastEvent := BitVec.ofNat 64 (numAt bs 56 8) }

/-- What the predicate and vector regions restore; the offset is that of the predicates. Predicates are masked by `vcount` as it is
at the restore, so bits between a lower count, set and raised again on a control core, and that count come back (DESIGN
CHOICE, log 147). -/
def Thread.loadVector (t : Thread) (bs : List (BitVec 8)) : Thread :=
  { t with arch :=
    { t.arch with
      p := (fillVector t.arch.p ((numsAt bs 0 32 8).map fun x => BitVec.ofNat 256 (x % 2 ^ t.arch.vcount.toNat))).set 0 0
      v := fillVector t.arch.v ((numsAt bs 256 256 64).map (BitVec.ofNat 2048)) } }

/-- What the tensor regions restore. -/
def Thread.loadTensor (t : Thread) (bs : List (BitVec 8)) : Thread :=
  { t with
    arch := { t.arch with acc := fillVector t.arch.acc ((numsAt bs 0 4096 8).map (BitVec.ofNat 32768)) }
    slots := fillVector t.slots ((numsAt bs 32768 16 256).map (BitVec.ofNat 128))
    fresh := BitVec.ofNat 256 (numAt bs 36864 32) }

def Thread.loadDeep (t : Thread) (bs : List (BitVec 8)) : Thread :=
  { t with arch := { t.arch with deep := fillVector t.arch.deep ((numsAt bs 0 256 192).map (BitVec.ofNat 2048)) } }

/-- Bytes of an image from its start that a class holds, the deep file aside (R340). -/
def CoreClass.areaBytes : CoreClass → Nat
  | .vector => 20992
  | .tensor => 58176
  | _ => 4352

/-- Whether a control register's slot holds only assigned bits and values (R7, R61, R284, R396): what it would read as after the value
is stored. What `vcount`, `cyc`, `ipend` bit 8 and `sinfo` hold is the device's. -/
def crSlotOk (x v : Nat) : Bool :=
  let t := Thread.start
  if x < 0x100 then
    if x = 0 then decide (v < 4096)
    else if x = 0xF0 then true
    else
      decide (({ t with arch := t.arch.putCr x (BitVec.ofNat 64 v) } : Thread).userCr 0 x = v) &&
      (match x with
       | 0x001 => decide (v ≤ 11)
       | 0x006 => decide (v ≤ 8)
       | 0x009 => decide (v % 16 ≤ 5) && decide (v / 16 ≤ 11)
       | 0x010 => decide (v ≤ 4)
       | _ => true)
  else if x = 0x820 then decide (v < 2 ^ 32)
  else if x = 0x821 then decide (v < 2 ^ 22)
  else if x < 0xA40 then decide (({ t with sup := t.sup.putCr x (BitVec.ofNat 64 v) } : Thread).supCr x = v)
  else decide ((t.dbg.putCr x (BitVec.ofNat 64 v)).cr x = v) && (decide (x ≠ 0xA4A ∧ x ≠ 0xA4B) || decide (v % 32 ≤ 16))

/-- Whether the control-register slots of an image hold only assigned bits and values. -/
def crSlotsOk (bs : List (BitVec 8)) : Bool :=
  (((List.range 256).zip (numsAt bs 768 8 256)).all fun (x, v) => crSlotOk x v) &&
  (((List.range 64).zip (numsAt bs 2816 8 64)).all fun (i, v) => crSlotOk (0x800 + i) v) &&
  ((List.range 64).zip (numsAt bs 3328 8 64)).all fun (i, v) => crSlotOk (0xA40 + i) v

/-- Whether the reserved fields of the common regions are zero, and their coded fields hold assigned values (R7, R339): of the header,
the loop stack, the control registers and the FIFO's slots. -/
def commonReservedZero (bs : List (BitVec 8)) : Bool :=
  let zero (lo n : Nat) : Bool := ((bs.drop lo).take n).all fun b => decide (b = 0)
  zero 64 192 && zero 664 104 && decide (numAt bs 19 1 < 8) && decide (numAt bs 656 8 ≤ 6) &&
  ((List.range 6).all fun i => decide (numAt bs (528 + 24 * i) 8 < 2 ^ 32)) &&
  decide (numAt bs 18 1 = 0 ∨ (7 ≤ numAt bs 18 1 ∧ numAt bs 18 1 ≤ 11)) && crSlotsOk bs &&
  ((chunks 64 9 ((bs.drop 3840).take 512)).all fun r => (r.drop 40).all fun b => decide (b = 0))

/-- Whether the bits of the vector registers at and above the grant are zero; the offset is that of the predicates. -/
def vectorReservedZero (lgG0 : Nat) (bs : List (BitVec 8)) : Bool :=
  (numsAt bs 256 256 64).all fun x => decide (x < if lgG0 = 0 then 1 else 2 ^ 2 ^ lgG0)

/-- Whether the reserved fields of a tensor region are zero: of slot-table entries, and past the fresh bits (R259, R339). -/
def tensorReservedZero (bs : List (BitVec 8)) : Bool :=
  ((chunks 16 257 ((bs.drop 32768).take 4096)).all fun e =>
    decide ((e.drop 7).take 1 = [] ∨ numAt e 7 1 < 8) && (e.drop 9).all fun b => decide (b = 0)) &&
  (((bs.drop 36896).take 288).all fun b => decide (b = 0))

/-- Whether the regions of an image that a class holds keep R7. -/
def imageReservedZero (k : CoreClass) (lgG0 : Nat) (bs : List (BitVec 8)) : Bool :=
  commonReservedZero bs && (decide (k ≠ .vector ∧ k ≠ .tensor) || vectorReservedZero lgG0 (bs.drop 4352)) &&
  (decide (k ≠ .tensor) || tensorReservedZero (bs.drop 20992))

/-- Checks of an image that CTXLOAD copies into a held thread: version, class, state, handle, reserved fields
(R7, R293, R340). -/
def imageFits (t : Thread) (bs : List (BitVec 8)) : Bool :=
  decide (numAt bs 0 2 = 1) && decide (numAt bs 2 1 ≤ 3) && decide (numAt bs 3 1 ≤ 4) && decide (numAt bs 4 4 = t.handle.toNat) &&
  decide (numAt bs 16 1 ≤ 1) && decide (numAt bs 17 1 = t.lgG0) && imageReservedZero .tensor t.lgG0 bs

/-- Parts of an access, as offsets, that lie in poisoned sectors. -/
def poisonRanges (p : List Nat) : List Span → Nat → List (Nat × Nat)
  | [], _ => []
  | x :: t, o =>
    ((sectorsOf x.key x.len).filter fun q => p.contains q).map (fun q =>
      (o + (q * 48 - x.key), min (o + x.len) (o + (q * 48 + 48 - x.key)))) ++ poisonRanges p t (o + x.len)

/-- Which of n words of w bytes from an offset lie in poisoned parts, as a mask. -/
def badWords (rs : List (Nat × Nat)) (off w n : Nat) : Nat :=
  ((List.range n).filter fun j => rs.any fun (lo, hi) => decide (lo < off + w * j + w) && decide (off + w * j < hi)).foldl
    (fun a j => a + 2 ^ j) 0

/-- Poison marks with those that a save area brings. -/
def RegPoison.withArea (r : RegPoison) (rs : List (Nat × Nat)) : RegPoison :=
  if rs.isEmpty then r
  else
    { g := r.g ||| BitVec.ofNat 32 (badWords rs 256 8 32)
      p := r.p ||| BitVec.ofNat 8 (badWords rs 4352 32 8)
      v := r.v.mapIdx fun k x => x ||| BitVec.ofNat 32 (badWords rs (4608 + 256 * k) 8 32)
      acc := r.acc.mapIdx fun k x => x ||| BitVec.ofNat 1024 (badWords rs (20992 + 4096 * k) 4 1024)
      deep := r.deep.mapIdx fun k x => x ||| BitVec.ofNat 32 (badWords rs (58176 + 256 * k) 8 32) }

/-- Reads the regions that a class holds and that the thread's former class had left in the save area, with their poison (R19,
R65, R66, R341, R347). The answer says whether they keep R7 (R339). -/
def State.readSave (s : State) (h : Handle) (from_ to_ : CoreClass) : State × Bool :=
  match s.thread? h with
  | none => (s, true)
  | some t =>
    let get (off n : Nat) : Option (List (BitVec 8) × RegPoison) :=
      (s.areaSpans h off n).map fun sp => (s.spanBytes sp, RegPoison.clear.withArea (poisonRanges s.poison sp off))
    let (t1, ok1) := match (if to_ ≠ .control ∧ from_ = .control then get 4352 16640 else none) with
      | some (bs, r) => ({ t.loadVector bs with poison := { t.poison with v := r.v, p := r.p } }, vectorReservedZero t.lgG0 bs)
      | none => (t, true)
    let back := decide (to_ = .tensor) && (decide (from_ = .control) || decide (from_ = .vector))
    let (t2, ok2) := match (if back then get savedCrsAt 144 else none) with
      | some (bs, _) =>
        ({ t1 with arch := t1.arch.withSavedCrs bs },
          (List.range 18).all fun i => crSlotOk (0x20 + i) (leNat ((bs.drop (8 * i)).take 8)))
      | none => (t1, true)
    match (if back then get 20992 37184 else none) with
    | some (bs, r) =>
      let t3 := t2.loadTensor bs
      (s.modThread h fun _ => { t3 with poison := { t3.poison with acc := r.acc } }, ok1 && ok2 && tensorReservedZero bs)
    | none => (s.modThread h fun _ => t2, ok1 && ok2)

end Sys2Proof.Machine
end

