-- ==== Sys2Proof/Machine/Moves.lean ====
section
/-! DEFINITION. Feature groups of instructions (R12), and how threads move between cores: trap migrations, scheduler
migrations, the arbiter's FIFO, anchoring and proxies (R15 to R26, R283, R336, R413). -/

namespace Sys2Proof.Machine

/-- The feature group of an instruction (R12); hints, NOP and unassigned words are group B, events have none of their own
and count as B. -/
def groupOf (i : Instr) : Group :=
  match i with
  | .tret | .idle => .s
  | .fadd .. | .fsub .. | .fmul .. | .fdiv .. | .fsqrt .. | .fmin .. | .fmax .. | .fcmp .. | .fclass .. | .fsgn .. | .fcvt ..
  | .fcvtFromInt .. | .fma .. | .fms .. => .f
  | .vadd .. | .vsub .. | .vmul .. | .vmulh .. | .vmulhn .. | .vmin .. | .vmax .. | .vminn .. | .vmaxn .. | .vand .. | .vor ..
  | .vxor .. | .vsll .. | .vsrl .. | .vsra .. | .vmacc .. | .vsadd .. | .vssub .. | .vsaddn .. | .vssubn .. | .vabs .. | .vclz ..
  | .vpopc .. | .vfadd .. | .vfsub .. | .vfmul .. | .vfmin .. | .vfmax .. | .vfabs .. | .vfneg .. | .vfma .. | .vfnma .. | .vcmp ..
  | .vfcmp .. | .vsel .. | .plog .. | .pcnt .. | .bpany .. | .bpnone .. | .vmov .. | .vcvtTo .. | .vcvtFrom .. | .vidx .. | .vext ..
  | .vld .. | .vst .. | .vlds .. | .vsts .. | .vldf .. | .vaddScalar .. | .vsubScalar .. | .vmulScalar .. | .vminScalar ..
  | .vmaxScalar .. | .vminnScalar .. | .vmaxnScalar .. | .vandScalar .. | .vorScalar .. | .vxorScalar .. | .vsllScalar ..
  | .vsrlScalar .. | .vsraScalar .. | .vfaddScalar .. | .vfmulScalar .. | .vbcast .. | .vconf .. | .vloop .. => .va
  | .vrget .. | .vrput .. | .vfdiv .. | .vfsqrt .. | .vfexp2 .. | .vflog2 .. | .vftanh .. | .vdiv .. | .vdivn .. | .vrem .. | .vremn ..
  | .vrng .. | .vxch .. | .vpermIx .. | .vpermBr .. | .vslideUp .. | .vslideDn .. | .vcompact .. | .vexpand .. | .vscan ..
  | .vred .. | .vgath .. | .vscat .. | .vscadd .. | .vrdst .. | .vldseg .. | .vstseg .. | .vsync => .vx
  | .tmma .. | .tmmagM .. | .tmmagK .. | .tmmas .. | .tload .. | .tstore .. | .tzero .. | .tacc .. | .tadda .. | .tcmp .. | .tdec ..
  | .ttrn .. => .t
  | .xsend .. | .xrecv .. | .xwait .. | .xslot .. | .xrecvS .. => .x
  | .tlbinv | .tlbinvP .. | .tlbinvPv .. | .ctxsave .. | .ctxload .. | .migr .. | .ipi .. => .p
  | _ => .b

/-- Whether an instruction may run by proxy (R23). -/
def proxyEligible (i : Instr) : Bool :=
  match i with
  | .vrget .. | .vrput .. | .vsync | .vgath .. | .vscat .. | .vscadd .. | .vrdst .. | .vldseg .. | .vstseg .. => false
  | _ => decide (groupOf i = .f) || decide (groupOf i = .vx)

/-! ### Scores and anchoring (R21, R22, R24) -/

/-- A class's score: the sum of the counters of the groups it implements. -/
def Thread.score (t : Thread) (c : CoreClass) : Nat :=
  ([.b, .s, .f, .va, .vx, .t, .x, .p] : List Group).foldl (fun a g =>
    if c.implements g then a + ((t.mix.toList[g.bit]?).getD 0).toNat else a) 0

/-- The class with the highest score; ties go in the order tensor, vector, control. -/
def Thread.bestClass (t : Thread) : CoreClass :=
  let x := t.score .tensor
  let v := t.score .vector
  let c := t.score .control
  if v ≤ x ∧ c ≤ x then .tensor else if c ≤ v then .vector else .control

/-- Clears the mix counters and the round trips counted since (R21, R22). -/
def Thread.clearMix (t : Thread) : Thread :=
  { t with mix := Vector.replicate 8 0, tripHome := .none, trip := none, lastTrip := none }

/-- Anchors a thread to a class; if it occupies another, it is to move there (R22). -/
def Thread.anchorTo (t : Thread) (c : CoreClass) : Thread :=
  { t.clearMix with
    arch := { t.arch with anchor := c }, calm := 0, away := false
    migh := if t.cls = c then t.migh else c }

/-- Ends an anchor (R24). -/
def Thread.releaseAnchor (t : Thread) : Thread :=
  { t.clearMix with arch := { t.arch with anchor := .none }, calm := 0, away := false }

/-- Whether a migration of a thread counts toward round trips (R283, R413): user level, not the first after a TRET, no
anchor. -/
def Thread.counts (t : Thread) : Bool := !t.sup.level && !t.afterTret && decide (t.arch.anchor = .none)

/-- What a trap migration from one class to another does to the round trips of a thread (R22, R413), all of which are counted from one
class; the answer says whether the thread is to be anchored. -/
def Thread.tripStep (t : Thread) (from_ to_ : CoreClass) : Thread × Bool :=
  if !t.counts then (t, false)
  else
    let home := if t.tripHome = .none then from_ else t.tripHome
    match t.trip with
    | none => (if from_ = home then { t with tripHome := home, trip := some t.arch.retired.toNat } else t, false)
    | some start =>
      if to_ = home then
        let near := match t.lastTrip with
          | some p => decide (t.arch.retired.toNat ≤ p + t.arch.mighold.toNat) && decide (t.arch.mighold ≠ 0)
          | none => false
        ({ t with trip := none, lastTrip := some start, dbg := { t.dbg with dtrip := t.dbg.dtrip + 1 } }, near)
      else (t, false)

/-- Releases the anchor of a thread, with its record (kind 4). -/
def State.releaseOf (s : State) (t : Thread) : State := (s.sched t 4 t.core.toNat 0).modThread t.handle (·.releaseAnchor)

/-! ### Moving (R20, R336) -/

/-- Regions of a leaving thread that a destination class has no storage for, the control registers marked S among them (R61, R65). -/
def Thread.leftBehind (t : Thread) (part : PartId) (cyc : Nat) (from_ to_ : CoreClass) : List (Nat × List (BitVec 8)) :=
  ((t.regions part cyc from_).filter fun (off, _) =>
    (decide (off = 4352) && decide (to_ = .control)) || (decide (off = 20992) && decide (to_ ≠ .tensor))) ++
  (if from_ = .tensor ∧ to_ ≠ .tensor then [(savedCrsAt, t.arch.savedCrBytes)] else [])

/-- Begins a move of a thread to a core: a resident one leaves in its save area what the destination lacks, and that of one that
waits for a context lies there already. -/
def State.startMove (s : State) (h : Handle) (c : Nat) : State :=
  match s.thread? h, s.dctx? (handleDctx h), s.launchOf? h with
  | some t, some d, some l =>
    let s1 := if t.place = .resident then
        s.writeRegions d (l.saveAddr (handleDense h)) t.poison.parts (t.leftBehind d.part s.cyc t.cls (coreClass c))
      else s
    let slot := s.freeSlot c
    let lanes := s.lanesAt t c
    s1.modThread h fun t =>
      { t.leaveCore.takeContext c slot lanes with
        place := .transit, since := s.lcc, convoy := none
        migh := if t.migh = coreClass c then .none else t.migh }
  | _, _, _ => s

/-- A thread in transit arrives: its state is restored, and it resumes (R336). -/
def State.arrive (s : State) (h : Handle) : State :=
  match s.thread? h with
  | some t =>
    if t.place ≠ .transit then s
    else
      let (s1, ok) := s.readSave h t.lastClass t.cls
      let s2 := s1.modThread h fun t =>
        { t with
          place := .resident, arrived := some s.lcc, since := s.lcc
          arch := if t.cls = .vector then { t.arch with vresume := 0 } else t.arch
          dbg := { t.dbg with dmstall := t.dbg.dmstall + BitVec.ofNat 64 (s.cyc - t.since / 2) } }
      if ok then s2
      else
        let a := ((s.launchOf? h).map fun l => l.saveAddr (handleDense h)).getD 0
        (s2.queueFault (handleDctx h) (FaultRecord.plain 0x07 0x0F 0x31 h a)).modThread h fun t => { t with place := .saved, held := true, arrived := none }
  | none => s

/-- Enters the arbiter's FIFO: the whole state goes to the save area and the context is freed (R18). -/
def State.enterFifo (s : State) (h : Handle) (g : Group) : State :=
  match s.thread? h with
  | some t =>
    ((s.sched t 10 t.core.toNat 0).modThread h fun t =>
      { t.leaveCore with place := .fifo g, since := s.lcc, convoy := none }).writeSave h t.cls
  | none => s

/-! ### The decisions of a migration trap (R13, R15 to R18, R388) -/

/-- What becomes of a migration trap. -/
inductive MigOutcome where
  | refused
  | moved (s : State)
  | stalled
  | diverged
  /-- a thread that waits for a context and can have one comes first (R18, R336) -/
  | later

/-- Whether a trap migration of a thread anchors it (R22); in enforced replay a record decides (R388). -/
def State.anchors (s : State) (t : Thread) (from_ to_ : CoreClass) : Bool := (t.tripStep from_ to_).2 && decide (s.actsOn t.handle ≠ 2)

/-- A trap migration of a thread from a class to a core: round trips, counters, the record, the move. -/
def State.trapMigrateTo (s : State) (h : Handle) (from_ : CoreClass) (c : Nat) : State :=
  match s.thread? h with
  | none => s
  | some t =>
    let anchor := s.anchors t from_ (coreClass c)
    let t1 := (t.tripStep from_ (coreClass c)).1
    let t2 :=
      { t1 with
        dbg := { t1.dbg with dmigt := t1.dbg.dmigt + 1 }, calm := 0, afterTret := false, wait := none, migrTo := none
        away := t1.away || decide (t1.arch.anchor ≠ .none) }
    let s1 := ((s.modThread h fun _ => t2).sched t2 1 c 0).startMove h c
    if anchor then
      let s2 := s1.modThread h fun t => t.anchorTo t.bestClass
      match s2.thread? h with
      | some t3 => s2.sched t3 3 c t3.arch.anchor.code
      | none => s2
    else s1

/-- Whether the records of a trap migration of a thread have room: the migration, and the anchoring that it brings (R383). -/
def State.trapMay (s : State) (t : Thread) (from_ : CoreClass) (c : Nat) : Bool :=
  s.schedMay t 1 (if s.anchors t from_ (coreClass c) then 2 else 1)

/-- The core on which the arbiter can give a waiting thread a context now. -/
def State.fifoPick (s : State) (t : Thread) : Option Nat :=
  match t.place with
  | .fifo g =>
    match t.migrTo with
    | some c => if s.fits t c.toNat then some c.toNat else none
    | none => s.nearest t fun c => if g = .b then decide (c = t.lastClass) else c.implements g
  | _ => none

/-- Whether a thread waits in the arbiter's FIFO that a free context could serve: it comes before any later move or gang
(R18, R336). -/
def State.fifoServable (s : State) : Bool := s.threads.any fun t => !t.held && (s.fifoPick t).isSome

/-- A migration trap of the current thread (R15 to R18); in replay it takes the recorded core, once earlier records have taken effect
(R388). -/
def State.migrate (s : State) (g : Group) : MigOutcome :=
  let t := s.th
  if !t.sup.level && t.arch.migctl.getLsbD 0 then .refused
  else if !s.anyCore t fun c => c.implements g then .refused
  else if s.actsOn t.handle = 2 ∧ !t.sup.level then
    match s.schedNext t with
    | some (i, bs) =>
      let c := fieldAt bs 26 2 % 8192
      let kind := fieldAt bs 24 1
      if kind = 1 ∧ fieldAt bs 16 8 = t.position ∧ (coreClass c).implements g ∧ s.couldHold t c then
        let s1 := s.consume t.handle i
        if s.fits t c then .moved (s1.trapMigrateTo t.handle t.cls c)
        else .moved (({ s1 with th := { t with migrTo := some (BitVec.ofNat 13 c) } }).enterFifo t.handle g)
      else if kind ≠ 1 ∧ kind ≠ 5 then .later
      else .diverged
    | none => .diverged
  else if !s.schedMay t 1 then .stalled
  else if s.fifoServable then .later
  else
    match s.nearest t fun c => c.implements g with
    | some c => if s.trapMay t t.cls c then .moved (s.trapMigrateTo t.handle t.cls c) else .stalled
    | none => .moved (s.enterFifo t.handle g)

/-- A scheduler migration of a thread to a core, with its record (kind 2). -/
def State.schedMove (s : State) (h : Handle) (c : Nat) : State :=
  match s.thread? h with
  | some t =>
    let s1 := (s.sched t 2 c 0).modThread h fun t =>
      { t with dbg := { t.dbg with dmigs := t.dbg.dmigs + 1 }, away := false, afterTret := false, migrTo := none }
    s1.startMove h c
  | none => s

/-- Whether the records of the move by which a thread leaves the FIFO have room: a scheduler migration that a replay enforced waits
there for no group of its own. -/
def State.fifoMay (s : State) (t : Thread) (c : Nat) : Bool :=
  match t.place with
  | .fifo .b => s.schedMay t 2
  | _ => s.trapMay t t.lastClass c

/-- The arbiter gives a thread in its FIFO a free context (R18, R336). -/
def State.fifoGrant (s : State) (h : Handle) : State :=
  match s.thread? h with
  | none => s
  | some t =>
    match s.fifoPick t with
    | none => s
    | some c =>
      if !s.fifoMay t c then s
      else
        let s1 := s.modThread h fun t =>
          { t with dbg := { t.dbg with dmstall := t.dbg.dmstall + BitVec.ofNat 64 (s.cyc - t.since / 2) } }
        match t.place with
        | .fifo .b => s1.schedMove h c
        | _ => s1.trapMigrateTo h t.lastClass c

/-- Whether a scheduler migration of a thread to a core can be made but for its record: a context is free there that no earlier waiter
of the arbiter takes (R18, R336). -/
def State.schedFits (s : State) (t : Thread) (c : Nat) : Bool := s.couldHold t c && s.fits t c && !s.fifoServable

/-- A scheduler migration of a thread to a core, where it can be made and its record has room. -/
def State.schedMigrateTo (s : State) (h : Handle) (c : Nat) : Option State :=
  match s.thread? h with
  | some t => if s.schedFits t c && s.schedMay t 2 then some (s.schedMove h c) else none
  | none => none

/-! ### Proxies (R23, R25) -/

/-- The nearest proxy server for a group: a core of a class that implements it, whether or not it has a free context. -/
def State.proxyServer (s : State) (g : Group) : Option Nat :=
  let t := s.th
  match s.launchOf? t.handle, s.dctx? (handleDctx t.handle) with
  | some l, some d =>
    (allCores.foldl (fun (best : Option (Nat × Nat)) c =>
      if (coreClass c ≠ .tensor) && (coreClass c).implements g && l.info.affin.getLsbD (coreDie c) && s.coreOn d.part c then
        let dist := travelTime t.core.toNat c
        match best with
        | some (b, _) => if dist < b then some (dist, c) else best
        | none => some (dist, c)
      else best) none).map (·.2)
  | _, _ => none

/-- Whether the current thread executes a foreign instruction by proxy: anchored, at user level, eligible, proxies on; a VX form
only on a tensor core (R23, R205). -/
def State.proxies (s : State) (i : Instr) : Bool :=
  !s.th.sup.level && decide (s.th.arch.anchor ≠ .none) && decide (s.th.arch.migctl = 0) && proxyEligible i &&
  (decide (groupOf i = .f) || decide (s.th.cls = .tensor))

end Sys2Proof.Machine
end

