-- ==== Sys2Proof/Machine/VectorAddr.lean ====
section
/-! DEFINITION. The element and segment addresses of the vector memory instructions (R201, R222, R227, R228), and what a
sample record says of one (R404, R405). -/

namespace Sys2Proof.Machine

/-- Element bytes and segment bytes of a VLDSEG or VSTSEG type (R228). -/
def segBytes (t : BitVec 5) : Nat × Nat :=
  match t.toNat with
  | 0x11 => (16, 24)
  | 0x13 => (64, 96)
  | _ => (32, 48)

/-- Segments that the active grant holds (R228). -/
def segCount (lgG : Nat) (t : BitVec 5) : Nat := if lgG = 0 then 0 else 2 ^ lgG / (8 * (segBytes t).1)

/-- Address of element i at a stride. -/
def strideAddr (b : BitVec 64) (stride : Int) (i : Nat) : BitVec 64 := b + BitVec.ofInt 64 (stride * i)

/-- Address of element i at an index vector (R222). -/
def State.indexAddr (s : State) (b : BitVec 64) (x : BitVec 6) (scaled : BitVec 1) (i : Nat) : BitVec 64 :=
  b + BitVec.ofInt 64 (signed s.w (s.elem x i) * (if scaled = 1 then (s.w / 8 : Nat) else 1))

/-- Active units of a vector memory instruction in ascending order: index, address, bytes. -/
def State.units (s : State) (i : Instr) : List (Nat × BitVec 64 × Nat) :=
  let n := s.w / 8
  let lanes (p : BitVec 3) : List Nat := s.lanes.filter fun i => s.active p i
  let unit (b : BitVec 5) (p : BitVec 3) := (lanes p).map fun i => (i, strideAddr (s.g b) n i, n)
  let strided (b r : BitVec 5) (p : BitVec 3) := (lanes p).map fun i => (i, strideAddr (s.g b) (s.g r).toInt i, n)
  let indexed (b : BitVec 5) (x : BitVec 6) (p : BitVec 3) (c : BitVec 1) := (lanes p).map fun i => (i, s.indexAddr (s.g b) x c i, n)
  let seg (b t : BitVec 5) (p : BitVec 3) :=
    ((List.range (segCount s.th.lgG t)).filter fun k => (s.pReg p).testBit k).map fun k =>
      (k, strideAddr (s.g b) (segBytes t).2 k, (segBytes t).2)
  match i with
  | .vld _ b p _ _ | .vst _ b p _ _ | .vldf _ b p _ _ | .vrdst _ b _ p _ => unit b p
  | .vlds _ b r p _ _ | .vsts _ b r p _ _ => strided b r p
  | .vgath _ b x p _ c | .vscat _ b x p _ c | .vscadd _ b x p _ c => indexed b x p c
  | .vldseg _ b t p _ | .vstseg _ b t p _ => seg b t p
  | _ => []

/-- Stride code of a sample record, none when the instruction is no vector memory instruction (R404). -/
def State.strideCode (s : State) (i : Instr) : Option Nat :=
  match i with
  | .vld .. | .vst .. | .vldf .. => some 0
  | .vlds _ _ r _ _ _ | .vsts _ _ r _ _ _ =>
    let x := (s.g r).toInt
    some (if x = 0 then 4 else if x < 0 then 3 else if x ≤ 192 then 1 else 2)
  | .vgath .. | .vscat .. => some 5
  | .vldseg .. | .vstseg .. => some 6
  | .vscadd .. | .vrdst .. => some 7
  | _ => none

def isVectorStore (i : Instr) : Bool :=
  match i with
  | .vst .. | .vsts .. | .vscat .. | .vstseg .. | .vscadd .. | .vrdst .. => true
  | _ => false

/-- Distinct blocks of a size that units touch. -/
def distinctBlocks (size : Nat) (us : List (Nat × BitVec 64 × Nat)) : Nat :=
  (us.flatMap fun (_, a, n) =>
    if n = 0 then [] else (List.range ((a.toNat + n - 1) / size - a.toNat / size + 1)).map (· + a.toNat / size)).eraseDups.length

/-- The sample of a vector memory instruction from the state at its issue, before and after its time is known. -/
def State.sampleOf (s : State) (i : Instr) (member : Nat) (pc : BitVec 64) (faulted : Bool) (done : Nat) : Option Sample :=
  match s.strideCode i with
  | none => none
  | some code =>
    let us := s.units i
    let (issue, snow) := match s.th.stalledAt with
      | some (t, b) => (t, b)
      | none => (s.lcc, false)
    some { member := member, pc := pc, active := us.length, stride := code
           flags := (if isVectorStore i then 1 else 0) + (if snow then 2 else 0) + (if faulted then 4 else 0)
           lines := distinctBlocks 192 us, pages := distinctBlocks 196608 us, issue := issue, done := done }

/-- A count in a 16-bit field (R405). -/
def cap16 (n : Nat) : Nat := min n 0xFFFF

/-- Bytes of a sample record; the physical counts are the units' (log 17). -/
def Sample.bytes (x : Sample) (s : State) (head : BitVec 64) (members : Nat) : List (BitVec 8) :=
  let cycles := (x.done - x.issue) / coreRatio s.th.core.toNat
  [0xA0, 0x01] ++ leBytes 2 (cap16 x.active) ++ leBytes 4 s.th.handle.toNat ++ leBytes 8 x.pc.toNat ++ leBytes 8 head.toNat ++
  [BitVec.ofNat 8 (members % 16 + x.member % 8 * 16), BitVec.ofNat 8 x.stride, BitVec.ofNat 8 x.flags, 0] ++
  leBytes 2 (cap16 (Config.measured s.tick 0)) ++ leBytes 2 (cap16 x.lines) ++ leBytes 2 (cap16 x.pages) ++
  leBytes 2 (cap16 (Config.measured s.tick 1)) ++ leBytes 2 (cap16 (Config.measured s.tick 2)) ++
  leBytes 2 (if x.active = 0 then 0 else cap16 (256 * cycles / x.active)) ++ leBytes 8 (x.issue / 2) ++ leBytes 8 cycles ++ zeros 8

end Sys2Proof.Machine
end

