-- ==== Sys2Proof/Machine/Issue.lean ====
section
/-! DEFINITION. What every instruction word has in common: the checks before it (R13, R398, R168, R345), stops and
waits (R33, R285 to R289, R304, R308), convoys (R31 to R33), loop-back and retirement (R63, R147), and the counts and
records that follow it (R21, R24, R388, R401 to R405). A meaning is `issue` applied to its own effect. -/

namespace Sys2Proof.Machine

/-- What an instruction's own effect comes to. -/
inductive Effect where
  /-- it completes, and control falls through -/
  | next (s : State)
  /-- it completes, and control passes to a target -/
  | jump (s : State) (target : BitVec 64)
  /-- the state is final: no retirement follows -/
  | done (s : State)
  /-- it cannot go on: partial effects, why, and the element, segment or row at which -/
  | trouble (s : State) (t : Trouble) (elem : Option Nat)

/-- The outcome of a step. -/
abbrev Step := Host.Outcome State Fault Refusal

/-- A list of names with link counts, one name set. -/
def setUntil {α : Type} [DecidableEq α] (a : α) (n : Nat) (l : List (α × Nat)) : List (α × Nat) :=
  (a, n) :: l.filter fun x => decide (x.1 ≠ a)

/-- Link count at which an instruction that issues now is complete (log 11). -/
def State.doneAt (s : State) : Nat :=
  coreRatio s.th.core.toNat * (s.lcc / coreRatio s.th.core.toNat + 1 + Config.latency s.tick % 1024)

/-- One issue takes its core's issue slot and occupies its thread, each for its own core cycle and what it adds (log 11);
one more step has been taken. -/
def State.advance (s : State) : State :=
  let ratio := coreRatio s.th.core.toNat
  { s with
    issued := setUntil s.th.core (ratio * (s.lcc / ratio + 1 + Config.stall s.tick % 8)) s.issued
    pace := setUntil s.th.handle s.doneAt s.pace
    tick := s.tick + 1 }

/-! ### Counters of the register space (R411) -/

def bumpCounter (off n : Nat) : List Counter → List Counter
  | [] => [{ offset := off, value := BitVec.ofNat 64 n }]
  | c :: t => if c.offset = off then { c with value := c.value + BitVec.ofNat 64 n } :: t else c :: bumpCounter off n t

def State.bump (s : State) (off n : Nat) : State :=
  { s with mod := { s.mod with counters := bumpCounter off n s.mod.counters } }

/-- Adds to a counter of a core's block. -/
def State.bumpCore (s : State) (off n : Nat) : State := s.bump (0x50_0000 + 256 * s.th.core.toNat + off) n

/-- Adds to a counter of a die's block. -/
def State.bumpDie (s : State) (d off n : Nat) : State := s.bump (0x70_0000 + 16384 * d + off) n

/-! ### Convoys (R31 to R33) -/

/-- Whether an instruction is a convoy member on a vector core. -/
def isMember (i : Instr) : Bool := decide (groupOf i = .va) || decide (groupOf i = .vx)

/-- Whether the current thread executes an instruction as a convoy member. -/
def State.convoys (s : State) (i : Instr) : Bool := decide (s.th.cls = .vector) && isMember i

/-- The open convoy, or the convoy of one instruction. -/
def State.convoyOf (s : State) (i : Instr) : Convoy :=
  match s.th.convoy with
  | some c => c
  | none =>
    { head := s.th.arch.pc, members := [(s.th.arch.pc, i)], next := 0, saved := s.th.arch, savedPoison := s.th.poison
      reads := (Uses.of s.w i).readCodes, written := [], sampled := [], events := [] }

/-- How often the convoy at a head has been stopped since its thread last completed a unit at the level. -/
def Thread.rerunsOf (t : Thread) (head : BitVec 64) : Nat :=
  ((t.reruns.find? fun x => decide (x.1 = t.sup.level) && decide (x.2.1 = head)).map (·.2.2)).getD 0

/-- The registers of a stopped convoy (R32): a register that some member reads has its old value, one that an executed
member wrote and none reads has its new value or its old one; each with its poison (R345). -/
def Thread.rollback (t : Thread) (tick : Nat) : Thread :=
  match t.convoy with
  | none => t
  | some c =>
    let early (code : Nat) : Bool := c.written.contains code && !c.reads.contains code && Config.pick tick code
    let mask (n lo : Nat) : BitVec n := ((List.range n).filter fun k => early (lo + k)).foldl (fun m k => m ||| (1 <<< k)) 0
    let earlyV (k : Nat) : Bool := c.written.any fun n =>
      decide (64 ≤ n) && decide (n < 128) && decide ((physV c.saved.vrot (BitVec.ofNat 6 (n - 64))).val = k) && early n
    { t with
      arch := { c.saved with
        g := c.saved.g.mapIdx fun k x => if early k then (t.arch.g[k]?).getD x else x
        v := c.saved.v.mapIdx fun k x => if earlyV k then (t.arch.v[k]?).getD x else x
        p := c.saved.p.mapIdx fun k x => if early (128 + k) then (t.arch.p[k]?).getD x else x
        fstat := if Config.pick tick 141 then t.arch.fstat else c.saved.fstat
        pc := c.head }
      poison := { c.savedPoison with
        g := (t.poison.g &&& mask 32 0) ||| (c.savedPoison.g &&& ~~~(mask 32 0))
        v := c.savedPoison.v.mapIdx fun k x => if earlyV k then (t.poison.v[k]?).getD x else x
        p := (t.poison.p &&& mask 8 128) ||| (c.savedPoison.p &&& ~~~(mask 8 128)) }
      convoy := none
      reruns := (t.sup.level, c.head, t.rerunsOf c.head + 1) :: t.reruns.filter fun x => decide (x.1 ≠ t.sup.level) }

/-- The instruction words that a member may follow, read ahead of execution: at most n from an address. A word that cannot be fetched
now, for whatever reason, ends the membership before it, and fails when it is executed (DESIGN CHOICE, log 165). -/
def State.readAhead (s : State) : Nat → BitVec 64 → List (BitVec 64 × Instr)
  | 0, _ => []
  | n + 1, a =>
    match s.fetchWord a with
    | .error _ => []
    | .ok w =>
      match decode w with
      | .error _ => []
      | .ok i => if isMember i then (a, i) :: s.readAhead n (a + 4) else []

/-- Instructions after which a convoy ends (R31), loop ends aside. -/
def endsConvoy (i : Instr) : Bool :=
  match i with
  | .vst .. | .vsts .. | .vstseg .. | .vscat .. | .vscadd .. | .vrdst .. | .vgath .. | .vrput .. | .vconf .. | .vloop ..
  | .bpany .. | .bpnone .. => true
  | _ => false

/-- What leaving an address sequentially does to the loop stack: where control passes, none for the next word (R147). -/
def loopExit : List LoopEntry → BitVec 64 → Option (BitVec 64) × List LoopEntry
  | [], _ => (none, [])
  | e :: t, pc =>
    if e.last ≠ pc then (none, e :: t)
    else if 1 < e.count.toNat then (some e.start, { e with count := e.count - 1 } :: t)
    else loopExit t pc

/-- Whether a loop-back will be taken at an address: by the top entry, or by one below it with the same end (R148). -/
def loopsBack (l : List LoopEntry) (pc : BitVec 64) : Bool := (loopExit l pc).1.isSome

/-- The members of a convoy from an address on: those that it has read so far, the loop stack as it will stand there, and the
words that may follow (R31). A member at the end of an entry's last pass takes the entry off the stack for the next (R147). -/
def joinConvoy (w : Nat) (loops : List LoopEntry) (reads : List Nat) : List (BitVec 64 × Instr) → List (BitVec 64 × Instr)
  | [] => []
  | (a, i) :: t =>
    if (Uses.of w i).writeCodes.any fun c => reads.contains c then []
    else if endsConvoy i || loopsBack loops a then [(a, i)]
    else (a, i) :: joinConvoy w (loopExit loops a).2 (reads ++ (Uses.of w i).readCodes) t

/-- Opens the convoy that an instruction at the thread's pc heads (R31). -/
def State.openConvoy (s : State) (i : Instr) : State :=
  let pc := s.th.arch.pc
  let own := (Uses.of s.w i).readCodes
  let members :=
    if endsConvoy i || loopsBack s.th.arch.loops pc then [(pc, i)]
    else (pc, i) :: joinConvoy s.w (loopExit s.th.arch.loops pc).2 own (s.readAhead 7 (pc + 4))
  let s := members.foldl (fun (a : State) m => if m.1 = pc then a else a.afterFetch m.1) s
  { s with th := { s.th with convoy := some (
      { head := pc, members := members, next := 0, saved := s.th.arch, savedPoison := s.th.poison
        reads := members.flatMap fun m => (Uses.of s.w m.2).readCodes, written := [], sampled := [], events := [] } : Convoy) } }

/-! ### Events of convoy members (R377) -/

/-- Counts the events of an open convoy that wait for its completion. -/
def State.flushEvents (s : State) : State :=
  match s.th.convoy with
  | none => s
  | some c =>
    c.events.foldl (fun (a : State) e => a.commit e) { s with th := { s.th with convoy := some { c with events := [] } } }

/-- An event performs now, after those of its convoy that wait. -/
def State.commitNow (s : State) (items : List EventItem) : State := s.flushEvents.commit items

/-- An event of a convoy member that counts when the convoy completes, with the order number that its access takes now (R378); elsewhere
it counts now. -/
def State.deferEvent (s : State) (items : List EventItem) : State :=
  match s.th.convoy with
  | some c =>
    let (s1, items) := s.numberItems items
    { s1 with th := { s1.th with convoy := some { c with events := c.events ++ [items] } } }
  | none => s.commit items

/-! ### Trace records (R402, R403) -/

/-- Whether trace records are made at a level. -/
def Thread.traces (t : Thread) (bit : Nat) (sup : Bool) : Bool :=
  decide (t.dbg.dtdesc ≠ 0) && t.dbg.dctl.getLsbD bit && (!sup || t.dbg.dctl.getLsbD 10)

/-- Bytes of a trace record. -/
def traceBytes (kind flags members : Nat) (h : Handle) (from_ to_ : BitVec 64) (time : Nat) : List (BitVec 8) :=
  [BitVec.ofNat 8 kind, 0x01, BitVec.ofNat 8 flags, BitVec.ofNat 8 members] ++ leBytes 4 h.toNat ++ leBytes 8 from_.toNat ++
  leBytes 8 to_.toNat ++ leBytes 8 time

/-- Puts a record of the current thread's trace ring on the list of postings. -/
def State.postTrace (s : State) (bytes : List (BitVec 8)) : State :=
  { s with outbox := s.outbox ++ [.trace (handleDctx s.th.handle) s.th.dbg.dtdesc bytes] }

/-- A branch trace record, made when the thread was at a level. -/
def State.traceBranch (s : State) (sup : Bool) (flags : Nat) (from_ to_ : BitVec 64) : State :=
  if s.th.traces 8 sup then
    s.postTrace (traceBytes 0x90 ((if sup then 1 else 0) + flags) 0 s.th.handle from_ to_ s.cyc)
  else s

/-! ### Stops (R285 to R289, R304, R308) -/

/-- Makes a thread held: stopped, its state in its save area, never scheduled until a CTXLOAD names it (R293). -/
def State.makeHeld (s : State) (h : Handle) : State :=
  match s.thread? h with
  | none => s
  | some t =>
    if t.place = .resident then
      ((s.sched t 8 t.core.toNat 0).modThread h fun t =>
        { t.leaveCore with place := .saved, held := true, wait := none, parked := none, convoy := none }).writeSave h t.cls
    else
      s.modThread h fun t =>
        { t with place := if t.place = .unstarted then .unstarted else .saved, held := true, wait := none, parked := none, convoy := none }

/-- Logs what a stop of the current thread at an instruction tells of consumed poison (R343). -/
def State.noteConsumed (s : State) (i : Instr) (t : Trouble) : State :=
  let c := s.th.core.toNat
  let die := coreDie c
  match t with
  | .trap 0x0A detail addr =>
    s.logConsumed s.th die (c - dieFirstCore die) (if groupOf i = .t ∧ (s.usesPoison (Uses.of s.w i)).isNone then 6 else 5) detail addr
  | .fail reason addr .. => s.logPoison (handleDctx s.th.handle) die (c - dieFirstCore die) (s.windowOf s.th) reason addr
  | .trap 0x0B detail addr =>
    -- a divergence of kind 7: a record of the replay source that cannot be read
    if detail.setWidth 4 = 7#4 then (s.myDctx.map fun d => s.logRead d (s.deviceRead d addr 32)).getD s else s
  | _ => s

/-- A device context in which a divergence fault is raised: it counts (R389), and of kind 7 it is the access that fails where the
host has refused a page of the replay source (R385). One of kind 8 counted when its device record mismatched (R438). -/
def Dctx.diverged (d : Dctx) (detail addr : BitVec 64) : Dctx :=
  let e := if detail.setWidth 4 = 7#4 then d.dropPage addr else d
  if detail.setWidth 4 = 8#4 then e else { e with mpdiv := d.mpdiv + 1 }

/-- Trap entry with its trace record, from the instruction that transfers, and divergence count; a double trap holds the thread
(R286, R288, R389, R402). -/
def State.trapAt (s : State) (cause : BitVec 8) (pc detail addr : BitVec 64) (info : BitVec 13) (at_ : BitVec 64 := pc) : State :=
  let sup := s.th.sup.level
  let double := s.th.sup.tip
  let s1 := if cause = 0x0B then s.modDctx (handleDctx s.th.handle) fun d => d.diverged detail addr else s
  let s2 := s1.takeTrap cause pc detail addr info
  if double then s2.makeHeld s2.th.handle
  else s2.traceBranch sup 4 at_ s2.th.arch.pc

/-- `tinfo` of a stop (R284, R285). -/
def trapInfo (member : Option Nat) (elem : Option Nat) : BitVec 13 :=
  BitVec.ofNat 13 ((match member with
    | some m => m + 8
    | none => 0) + (match elem with
    | some e => e % 256 * 16 + 4096
    | none => 0))

/-- Whether a thread waits at a load that a snowline stalls. -/
def Thread.onSnowline (t : Thread) : Bool := t.wait.any fun w => decide (w.kind = .snowline)

/-- Bytes as the current thread last saw them. -/
def State.lastSeen (s : State) (sp : List Span) : List (BitVec 8) :=
  ((accessBytes sp).zip (s.spanBytes sp)).map fun (b, x) => (((s.behind s.th.handle .data b).head?).map (·.old)).getD x

/-- Keeps the base of the slot that governs a load which now stalls for the first time, as it has just been read (R62). -/
def State.holdBase (s : State) : State :=
  if s.th.onSnowline then s
  else
    let x := s.th.arch.snowb[(s.th.arch.vsnow.toNat - 1) % 8]'(Nat.mod_lt _ (by decide))
    match s.checkC (va56 (x.setWidth 56) + 8) 8 true false false with
    | .ok sp => { s with th := { s.th with snowBase := BitVec.ofNat 64 (leNat (s.lastSeen sp)) } }
    | .error _ => s

/-- The current thread's die asks for a line, to write it. -/
def State.touchLine (s : State) (l : Nat) : State :=
  { s with touched := s.touched ++ [{ agent := s.th.agent, line := l, write := true, who := some s.th.handle }] }

/-- The thread waits at its instruction. -/
def State.waitFor (s : State) (k : WaitKind) (i : Instr) : State :=
  { s with
    touched := match k with
      | .home l => s.touched ++ [{ agent := s.th.agent, line := l, write := true, who := some s.th.handle }]
      | _ => s.touched
    th :=
    { s.th with
      wait := some { kind := k, instr := i }, refused := none
      stalledAt := some (((s.th.stalledAt.map (·.1)).getD s.lcc), ((s.th.stalledAt.map (·.2)).getD false) || decide (k = .snowline)) } }

/-- A trap of the current thread whose details are settled: it is taken once no T instruction runs (R247). -/
def State.takeDue (s : State) : State :=
  match s.th.due with
  | some d => ({ s with th := { s.th with due := none } } : State).trapAt d.cause s.th.arch.pc d.detail d.addr d.info
  | none => s

/-- Whether a trap is that of a breakpoint, which comes before its convoy begins: nothing of the convoy executes again for it (R33, R398). -/
def Trouble.unopened (t : Trouble) : Bool :=
  match t with
  | .trap cause detail _ => decide (cause = 0x0D) && detail.getLsbD 16
  | _ => false

/-- Notes that an element or segment of the instruction at an address has faulted (R404). -/
def State.noteElem (s : State) (pc : BitVec 64) (elem : Option Nat) : State :=
  match elem with
  | none => s
  | some _ => { s with th := { s.th with faulted := some pc } }

/-- What stops the current thread at an instruction: a trap, a parked access, a page request or a wait. -/
def State.stop (s : State) (i : Instr) (t : Trouble) (elem : Option Nat) : Step :=
  let member := if s.convoys i then some ((s.convoyOf i).next) else none
  let s0 := if s.th.convoy.isSome ∧ t.unopened then { s with th := { s.th with convoy := none } } else if s.th.convoy.isSome then ({ s with th := s.th.rollback s.tick }).bumpCore 0x18 1 else s
  match t with
  | .noContext => .fault .noContext
  | .wait k => .next ((if k = .snowline then s.holdBase else s).waitFor k i).advance
  | .trap cause detail addr =>
    let s0 := (s0.noteConsumed i t).noteElem s.th.arch.pc elem
    if !s.th.runs.isEmpty then
      let s := (s.noteConsumed i t).noteElem s.th.arch.pc elem
      .next (({ s with th := { s.th with due := some { cause := cause, detail := detail, addr := addr, info := trapInfo member elem } } } : State).waitFor .drain i).advance
    else .next (s0.trapAt cause s0.th.arch.pc detail addr (trapInfo member elem)).advance
  | .page a w f =>
    if !s.th.runs.isEmpty then .next (s.waitFor .drain i).advance
    else .next (((s0.askFor (handleDctx s.th.handle) a w f).waitFor (.page a w f) i)).advance
  | .fail reason addr w f ats =>
    if !s.th.runs.isEmpty then .next (s.waitFor .drain i).advance
    else
      let r : FaultRecord :=
        { kind := 0x01, cause := reasonCause reason, reason := reason, handle := s.th.handle, addr := addr, pc := s0.th.arch.pc
          flags := BitVec.ofNat 8 ((if w then 1 else 0) + (if f then 2 else 0) + (if ats then 4 else 0) +
            (if s.th.sup.level then 8 else 0) + (if elem.isSome then 16 else 0) + (if member.isSome then 32 else 0))
          elem := BitVec.ofNat 8 (elem.getD 0), core := BitVec.ofNat 16 (s.th.core.toNat + (member.getD 0) * 8192) }
      let s1 := ((s0.noteConsumed i t).noteElem s.th.arch.pc elem).queueFault (handleDctx s.th.handle) r
      .next ({ s1 with th := { s1.th with parked := some r, wait := none, refused := none } }).advance

/-! ### Before an instruction (R13, R168, R345, R398) -/

/-- The instruction word, for `tdetail`. -/
def wordOf (i : Instr) : BitVec 64 :=
  match i with
  | .unassignedEncoding w => w.setWidth 64
  | _ =>
    match encode i with
    | some w => w.setWidth 64
    | none => 0

/-- The lowest enabled breakpoint comparator at an address. -/
def Dbg.breakAt (d : Dbg) (a : BitVec 64) : Option Nat :=
  if d.dctl.extractLsb' 0 4 = 0 then none
  else ([0, 1, 2, 3] : List (Fin 4)).findSome? fun (n : Fin 4) =>
    if d.dctl.getLsbD n && decide ((d.dbp[n] ++ 0#2).signExtend 64 = a) then some n.val else none

/-- The breakpoint that stops the current thread before an instruction or convoy: member and comparator (R398). -/
def State.breakpoint (s : State) (i : Instr) : Option (Nat × Nat) :=
  if !s.th.debugActs || s.th.exempt then none
  else if s.convoys i then
    let c := s.convoyOf i
    if c.next = 0 then
      c.members.zipIdx.findSome? fun ((a, _), m) => (s.th.dbg.breakAt a).map fun n => (m, n)
    else none
  else (s.th.dbg.breakAt s.th.arch.pc).map fun n => (0, n)

/-- The handle that a register endpoint names: with bits [31:22] zero, a thread of the issuer's own launch (R323). -/
def endHandle (own : Handle) (w : BitVec 64) : Handle :=
  let x := w.extractLsb' 32 32
  if handleLaunch x = 0 then handleLaunch own ++ x.setWidth 22 else x

/-- Physical vector registers, of n bytes each, that an unfinished block transfer's register endpoints of a kind name: those with a
part that it has yet to read, and those with a part that it has yet to write (R166, R168). -/
def Transfer.regs (x : Transfer) (kind n : Nat) (own : Handle) (h : Option Handle) : List Nat × List Nat :=
  if x.ended.isSome then ([], [])
  else
    let ends (k : Nat) (w : BitVec 64) (vrot : BitVec 5) : List Nat :=
      if k = kind ∧ (h.isNone ∨ h = some (endHandle own w)) then
        (List.range ((w.extractLsb' 6 3).toNat + 1)).filterMap fun j =>
          if max x.done (n * j) < min (bitsOf x.w0.toNat 32 32) (n * (j + 1)) then
            some (physV vrot (w.extractLsb' 0 6 + BitVec.ofNat 6 j)).val else none
      else []
    (ends (bitsOf x.w0.toNat 8 2) x.w1 x.vrotS, ends (bitsOf x.w0.toNat 10 2) x.w2 x.vrotD)

/-- Bytes of a register under a thread's active grant (R167). -/
def Thread.regBytes (t : Thread) : Nat := if t.lgG = 0 then 0 else 2 ^ t.lgG / 8

/-- Vector registers of the current thread that unfinished transfers still read, and still write: its own from the BXQ
on, those of other threads from the engine's start on (R168; an instruction waits for all of the element groups that it would
touch, log 135). -/
def State.transferRegs (s : State) : List Nat × List Nat :=
  let own := s.th.bxq.map fun x => x.regs 1 s.th.regBytes s.th.handle none
  let other := s.threads.flatMap fun t =>
    (t.bxq.filter fun x => x.started).map fun x => x.regs 2 s.th.regBytes t.handle (some s.th.handle)
  ((own ++ other).flatMap (·.1), (own ++ other).flatMap (·.2))

/-- Whether an engine works on a request of a thread with a register endpoint (R20, R168). -/
def Thread.transferStarted (t : Thread) : Bool :=
  t.bxq.any fun x => x.started && x.ended.isNone && ([bitsOf x.w0.toNat 8 2, bitsOf x.w0.toNat 10 2].any fun k => decide (k = 1) || decide (k = 2))

/-- Whether an instruction must wait for a register that a block transfer still uses (R168); VCONF waits for all of them
(R187). -/
def State.transferBusy (s : State) (i : Instr) : Bool :=
  if s.threads.all fun t => t.bxq.isEmpty then false
  else
    let (reads, writes) := s.transferRegs
    let u := Uses.of s.w i
    let phys (n : BitVec 6) : Nat := (physV s.th.arch.vrot n).val
    match i with
    | .vconf .. => !reads.isEmpty || !writes.isEmpty
    | _ => u.v.any (fun n => writes.contains (phys n)) || u.vw.any fun n => reads.contains (phys n) || writes.contains (phys n)

/-- The running TLOAD or TSTORE of a thread. -/
def Thread.transferring (t : Thread) : Option RunOp := t.runs.find? fun r => isTransfer r.instr

/-- Instructions that a thread has retired since a running one. -/
def Thread.retiredSince (t : Thread) (r : RunOp) : Nat := (t.arch.retired - r.before).toNat - 1

/-- Whether a running TSTORE, some store of which could still meet a slice watchpoint with stop set, has let as many instructions retire
as the skid allows (R409). -/
def State.skidSpent (s : State) (r : RunOp) : Bool :=
  (match r.instr with
    | .tstore .. => true
    | _ => false) && decide (64 ≤ s.th.retiredSince r) &&
  s.myDctx.any fun d => ([0, 1, 2, 3] : List (Fin 4)).any fun j => d.dsSector[j].isSome && d.dsm[j].getLsbD 50

/-- Whether an instruction is one that may execute beside a running TLOAD or TSTORE of its thread: any (R243) but one that orders the
thread's earlier accesses before what follows, whose interlock is with every row (R92, R234), and a return to another level (log 37). -/
def besideTransfer (i : Instr) : Bool :=
  match i with
  | .stq .. | .atom .. | .cas .. | .fence .. | .bar .. | .bara .. | .bard .. | .sigadd .. | .sigarmWake .. | .sigarmPost ..
  | .sigarmLaunch .. | .snowpub .. | .tret .. => false
  | _ => true

/-- What the checks before an instruction's own effect come to, none when it goes on: the breakpoint, privilege, class,
interlock and register poison, in this order. -/
def State.gate (s : State) (i : Instr) : Option Effect :=
  let g := groupOf i
  match s.breakpoint i with
  | some (m, n) =>
    let s1 := match s.th.convoy with
      | some c => { s with th := { s.th with convoy := some { c with next := m } } }
      | none => s
    some (.trouble s1 (.trap 0x0D (BitVec.ofNat 64 (0x1_0000 + n)) 0) none)
  | none =>
    if (g = .s ∨ g = .p) ∧ !s.th.sup.level then some (.trouble s (.trap 0x02 (wordOf i) 0) none)
    else if !s.th.cls.implements g && !s.th.grant then
      let s1 := s.bumpCore 0x20 1
      let poison := s.usesPoison (Uses.of s.w i)
      let proxied :=
        if !s.proxies i then none
        else if s.actsOn s.th.handle ≠ 2 then some none
        else match s.schedNext s.th with
          | some (j, bs) => if fieldAt bs 24 1 = 5 ∧ fieldAt bs 16 8 = s.th.position then some (some j) else none
          | none => none
      match proxied with
      | some j =>
        if let some t := poison then some (.trouble s t none) else
        match s.proxyServer g with
        | none => some (.trouble s (.trap 0x03 (BitVec.ofNat 64 g.bit) 0) none)
        | some c =>
          if !s.schedMay s.th 5 then some (.trouble s (.wait .moraine) none)
          else
            let s2 := s.sched s.th 5 s.th.core.toNat c
            let s3 := match j with
              | some j => s2.consume s.th.handle j
              | none => s2
            some (.trouble s3 (.wait (.proxy (BitVec.ofNat 13 c) s.lcc)) none)
      | none =>
        if !s.th.runs.isEmpty then some (.trouble s (.wait .drain) none)
        else if s.th.transferStarted then some (.trouble s (.wait .transferRegs) none)
        else
          match s1.migrate g with
          | .refused => some (.trouble s1 (.trap 0x03 (BitVec.ofNat 64 g.bit) 0) none)
          | .moved s2 => some (.done s2)
          | .stalled => some (.trouble s (.wait .moraine) none)
          | .later => some (.trouble s (.wait .drain) none)
          | .diverged => some (.trouble s1 s1.undecided none)
    else if s.th.transferring.any (fun r => !besideTransfer i || s.skidSpent r) then some (.trouble s (.wait .unit) none)
    else if s.transferBusy i then some (.trouble s (.wait .transferRegs) none)
    else if s.th.grant then none
    else
      match s.usesPoison (Uses.of s.w i) with
      | some t => some (.trouble s t none)
      | none => none

/-- The registers that an instruction writes are poisoned. -/
def Thread.poisonResult (t : Thread) (codes : List Nat) : Thread :=
  let of (lo : Nat) (k : Nat) : Bool := codes.contains (lo + k)
  { t with poison :=
    { t.poison with
      g := t.poison.g ||| BitVec.ofNat 32 (((List.range 31).filter fun k => of 1 k).foldl (fun a k => a + 2 ^ (k + 1)) 0)
      v := t.poison.v.mapIdx fun k x =>
        if (List.range 64).any fun n => of 64 n && decide ((physV t.arch.vrot (BitVec.ofNat 6 n)).val = k) then BitVec.allOnes 32 else x
      p := t.poison.p ||| BitVec.ofNat 8 (((List.range 7).filter fun k => of 129 k).foldl (fun a k => a + 2 ^ (k + 1)) 0) } }

/-- The effect of an instruction executed by proxy, whose operands have become poisoned after its checks: its result is written, and
is poisoned (R346). -/
def State.outcome (s : State) (i : Instr) (e : Effect) : Effect :=
  if s.th.grant && (s.usesPoison (Uses.of s.w i)).isSome then
    match e with
    | .next s1 => .next { s1 with th := s1.th.poisonResult (Uses.of s.w i).writeCodes }
    | e => e
  else e

/-! ### Retirement (R63, R147, R388, R401) -/

/-- Adds the weights of retired instructions of a group to a thread's mix counters (R21). -/
def Thread.countMix (t : Thread) (g : Group) : Thread :=
  if t.sup.level || decide (g.weight = 0) then t
  else
    have h : g.bit < 8 := by cases g <;> decide
    { t with mix := t.mix.set g.bit (t.mix[g.bit] + BitVec.ofNat 32 g.weight) }

/-- Counts a sampled instruction; every N-th one is posted (R404). -/
def State.countSample (s : State) (x : Sample) (head : BitVec 64) (members : Nat) : State :=
  let d := s.th.dbg
  if d.period = 0 then s
  else if d.cnt + 1 = d.period then
    let s1 := { s with th := { s.th with dbg := { d with cnt := 0 } } }
    if d.dtdesc = 0 then s1 else s1.postTrace (x.bytes s head members)
  else { s with th := { s.th with dbg := { d with cnt := d.cnt + 1 } } }

/-- Counts that n instructions, completed as one unit, add to a thread (R63, R388, R24, R399, R409): the members of a convoy that
executes again after stops count once more for each (log 97). -/
def Thread.countUnit (t : Thread) (n reruns : Nat) (stopStood : Bool) : Thread :=
  let user := !t.sup.level
  { t with
    arch := { t.arch with retired := t.arch.retired + BitVec.ofNat 64 (n * (1 + reruns)) }
    reruns := t.reruns.filter fun x => decide (x.1 ≠ t.sup.level)
    position := if user then t.position + n else t.position
    calm := if user then (if t.grant then 0 else t.calm + n) else t.calm
    dbg := { t.dbg with
      dprox := if t.grant then t.dbg.dprox + 1 else t.dbg.dprox
      dctl := if user then t.dbg.dctl &&& 0x77F else t.dbg.dctl }
    sliceStop := if user && stopStood then t.sliceStop.map fun (k, a, m) => (k, a, m + n) else t.sliceStop
    faulted := if user then none else t.faulted
    grant := false, wait := none, refused := none, stalledAt := none }

/-- The step trap after a unit at user level (R401), which waits for running T instructions (R247). -/
def State.stepTrap (s : State) (user : Bool) : State :=
  if user && s.th.dbg.dctl.getLsbD 6 then
    (if s.th.runs.isEmpty then s.trapAt 0x0D s.th.arch.pc 0x2_0000 0 0 else { s with th := { s.th with stepDue := true } })
  else s

/-- Where control goes after an instruction: the loop-back of its address when it falls through (R147), with the branch
trace record that a transfer makes. -/
def State.leave (s : State) (pc : BitVec 64) (target : Option (BitVec 64)) : State :=
  match target with
  | some a => ({ s with th := { s.th with arch := { s.th.arch with pc := a } } }).traceBranch s.th.sup.level 0 pc a
  | none =>
    match loopExit s.th.arch.loops pc with
    | (some a, l) => ({ s with th := { s.th with arch := { s.th.arch with pc := a, loops := l } } }).traceBranch s.th.sup.level 2 pc a
    | (none, l) => { s with th := { s.th with arch := { s.th.arch with pc := pc + 4, loops := l } } }

/-- The completion of a convoy whose last member has executed (R31, R32, R402, R404): its events and counts, and where
control passes. -/
def State.completeConvoy (s : State) : State :=
  match s.th.convoy with
  | some c =>
    match c.passing with
    | some (target, stood) =>
      let user := !s.th.sup.level
      let n := c.members.length
      let pc := s.th.arch.pc
      let s1 := s.flushEvents
      let t1 := (c.members.foldl (fun (t : Thread) m => t.countMix (groupOf m.2)) { s1.th with convoy := none }).countUnit n (s1.th.rerunsOf c.head) stood
      let s2 := (({ s1 with th := t1 }).bumpCore 0x00 n).bumpCore 0x10 1
      let s3 := c.sampled.foldl (fun (a : State) x => a.countSample x c.head n) s2
      let s4 := if s3.th.traces 9 (!user) then
          s3.postTrace (traceBytes 0x91 (if user then 0 else 1) n s3.th.handle c.head 0 s3.cyc)
        else s3
      (s4.leave pc target).stepTrap user
    | none => s
  | none => s

/-- A member of a convoy has executed, and control passes to the next (R147); after the last one the convoy stands until
CONVOY_COMPLETE (R32). -/
def State.memberDone (s0 s : State) (i : Instr) (target : Option (BitVec 64)) : State :=
  let c0 := s0.convoyOf i
  let c := (s.th.convoy).getD c0
  let pc := s0.th.arch.pc
  let sample := if s0.th.sup.level then [] else (s0.sampleOf i c.next pc (decide (s.vl < s0.vl) || decide (s0.th.faulted = some pc)) s.doneAt).toList
  let last := decide (c.members.length ≤ c.next + 1)
  let c' := { c with
    next := c.next + 1, written := c.written ++ (Uses.of s0.w i).writeCodes, sampled := c.sampled ++ sample
    passing := if last then some (target, s0.th.sliceStop.isSome) else none }
  { s with th := { s.th with
      convoy := some c', wait := none, refused := none, stalledAt := none
      arch := if last then s.th.arch else { s.th.arch with pc := pc + 4, loops := (loopExit s.th.arch.loops pc).2 } } }

/-- The threads of the current thread's node at a scope field (R36, R95); SYSTEM is every observer. -/
def State.scopeThreads (s : State) (c : BitVec 5) : List Handle :=
  match s.myLaunch with
  | none => [s.th.handle]
  | some l =>
    let t := l.info.tree
    let h := s.height c t.length
    let node (x : Thread) : Nat := denseIndex t (widFields t x.wid.toNat) h
    (s.threads.filter fun x => decide (handleLaunch x.handle = handleLaunch s.th.handle) && (decide (t.length ≤ h) || decide (node x = node s.th))).map
      (·.handle)

/-- The scope of an ordering operation that writes, or that orders writes. -/
def orderScope (i : Instr) : Option (BitVec 5) :=
  match i with
  | .stq _ _ _ c _ | .atom _ _ _ c _ _ | .cas _ _ c _ _ | .fence c _ | .fencex c _ _ | .bar c | .bara c _ | .bard c _ | .sigadd _ _ c
  | .snowpub _ _ c => some c
  | _ => none

/-- Whether operations at a scope order at the home directory, or beyond it: at the binding of its level, and while a thread of a scope
bound at CORE or below is away from its core (R44). -/
def State.atHome (s : State) (c : BitVec 5) : Bool :=
  match s.myLaunch with
  | none => false
  | some l =>
    match (if c.toNat = 31 then none else l.info.tree[s.height c l.info.tree.length]?) with
    | none => true
    | some v =>
      decide (5 ≤ v.bound.toNat) || (decide (v.bound.toNat ≤ 2) &&
        (s.scopeThreads c).any fun h => (s.thread? h).any fun t => decide (t.core ≠ t.bound))

/-- An instruction outside convoys has executed. -/
def State.retire (s0 s : State) (i : Instr) (target : Option (BitVec 64)) : State :=
  let pc := s0.th.arch.pc
  let user := !s0.th.sup.level
  let t1 := { (s.th.countMix (groupOf i)).countUnit 1 0 s0.th.sliceStop.isSome with ordering := (orderScope i).any s0.atHome }
  let s1 := ({ s with th := t1 }).bumpCore 0x00 1
  let s2 := match (if user then s0.sampleOf i 0 pc (decide (s.vl < s0.vl) || decide (s0.th.faulted = some pc)) s.doneAt else none) with
    | some x => s1.countSample x pc 1
    | none => s1
  (s2.leave pc target).stepTrap user

/-- An instruction has executed. -/
def State.finish (s0 s : State) (i : Instr) (target : Option (BitVec 64)) : State :=
  if s0.convoys i then s0.memberDone s i target else s0.retire s i target

/-- The outcome of an effect on a state. -/
def conclude (i : Instr) (s : State) (e : Effect) : Step :=
  match e with
  | .next s' => .next (s.finish s' i none).advance
  | .jump s' a => .next (s.finish s' i (some a)).advance
  | .done s' => .next s'.advance
  | .trouble s' t elem => s'.stop i t elem

/-- An instruction: the checks before it, its own effect, and what follows. -/
def issue (i : Instr) (s : State) (body : State → Effect) : Step :=
  match s.gate i with
  | some e => conclude i s e
  | none => conclude i s (s.outcome i (body s))

end Sys2Proof.Machine
end

