-- ==== Sys2Proof/Machine/Crs.lean ====
section
/-! DEFINITION. Reads and writes of control registers by CRD, CWR and CXG (R60, R61, R173, R284, R309, R310, R381, R382,
R396, R397, R406), with the effects that a write of a shared register has. -/

namespace Sys2Proof.Machine

/-- Access of any index at a level: none is the illegal-instruction trap (R60). -/
def crKind (x : Nat) : Option CrKind := if x < 0x800 then userKind x else supKind x

/-- What an assigned register reads as; a write-only one reads zero (R60). -/
def State.crRead (s : State) (x : Nat) : BitVec 64 :=
  if x < 0x800 then
    BitVec.ofNat 64 (({ s.th with arch := if savedCrs.contains x then s.archOf s.th else s.th.arch } : Thread).userCr s.cyc x)
  else
    match s.myDctx with
    | none => BitVec.ofNat 64 (own x)
    | some d =>
      match x with
      | 0x821 => BitVec.ofNat 64 (s.th.sinfo d.part)
      | 0x830 => d.fqdesc.setWidth 64
      | 0x831 => BitVec.ofNat 64 ((if d.fqWait.isEmpty then 0 else 1) + (if d.fqOvf then 2 else 0))
      | 0x832 => d.ptroot.setWidth 64
      | 0x833 => d.pasid.setWidth 64
      | 0xA00 => d.mrdesc.setWidth 64
      | 0xA01 => BitVec.ofNat 64 (s.mrstat d)
      | 0xA02 => d.mpbase.setWidth 64
      | 0xA03 => d.mpcnt.setWidth 64
      | 0xA05 => d.mpdiv.setWidth 64
      | 0xA60 => d.dwdesc.setWidth 64
      | 0xA61 => d.dsa[0].setWidth 64
      | 0xA62 => d.dsa[1].setWidth 64
      | 0xA63 => d.dsa[2].setWidth 64
      | 0xA64 => d.dsa[3].setWidth 64
      | 0xA65 => d.dsm[0].setWidth 64
      | 0xA66 => d.dsm[1].setWidth 64
      | 0xA67 => d.dsm[2].setWidth 64
      | 0xA68 => d.dsm[3].setWidth 64
      | _ => BitVec.ofNat 64 (own x)
where
  own (x : Nat) : Nat :=
    if x = 0x810 then s.ipendNow.toNat else if 0xA40 ≤ x then s.th.dbg.cr x else s.th.supCr x

/-- What a write comes to. -/
inductive CrWrite where
  | ok (s : State)
  /-- the illegal-instruction trap: the register is unchanged -/
  | illegal
  /-- operation refused, with its reason (R293) -/
  | refused (reason : Nat)

/-! ### Writes with an effect of their own -/

/-- CWR to `vform`: `vcount` becomes G / w, at most 256 (R64). -/
def State.writeVform (s : State) (v : BitVec 64) : CrWrite :=
  let f := v.setWidth 4
  if 11 < f.toNat then .illegal
  else .ok { s with th := { s.th with arch :=
    ({ s.th.arch with vform := f } : Arch).setVcount (grantCount s.th.lgG (formWidth f)) } }

/-- `ipend`: a written 1 clears a latched line; bit 8 has none to clear (R284). -/
def State.clearIpend (s : State) (v : BitVec 64) : State :=
  { s with th := { s.th with sup := { s.th.sup with ipend := s.th.sup.ipend &&& ~~~(v.setWidth 12 &&& 0xEFF) } } }

/-- Changes the current thread's device context. -/
def State.modMine (s : State) (f : Dctx → Dctx) : State := s.modDctx (handleDctx s.th.handle) f

/-- `fqdesc` (R309, R310). -/
def State.writeFqdesc (s : State) (v : BitVec 64) : CrWrite :=
  if (v.setWidth 56).toNat % 48 ≠ 0 then .illegal else .ok (s.modMine fun d => { d with fqdesc := v.setWidth 56 })

/-- `fqstat`: a written 1 clears ovf. -/
def State.clearFqstat (s : State) (v : BitVec 64) : State :=
  if v.getLsbD 1 then s.modMine fun d => { d with fqOvf := false } else s

/-- `mrdesc` (R382). -/
def State.writeMrdesc (s : State) (v : BitVec 64) : CrWrite :=
  if (v.setWidth 56).toNat % 48 ≠ 0 then .illegal else .ok (s.modMine fun d => { d with mrdesc := v.setWidth 56, mrBroken := false })

/-- `mrstat`: a written 1 clears hw. -/
def State.clearMrstat (s : State) (v : BitVec 64) : State :=
  if v.getLsbD 0 then s.modMine fun d => { d with mrHw := false } else s

/-- `mpctl` free: ends enforcement for the replaying launch of the device context; a thread of it that waits in the arbiter's FIFO for a
recorded core may have any that it could use (R391). -/
def State.freeReplay (s : State) (v : BitVec 64) : State :=
  if v.getLsbD 0 then
    let mine (h : Handle) : Bool := (s.launchOf? h).any fun l => decide (l.dc = handleDctx s.th.handle) && decide (l.acts = 2)
    let free (t : Thread) : Thread :=
      match t.place with
      | .fifo _ => if mine t.handle then { t with migrTo := none } else t
      | _ => t
    { s with
      launches := s.launches.map fun l => if l.dc = handleDctx s.th.handle ∧ l.info.mode = 2 then { l with enforced := false } else l
      th := free s.th, others := s.others.map free }
  else s

/-- Clears the wait of a thread so that it executes its instruction again. -/
def Thread.retry (t : Thread) : Thread := { t with wait := none, parked := none }

/-- Whether a thread is parked by a record of kind 0x01, and whether it waits on a page request (R310). -/
def Thread.parkedAccess (t : Thread) : Bool :=
  match t.parked with
  | some r => decide (r.kind = 0x01)
  | none => false
def Thread.waitsPage (t : Thread) : Bool :=
  match t.wait with
  | some { kind := .page .., .. } => true
  | _ => false

/-- Withdraws a waiting record of kind 0x01 of a thread. -/
def Dctx.withdraw (d : Dctx) (h : Handle) : Dctx :=
  { d with fqWait := d.fqWait.filter fun r => !(decide (r.kind = 0x01) && decide (r.handle = h)) }

/-- Every held device access of a device context is to be retried at once (R435). -/
def State.retryHeld (s : State) (dc : DctxId) : State :=
  match s.dctx? dc with
  | none => s
  | some d =>
    if d.heldItems.isEmpty then s
    else { s with agenda := s.agenda ++ [.event .heldAccessRetry (.dctx dc)] }

/-- A thread that waited for a page waits no more: where it was the last, so does its page request (R310). -/
def State.leavePage (s : State) (t : Thread) : State :=
  match t.wait with
  | some { kind := .page va .., .. } => s.releasePage (handleDctx t.handle) (BitVec.ofNat 64 (va.toNat / 4096))
  | _ => s

/-- A write of `fqresume` with act a for the thread with handle h (R310): none when it names no such thread. -/
def State.resumeParked (s : State) (h : Handle) (a : Nat) : Option State :=
  match s.thread? h with
  | none => none
  | some t =>
    if handleDctx h ≠ handleDctx s.th.handle ∨ t.place = .ended ∨ !(t.parkedAccess || t.waitsPage) then none
    else
      let s1 := s.retryHeld (handleDctx h)
      match a with
      | 0 => some (if t.parkedAccess then s1.modThread h (·.retry) else s1)
      | 1 => some (((s1.modDctx (handleDctx h) (·.withdraw h)).endThread h).leavePage t)
      | _ => some (((s1.modDctx (handleDctx h) (·.withdraw h)).makeHeld h).leavePage t)

/-- `fqresume` (R310). -/
def State.writeFqresume (s : State) (v : BitVec 64) : CrWrite :=
  let a := bitsOf v.toNat 32 2
  if a = 3 then .illegal
  else
    match s.resumeParked (v.setWidth 32) a with
    | some s1 => .ok s1
    | none => .refused 1

/-! ### Slice watchpoints (R406) -/

/-- L2 slices on a die: one per enabled pod of a compute die, and the M-die's home agent (R406). -/
def State.slicesOn (s : State) (d : Nat) : Nat :=
  if !(s.mod.enabled.getLsbD d && s.mod.present.getLsbD d) then 0
  else if d = 8 then 1
  else if h : d < 8 then popcount (s.mod.pods[d]).toNat 48 else 0

/-- The slice of a die that serves a sector (R406). -/
def State.sliceFor (s : State) (d q : Nat) : Nat := Config.sliceOf d (q / 4) % max 1 (s.slicesOn d)

/-- Sectors of the slice watchpoints that hold comparators on a die: those of the partition that the die belongs to, and all at
the M-die. -/
def State.sectorsOn (s : State) (d : Nat) : List Nat :=
  (s.dctxs.filter fun x => decide (d = 8) || s.dieOn x.part d).flatMap fun x => x.dsSector.toList.filterMap id

/-- Comparators installed in a slice of a die. -/
def State.comparators (s : State) (d k : Nat) : Nat := ((s.sectorsOn d).filter fun q => decide (s.sliceFor d q = k)).length

/-- Whether every slice that serves a sector has a free comparator: on each enabled compute die of the partition, and at
the M-die. -/
def State.comparatorsFree (s : State) (p : PartId) (q : Nat) : Bool :=
  (List.range 9).all fun d => (decide (d < 8) && !s.dieOn p d) || decide (s.comparators d (s.sliceFor d q) < 4)

/-- Sets `dsm`k: mask and flags from v, en and st. -/
def dsmWord (v : BitVec 54) (en st : Nat) : BitVec 54 :=
  BitVec.ofNat 54 (setBits (setBits v.toNat 48 1 en) 51 3 st)

/-- The sector that an address names to the current thread, for a slice watchpoint, or the refusal's st: in its névé window, that of
the backing region (R90, R407; DEDUCED, log 174); elsewhere that of its leaf, which must grant writing (R406). -/
def State.watchedSector (s : State) (d : Dctx) (a : BitVec 64) : Except Nat Nat :=
  match (s.windowOf s.th).filter fun (base, n, _) => decide (base ≤ a.toNat) && decide (a.toNat < base + n) with
  | some (base, _, key) => .ok ((key + (a.toNat - base)) / 48)
  | none =>
    match s.leafUsed d a with
    | .error _ => .error 3
    | .ok l =>
      if leafAts l then .error 4
      else if !l.getLsbD 3 then .error 3
      else .ok ((leafFrame l * 196608 + pageOffset a) / 48)

/-- Installs slice watchpoint k, whose `dsm` is v, at the sector that `dsa`k maps to now (R406). -/
def State.installSlice (s : State) (d : Dctx) (k : Fin 4) (v : BitVec 54) : State :=
  let refuse (st : Nat) : State := s.modDctx d.id fun x => { x with dsm := x.dsm.set k (dsmWord v 0 st), dsSector := x.dsSector.set k none }
  match s.watchedSector d (va56 d.dsa[k]) with
  | .error st => refuse st
  | .ok q =>
    if s.comparatorsFree d.part q then
      s.modDctx d.id fun x => { x with dsm := x.dsm.set k (dsmWord v 1 1), dsSector := x.dsSector.set k (some q) }
    else refuse 2

/-- Removes slice watchpoint k. -/
def Dctx.removeSlice (d : Dctx) (k : Fin 4) (v : BitVec 54) : Dctx :=
  { d with dsm := d.dsm.set k (dsmWord v 0 0), dsSector := d.dsSector.set k none }

/-- A write of `dsm`k: install, remove, or a change in place. -/
def State.writeDsm (s : State) (k : Fin 4) (v : BitVec 64) : CrWrite :=
  match s.myDctx with
  | none => .ok s
  | some d =>
    let w := v.setWidth 54
    if !v.getLsbD 48 then .ok (s.modDctx d.id (·.removeSlice k w))
    else if d.dsSector[k].isSome then .ok (s.modDctx d.id fun x => { x with dsm := x.dsm.set k (dsmWord w 1 1) })
    else .ok (s.installSlice d k w)

/-- A write of `dsa`k: while installed it removes and installs again (R406). -/
def State.writeDsa (s : State) (k : Fin 4) (v : BitVec 64) : CrWrite :=
  match s.myDctx with
  | none => .ok s
  | some d =>
    if (v.setWidth 56).toNat % 48 ≠ 0 then .illegal
    else
      let was := d.dsSector[k].isSome
      let d1 := { d with dsa := d.dsa.set k (v.setWidth 56), dsSector := d.dsSector.set k none }
      let s1 := s.putDctx d1
      .ok (if was then s1.installSlice d1 k d.dsm[k] else s1)

/-! ### Writes (R60, R61, R284, R396) -/

/-- Whether a user register's written fields hold assigned values (R61). -/
def userValueOk (x : Nat) (v : BitVec 64) : Bool :=
  match x with
  | 0x006 => decide (bitsOf v.toNat 0 4 ≤ 8)
  | 0x009 => decide (bitsOf v.toNat 0 4 ≤ 5) && decide (bitsOf v.toNat 4 4 ≤ 11)
  | 0x010 => decide (bitsOf v.toNat 0 3 ≤ 4)
  | _ => true

/-- A write of a user register: one marked S is held in the save area where the thread's class has none (R61, R65, R66). -/
def State.writeUser (s : State) (x : Nat) (v : BitVec 64) : State :=
  let s1 : State := { s with th := { s.th with arch := s.th.arch.putCr x v } }
  if savedCrs.contains x && decide (s.th.cls ≠ .tensor) then
    match s.myDctx, s.myLaunch with
    | some d, some l =>
      s1.writeRegions d (l.saveAddr (handleDense s.th.handle)) []
        [(768 + 8 * x, leBytes 8 (({ Thread.start with arch := s1.th.arch } : Thread).userCr 0 x))]
    | _, _ => s1
  else s1

/-- A write of a register that may be written. What it would write to the read-only fields of `migctl` is discarded (DESIGN
CHOICE, log 155). -/
def State.crWrite (s : State) (x : Nat) (v : BitVec 64) : CrWrite :=
  let a := s.th.arch
  match x with
  | 0x001 => s.writeVform v
  | 0x005 => .ok (if s.th.cls = .vector then s else { s with th := { s.th with arch := a.putCr x v } })
  | 0x080 => .ok { s with th := { s.th with arch := { a with migctl := v.setWidth 2 } } }
  | 0x810 => .ok (s.clearIpend v)
  | 0x830 => s.writeFqdesc v
  | 0x831 => .ok (s.clearFqstat v)
  | 0x834 => s.writeFqresume v
  | 0xA00 => s.writeMrdesc v
  | 0xA01 => .ok (s.clearMrstat v)
  | 0xA02 => if (v.setWidth 56).toNat % 32 ≠ 0 then .illegal else .ok (s.modMine fun d => { d with mpbase := v.setWidth 56 })
  | 0xA03 => .ok (s.modMine fun d => { d with mpcnt := v.setWidth 32 })
  | 0xA04 => .ok (s.freeReplay v)
  | 0xA4A | 0xA4B =>
    if 16 < bitsOf v.toNat 0 5 then .illegal else .ok { s with th := { s.th with dbg := s.th.dbg.putCr x v } }
  | 0xA50 =>
    if (v.setWidth 56).toNat % 48 ≠ 0 then .illegal else .ok { s with th := { s.th with dbg := s.th.dbg.putCr x v } }
  | 0xA60 => if (v.setWidth 56).toNat % 48 ≠ 0 then .illegal else .ok (s.modMine fun d => { d with dwdesc := v.setWidth 56 })
  | 0xA61 => s.writeDsa 0 v
  | 0xA62 => s.writeDsa 1 v
  | 0xA63 => s.writeDsa 2 v
  | 0xA64 => s.writeDsa 3 v
  | 0xA65 => s.writeDsm 0 v
  | 0xA66 => s.writeDsm 1 v
  | 0xA67 => s.writeDsm 2 v
  | 0xA68 => s.writeDsm 3 v
  | _ =>
    if x < 0x800 then
      if userValueOk x v then .ok (s.writeUser x v) else .illegal
    else if 0xA40 ≤ x then .ok { s with th := { s.th with dbg := s.th.dbg.putCr x v } }
    else .ok { s with th := { s.th with sup := s.th.sup.putCr x v } }

/-- What a register instruction comes to: the checks of R60 in their order. -/
inductive CrCheck where
  | privilege
  | illegal
  | may (k : CrKind)

def State.crCheck (s : State) (x : Nat) : CrCheck :=
  if 0x800 ≤ x ∧ !s.th.sup.level then .privilege
  else
    match crKind x with
    | some k => .may k
    | none => .illegal

/-- Traps of an instruction by name: illegal instruction, privilege, misaligned, operation refused (R285). -/
def illegalTrap (i : Instr) : Trouble := .trap 0x01 (wordOf i) 0
def privilegeTrap (i : Instr) : Trouble := .trap 0x02 (wordOf i) 0
def misaligned (a : BitVec 64) : Trouble := .trap 0x04 0 a
def refusedTrap (reason : Nat) : Trouble := .trap 0x0F (BitVec.ofNat 64 reason) 0

/-- The effect of a write by an instruction, with what follows when it is made. -/
def State.crEffect (s : State) (i : Instr) (w : CrWrite) (after : State → State) : Effect :=
  match w with
  | .ok s1 => .next (after s1)
  | .illegal => .trouble s (illegalTrap i) none
  | .refused r => .trouble s (refusedTrap r) none

end Sys2Proof.Machine
end

