-- ==== Sys2Proof/Machine/ScalarMem.lean ====
section
/-! DEFINITION. Scalar loads and stores, ordered accesses, atomics, prefetch and fences (R140, R149 to R155). -/

namespace Sys2Proof.Machine

/-- A loaded value in a register: sign- or zero-extended (R149). -/
def extend (z : BitVec 1) (n v : Nat) : BitVec 64 :=
  if z = 1 then BitVec.ofNat 64 v else BitVec.ofInt 64 (signed (8 * n) v)

/-- LD at an address. -/
def loadBody (d : BitVec 5) (z : BitVec 1) (n : Nat) (a : BitVec 64) (s : State) : Effect :=
  match s.readC a n true with
  | .error t => .trouble s t none
  | .ok (v, sp) => .next ((s.afterRead a n sp).setG d (extend z n v))

/-- The event of a plain store when it touches an L page (R301, R377). -/
def plainStoreEvent (op elem : Nat) (a : BitVec 64) (sp : List Span) (old new : Nat) : List EventItem :=
  if onLPage sp then [eventItem 0x08 op elem a sp old new] else []

/-- A store over checked spans with its event, when it has one: admission, the write, the record. -/
def State.storeWith (s : State) (a : BitVec 64) (sp : List Span) (bs : List (BitVec 8)) (ev : List EventItem) : Effect :=
  if ev.isEmpty then .next (s.storeSpans a sp bs)
  else
    match s.allowEvent ev with
    | .error t => .trouble s t none
    | .ok _ => .next ((s.storeSpans a sp bs).commitNow ev)

/-- ST at an address. -/
def storeBody (t : BitVec 5) (n : Nat) (a : BitVec 64) (s : State) : Effect :=
  match s.checkC a n false true true with
  | .error e => .trouble s e none
  | .ok sp =>
    let v := (s.g t).toNat % 2 ^ (8 * n)
    s.storeWith a sp (leBytes n v) (plainStoreEvent 0 0 a sp (leNat (s.spanBytes sp)) v)

def execLd (d b : BitVec 5) (z : BitVec 1) (k : BitVec 2) (o : BitVec 12) (s : State) : Step :=
  issue (.ld d b z k o) s fun s => loadBody d z (2 ^ k.toNat) (s.g b + o.signExtend 64) s
def execLdIndexed (d b : BitVec 5) (z : BitVec 1) (k : BitVec 2) (x : BitVec 5) (s : State) : Step :=
  issue (.ldIndexed d b z k x) s fun s => loadBody d z (2 ^ k.toNat) (s.g b + s.g x) s
def execSt (t b : BitVec 5) (k : BitVec 2) (o : BitVec 12) (s : State) : Step :=
  issue (.st t b k o) s fun s => storeBody t (2 ^ k.toNat) (s.g b + o.signExtend 64) s
def execStIndexed (t b : BitVec 5) (k : BitVec 2) (x : BitVec 5) (s : State) : Step :=
  issue (.stIndexed t b k x) s fun s => storeBody t (2 ^ k.toNat) (s.g b + s.g x) s

/-- Address of LDQ and STQ (R151). -/
def orderedAddr (b : BitVec 64) (n : Nat) (o : BitVec 7) : BitVec 64 := b + o.signExtend 64 * BitVec.ofNat 64 n

def execLdq (d b : BitVec 5) (z : BitVec 1) (k : BitVec 2) (c : BitVec 5) (o : BitVec 7) (s : State) : Step :=
  issue (.ldq d b z k c o) s fun s =>
    let n := 2 ^ k.toNat
    let a := orderedAddr (s.g b) n o
    if a.toNat % n ≠ 0 then .trouble s (misaligned a) none
    else
      match s.readC a n true with
      | .error t => .trouble s t none
      | .ok (v, sp) =>
        let ev := [eventItem 0x01 0 0 a sp v 0]
        match s.allowEvent ev with
        | .error t => .trouble s t none
        | .ok _ => .next (((s.afterRead a n sp).setG d (extend z n v)).commitNow ev)

def execStq (t b : BitVec 5) (k : BitVec 2) (c : BitVec 5) (o : BitVec 7) (s : State) : Step :=
  issue (.stq t b k c o) s fun s =>
    let n := 2 ^ k.toNat
    let a := orderedAddr (s.g b) n o
    if a.toNat % n ≠ 0 then .trouble s (misaligned a) none
    else
      match s.checkC a n false true true with
      | .error e => .trouble s e none
      | .ok sp =>
        let v := (s.g t).toNat % 2 ^ (8 * n)
        s.storeWith a sp (leBytes n v) [eventItem 0x01 1 0 a sp (leNat (s.spanBytes sp)) v]

/-- The new value of an ATOM operation (R152, R123). -/
def atomResult (op : BitVec 4) (old v : BitVec 64) : BitVec 64 :=
  match op.toNat with
  | 0 => old + v
  | 1 => old &&& v
  | 2 => old ||| v
  | 3 => old ^^^ v
  | 4 => if old.slt v then old else v
  | 5 => if old.slt v then v else old
  | 6 => if old.ult v then old else v
  | 7 => if old.ult v then v else old
  | _ => v

/-- One RMW on an aligned 8-byte word: its checks, its new value (none writes nothing), its event and destination. -/
def rmwBody (a : BitVec 64) (new : BitVec 64 → Option (BitVec 64)) (ev : List Span → BitVec 64 → List EventItem)
    (after : BitVec 64 → State → State) (s : State) : Effect :=
  if a.toNat % 8 ≠ 0 then .trouble s (misaligned a) none
  else
    match s.checkC a 8 true true true with
    | .error t => .trouble s t none
    | .ok sp =>
      let old := BitVec.ofNat 64 (leNat (s.spanBytes sp))
      match s.allowEvent (ev sp old) with
      | .error t => .trouble s t none
      | .ok _ =>
        let s0 := s.observe sp
        let s1 := match new old with
          | some x => s0.storeSpans a sp (leBytes 8 x.toNat) true
          | none => s0
        .next ((after old s1).commitNow (ev sp old))

def execAtom (d b : BitVec 5) (op : BitVec 4) (c : BitVec 5) (r : BitVec 2) (x : BitVec 5) (s : State) : Step :=
  issue (.atom d b op c r x) s fun s =>
    rmwBody (s.g b) (fun old => some (atomResult op old (s.g x)))
      (fun sp old => [eventItem 0x01 (2 + op.toNat) 0 (s.g b) sp old.toNat (s.g x).toNat]) (fun old s => s.setG d old) s

def execCas (d b c : BitVec 5) (r : BitVec 2) (x : BitVec 5) (s : State) : Step :=
  issue (.cas d b c r x) s fun s =>
    rmwBody (s.g b) (fun old => if old = s.g d then some (s.g x) else none)
      (fun sp old => [eventItem 0x01 (if old = s.g d then 11 else 12) 0 (s.g b) sp old.toNat (s.g x).toNat])
      (fun old s => s.setG d old) s

/-- PREF has no architectural effect (R150). -/
def execPref (h b : BitVec 5) (o : BitVec 12) (s : State) : Step := issue (.pref h b o) s fun s => .next s

/-- A FENCE.sl of the current thread: its own earlier stores are no longer seen old (R98, R118). -/
def State.fenceStores (s : State) : State :=
  { s with hist := s.hist.map fun e => if e.path = 0 ∧ e.writer = some s.th.handle then { e with fenced := true } else e }

/-- FENCE: a store → load pair ends what the thread may still see old of its own writes (R98, R118, R154). -/
def execFence (c : BitVec 5) (p : BitVec 4) (s : State) : Step :=
  issue (.fence c p) s fun s => .next (if p.getLsbD 2 then s.fenceStores else s)

/-- Whether an instruction is a TSTORE. -/
def isStoring (i : Instr) : Bool :=
  match i with
  | .tstore .. => true
  | _ => false

/-- Whether the thread's own writes that a FENCEX source mask covers have completed, and the home has taken the transaction of each
(R101, R155, R234, R309, R371); a store that has met no other die is ordered by its request's place in the home's queue. -/
def State.coveredDone (s : State) (p : BitVec 4) : Bool :=
  (!p.getLsbD 0 || s.th.runs.all fun r => r.writes.isEmpty && !isStoring r.instr) && (!p.getLsbD 1 || s.th.bxq.isEmpty) && s.fab.asks.all (fun x => !(x.write && x.who.contains s.th.handle)) &&
  (!p.getLsbD 2 || (decide (s.th.remoteOut = 0) && (match s.myDctx with
    | some d => !d.fqWait.any fun r => decide (r.kind = 0x05) && decide (r.handle = s.th.handle)
    | none => true)))

/-- Whether a FENCEX of a thread with source mask p covers a write (R101): its own of paths C, B and R, those of requests whose
report it has read, and those that an XRECV of it has received. -/
def OldByte.covered (e : OldByte) (t : Thread) (p : BitVec 4) : Bool :=
  p.getLsbD e.path &&
  (match e.path with
   | 1 => decide (e.writer = some t.handle) || t.told.contains e.request
   | 3 => e.received && e.seenC.contains t.handle
   | _ => decide (e.writer = some t.handle))

/-- A covered write is ordered before the later accesses of the destination paths that threads make, or that are made on their
behalf; of every one in SYSTEM (log 10). -/
def OldByte.order (e : OldByte) (q : BitVec 4) (all : Bool) (hs : List Handle) : OldByte :=
  { e with
    seenC := if q.getLsbD 0 then e.seenC ++ hs else e.seenC, seenB := if q.getLsbD 1 then e.seenB ++ hs else e.seenB
    allC := e.allC || (all && q.getLsbD 0), allB := e.allB || (all && q.getLsbD 1) }

/-- The effect of a FENCEX. -/
def State.orderPaths (s : State) (c : BitVec 5) (q p : BitVec 4) : State :=
  { s with hist := s.hist.map fun e => if e.covered s.th p then e.order q (decide (c.toNat = 31)) (s.scopeThreads c) else e }

/-- FENCEX: waits for the covered writes, then orders them before later accesses of the destination paths (R155). -/
def fencexBody (c : BitVec 5) (q p : BitVec 4) (s : State) : Effect :=
  if s.coveredDone p then .next (s.orderPaths c q p) else .trouble s (.wait .fencex) none

def execFencex (c : BitVec 5) (q p : BitVec 4) (s : State) : Step := issue (.fencex c q p) s (fencexBody c q p)

/-- FENCEX_COMPLETE (R155): a waiting FENCEX whose covered writes have completed. -/
def execFencexComplete (s : State) : Step :=
  match s.th.wait with
  | some { kind := .fencex, instr := .fencex c q p } => if s.coveredDone p then issue (.fencex c q p) s (fencexBody c q p) else .next s
  | _ => .next s

end Sys2Proof.Machine
end

