-- ==== Sys2Proof/Machine/Sync.lean ====
section
/-! DEFINITION. Barriers, signals, armed actions and watermarks as instructions (R106, R109 to R116, R156 to R165). -/

namespace Sys2Proof.Machine

/-! ### Barriers (R113, R156 to R159) -/

/-- The barrier that an instruction names. -/
inductive BarPlace where
  /-- a lane barrier (R115) -/
  | lane
  /-- height 0: one member, no memory effect (R156) -/
  | single
  /-- a barrier word: its address and its members -/
  | word (addr : BitVec 64) (members : Nat)
  deriving DecidableEq, Repr

/-- The barrier of BAR, BARA and BARW at a scope field (R156). -/
def Launch.barPlace (l : Launch) (wid : BitVec 64) (h : Nat) : BarPlace :=
  let t := l.info.tree
  if h = 0 then (if laneLeaf t then .lane else .single)
  else if regionWords t h = 0 then .lane
  else .word (l.info.sync + BitVec.ofNat 64 (barrierOffset t (widFields t wid.toNat) h)) (membersAt t h)

/-- The barrier of BARD over domain k below height h, none where it is illegal (R159). -/
def Launch.domainPlace (l : Launch) (wid : BitVec 64) (h k : Nat) : Option BarPlace :=
  let t := l.info.tree
  let idx := widFields t wid.toNat
  if h = 0 then none
  else
    match (t[h - 1]?).bind fun v => v.domains[k]? with
    | none => none
    | some m =>
      if !m.getLsbD (idx.getD (h - 1) 0) then none
      else if regionWords t h = 0 then some .lane
      else some (.word (l.info.sync + BitVec.ofNat 64 (domainOffset t idx (h - 1) k)) (popcount m.toNat 64 * membersAt t (h - 1)))

/-- A barrier word of the current thread's launch, after every earlier write (R112): translated against no permission
(R140), its poison consumed. -/
def State.readBar (s : State) (a : BitVec 64) : Except Trouble (List Span × BarWord) :=
  match s.myDctx with
  | none => .error .noContext
  | some d =>
    match s.barSpans d a with
    | .error e => .error e
    | .ok sp =>
      match spanPoison s.poison sp 0 with
      | some o => .error (.trap 0x0A 0 (sectorAddress (a + BitVec.ofNat 64 o)))
      | none => .ok (sp, barWord (s.spanBytes sp))

/-- The event of an arrival (R377). -/
def arrivalItem (op : Nat) (a : BitVec 64) (sp : List Span) (b : BarWord) (last : Bool) : EventItem :=
  { eventItem 0x02 op 0 a sp b.arrived b.gen with last := last }

/-- One arrival RMW with its event (R113, R157): the word as read, and whether the generation completed. -/
def State.arriveAt (s : State) (a : BitVec 64) (members op : Nat) : Except Trouble (State × BarWord × Bool) :=
  match s.readBar a with
  | .error e => .error e
  | .ok (sp, b) =>
    let (b', last) := b.arrive members
    let ev := [arrivalItem op a sp b last]
    match s.allowEvent ev with
    | .error e => .error e
    | .ok _ =>
      let s1 := (s.putBar s.th.handle sp b').commitNow ev
      let mine := (a, BitVec.ofNat 64 b.gen)
      .ok ({ s1 with th := { s1.th with arrivals := s1.th.arrivals.filter (fun x => decide (x.1 ≠ a)) ++ [mine] } }, b, last)

/-- The wait half of a barrier (R113, R157): completes once the word's generation differs. -/
def waitHalf (a gen : BitVec 64) (done : State → State) (s : State) : Effect :=
  match s.readBar a with
  | .error e => .trouble s e none
  | .ok (_, b) => if b.gen ≠ gen.toNat then .next (done s) else .trouble s (.wait (.barrier a gen)) none

/-- Forgets that the thread has arrived at the BAR or BARD at an address. -/
def State.dropHalf (s : State) (pc : BitVec 64) : State :=
  { s with th := { s.th with barHalf := s.th.barHalf.filter fun x => decide (x.1 ≠ pc) } }

/-- BAR and BARD (R158, R159): the arrival, once, then the wait half. -/
def barBody (p : BarPlace) (op : Nat) (s : State) : Effect :=
  match p with
  | .lane | .single => .next s
  | .word a members =>
    let pc := s.th.arch.pc
    match s.th.barHalf.find? fun x => decide (x.1 = pc) with
    | some (_, gen) => waitHalf a gen (·.dropHalf pc) s
    | none =>
      match s.arriveAt a members op with
      | .error e => .trouble s e none
      | .ok (s1, b, last) =>
        if last then .next s1
        else
          let gen := BitVec.ofNat 64 b.gen
          .trouble { s1 with th := { s1.th with barHalf := s1.th.barHalf ++ [(pc, gen)] } } (.wait (.barrier a gen)) none

/-- The barrier at a scope field of the current thread. -/
def State.barAt (s : State) (c : BitVec 5) : BarPlace :=
  match s.myLaunch with
  | some l => l.barPlace s.th.wid (s.height c l.info.tree.length)
  | none => .single

def execBar (c : BitVec 5) (s : State) : Step := issue (.bar c) s fun s => barBody (s.barAt c) 0 s

/-- BARA (R157). At height 0 the rules state no generation: a free value (log 20). -/
def execBara (c d : BitVec 5) (s : State) : Step :=
  issue (.bara c d) s fun s =>
    match s.barAt c with
    | .lane => .next (s.setG d 0)
    | .single => .next (s.setG d (Config.openField 1 s.tick 0))
    | .word a members =>
      match s.arriveAt a members 1 with
      | .error e => .trouble s e none
      | .ok (s1, b, _) => .next (s1.setG d (BitVec.ofNat 64 b.gen))

def barwBody (c a : BitVec 5) (s : State) : Effect :=
  match s.barAt c with
  | .lane | .single => .next s
  | .word w _ => waitHalf w (s.g a) id s

def execBarw (c a : BitVec 5) (s : State) : Step := issue (.barw c a) s (barwBody c a)

def bardBody (i : Instr) (c : BitVec 5) (k : BitVec 3) (s : State) : Effect :=
  match s.myLaunch with
  | none => .next s
  | some l =>
    match l.domainPlace s.th.wid (s.height c l.info.tree.length) k.toNat with
    | none => .trouble s (illegalTrap i) none
    | some p => barBody p 2 s

def execBard (c : BitVec 5) (k : BitVec 3) (s : State) : Step := issue (.bard c k) s (bardBody (.bard c k) c k)

/-- BARRIER_WAIT_COMPLETE (R157): a thread in BARW or in a barrier's wait half, whose word reads a new generation. -/
def execBarrierWaitComplete (s : State) : Step :=
  match s.th.wait with
  | some { kind := .barrier a gen, instr := i } =>
    match s.readBar a with
    | .ok (_, b) =>
      if b.gen = gen.toNat then .next s
      else
        match i with
        | .bar c => issue i s fun s => barBody (s.barAt c) 0 s
        | .barw c a => issue i s (barwBody c a)
        | .bard c k => issue i s (bardBody i c k)
        | _ => .next s
    | .error e => s.stop i e none
  | _ => .next s

/-! ### Signals (R109, R110, R160) -/

/-- SIGADD: one RMW, then the actions that it crosses (R110). -/
def sigaddBody (d a : BitVec 5) (s : State) : Effect :=
  let addr := s.g a
  if addr.toNat % 8 ≠ 0 then .trouble s (misaligned addr) none
  else
    match s.checkC addr 8 true true true with
    | .error t => .trouble s t none
    | .ok sp =>
      let old := leNat (s.spanBytes sp)
      let new := (old + (s.g d).toNat) % 2 ^ 64
      let ev := [eventItem 0x03 0 0 addr sp old (s.g d).toNat]
      match s.allowEvent ev with
      | .error t => .trouble s t none
      | .ok _ => .next ((((s.storeSpans addr sp (leBytes 8 new) true).crossActions (firstKey sp) old new).commitNow ev).numberMine s (firstKey sp))

def execSigadd (d a c : BitVec 5) (s : State) : Step := issue (.sigadd d a c) s (sigaddBody d a)

/-- A SIGWAIT that completes: its event, and what its read tells. -/
def sigwaitDone (d a : BitVec 5) (woken : Option Nat) (v : Nat) (sp : List Span) (s : State) : Effect :=
  let ev := [eventItem 0x03 1 0 (s.g a) sp v (s.g d).toNat]
  match s.allowEvent ev with
  | .error (.wait k) => .trouble s (.wait ((woken.map WaitKind.woken).getD k)) none
  | .error t => .trouble s t none
  | .ok _ => .next ((s.afterRead (s.g a) 8 sp).commitNow ev)

/-- SIGWAIT; woken by a WAKE action on the word at a cell it completes whatever its threshold, and whatever has become of its page
since (R160, R161). -/
def sigwaitBody (d a : BitVec 5) (woken : Option Nat) (s : State) : Effect :=
  let addr := s.g a
  match woken with
  | some key =>
    let sp : List Span := [{ key := key, len := 8, leaf := 0 }]
    sigwaitDone d a woken (s.unitsValue .natural addr 8 sp) sp s
  | none =>
    if addr.toNat % 8 ≠ 0 then .trouble s (misaligned addr) none
    else
      match s.readC addr 8 true with
      | .error t => .trouble s t none
      | .ok (v, sp) => if (s.g d).toNat ≤ v then sigwaitDone d a none v sp s else .trouble s (.wait .signal) none

def execSigwait (d a c : BitVec 5) (s : State) : Step := issue (.sigwait d a c) s (sigwaitBody d a none)

/-- Whether a waiting SIGWAIT's counter has reached its threshold. -/
def State.signalMet (s : State) (d a : BitVec 5) : Bool :=
  match s.readC (s.g a) 8 true with
  | .ok (v, _) => decide ((s.g d).toNat ≤ v)
  | .error _ => true

/-- SIGWAIT_COMPLETE (R109, R161). -/
def execSigwaitComplete (s : State) : Step :=
  match s.th.wait with
  | some { kind := .woken key, instr := .sigwait d a c } => issue (.sigwait d a c) s (sigwaitBody d a (some key))
  | some { kind := .signal, instr := .sigwait d a c } =>
    if s.signalMet d a then issue (.sigwait d a c) s (sigwaitBody d a none) else .next s
  | _ => .next s

/-! ### Armed actions (R161, R162) -/

/-- Entries of a device context's action table. -/
def actionRoom : Nat := 65536

/-- Arms an action, or fires it at once when its threshold is met (R110). -/
def State.arm (s : State) (x : Action) (now : Nat) : State :=
  let dc := handleDctx s.th.handle
  if x.threshold.toNat ≤ now then { s with outbox := s.outbox ++ [.fire dc x (BitVec.ofNat 64 now) none] }
  else s.modDctx dc fun d => { d with actions := d.actions ++ [x] }

/-- SIGARM of an action code, with its argument and the multiple that the argument must be. -/
def sigarmBody (kind : Nat) (d a : BitVec 5) (arg : BitVec 64) (unit : Nat) (s : State) : Effect :=
  let addr := s.g a
  if addr.toNat % 8 ≠ 0 then .trouble s (misaligned addr) none
  else if arg.toNat % unit ≠ 0 then .trouble s (misaligned arg) none
  else
    match s.checkC addr 8 true true true, s.myDctx with
    | .error t, _ => .trouble s t none
    | .ok _, none => .next s
    | .ok sp, some dc =>
      let now := leNat (s.spanBytes sp)
      if actionRoom ≤ dc.actions.length then .trouble s (.wait .actions) none
      else
        let ev := [eventItem 0x03 (2 + kind) 0 addr sp now (s.g d).toNat]
        match s.allowEvent ev with
        | .error t => .trouble s t none
        | .ok _ =>
          let x : Action :=
            { key := firstKey sp, counter := addr, threshold := s.g d, kind := kind, arg := arg, handle := s.th.handle
              event := if s.th.sup.level then none else some s.th.arch.mevents, armed := s.tick }
          .next ((((s.observe sp).commitNow ev).arm x now).numberMine s (firstKey sp))

def sigarmWakeBody (d a : BitVec 5) (s : State) : Effect := sigarmBody 0 d a 0 1 s
def sigarmPostBody (d a b : BitVec 5) (s : State) : Effect := sigarmBody 1 d a (s.g b) 48 s
def sigarmLaunchBody (d a b : BitVec 5) (s : State) : Effect := sigarmBody 2 d a (s.g b) 64 s

def execSigarmWake (d a c : BitVec 5) (s : State) : Step := issue (.sigarmWake d a c) s (sigarmWakeBody d a)
def execSigarmPost (d a b c : BitVec 5) (s : State) : Step := issue (.sigarmPost d a b c) s (sigarmPostBody d a b)
def execSigarmLaunch (d a b c : BitVec 5) (s : State) : Step := issue (.sigarmLaunch d a b c) s (sigarmLaunchBody d a b)

/-- SIGARM_TABLE_FREE (R162): a SIGARM stalled on a full table executes again once an entry is free. -/
def execSigarmTableFree (s : State) : Step :=
  match s.th.wait, s.myDctx with
  | some { kind := .actions, instr := i }, some dc =>
    if actionRoom ≤ dc.actions.length then .next s
    else
      match i with
      | .sigarmWake d a _ => issue i s (sigarmWakeBody d a)
      | .sigarmPost d a b _ => issue i s (sigarmPostBody d a b)
      | .sigarmLaunch d a b _ => issue i s (sigarmLaunchBody d a b)
      | _ => .next s
  | _, _ => .next s

/-! ### Watermarks (R106, R165) -/

def execSnowpub (d a c : BitVec 5) (s : State) : Step :=
  issue (.snowpub d a c) s fun s =>
    rmwBody (s.g a) (fun old => some (if old.ult (s.g d) then s.g d else old))
      (fun sp old => [eventItem 0x04 0 0 (s.g a) sp old.toNat (s.g d).toNat]) (fun _ s => s) s

end Sys2Proof.Machine
end

