-- ==== Sys2Proof/Machine/Transfer.lean ====
section
/-! DEFINITION. Block transfer: the BXQ instructions, and the engines that run a context's requests (R166 to R170). An
engine event acts on the FIFO of the current thread. -/

namespace Sys2Proof.Machine

/-! ### Fields of a request (R166) -/

def Transfer.op (x : Transfer) : Nat := bitsOf x.w0.toNat 0 8
def Transfer.skind (x : Transfer) : Nat := bitsOf x.w0.toNat 8 2
def Transfer.dkind (x : Transfer) : Nat := bitsOf x.w0.toNat 10 2
def Transfer.tag (x : Transfer) : Nat := bitsOf x.w0.toNat 16 16
def Transfer.length (x : Transfer) : Nat := bitsOf x.w0.toNat 32 32

/-- Register endpoint word: registers, reserved bits, handle. -/
def endCount (w : BitVec 64) : Nat := bitsOf w.toNat 6 3 + 1
def endRegs (w : BitVec 64) (vrot : BitVec 5) : List (Fin 64) :=
  (List.range (endCount w)).map fun j => physV vrot (w.extractLsb' 0 6 + BitVec.ofNat 6 j)

/-- The thread whose registers an endpoint of kind k names, none when the handle names no context of the launch. -/
def State.endThread? (s : State) (h : Handle) (k : Nat) (w : BitVec 64) : Option Thread :=
  if k = 1 then s.thread? h
  else
    match s.thread? (endHandle h w) with
    | some t => if handleLaunch t.handle = handleLaunch h ∧ t.place ≠ .ended then some t else none
    | none => none

/-- The refusal code of a request, 0 when it is sound (R167, R169). -/
def State.transferCode (s : State) (h : Handle) (x : Transfer) : Nat :=
  let ends := [(x.skind, x.w1), (x.dkind, x.w2)].filter fun (k, _) => decide (k = 1) || decide (k = 2)
  if 1 < x.op ∨ x.skind = 3 ∨ x.dkind = 3 ∨ bitsOf x.w0.toNat 12 4 ≠ 0 ∨ (x.op = 1 ∧ x.skind ≠ 0) ∨
      ends.any (fun (k, w) => decide (bitsOf w.toNat 9 23 ≠ 0) || (decide (k = 1) && decide (w.extractLsb' 32 32 ≠ 0))) then 0x10
  else if ends.any fun (k, w) => match s.endThread? h k w with
      | some t => decide (endCount w * t.regBytes < x.length)
      | none => false then 0x11
  else if x.control ∧ ends.any fun (k, _) => decide (k = 1) then 0x12
  else if ends.any fun (k, w) => (s.endThread? h k w).isNone then 0x13
  else 0

/-! ### BXQ (R166) -/

/-- The four words of a request from g[a] upward. -/
def State.requestOf (s : State) (a : BitVec 5) : Transfer :=
  let w1 := s.g (a + 1)
  let w2 := s.g (a + 2)
  let k := (s.g a).toNat
  let vrotOf (kind : Nat) (w : BitVec 64) : BitVec 5 :=
    if kind = 2 then ((s.endThread? s.th.handle 2 w).map fun t => t.arch.vrot).getD 0 else s.th.arch.vrot
  { w0 := s.g a, w1 := w1, w2 := w2, w3 := s.g (a + 3), vrotS := vrotOf (bitsOf k 8 2) w1, vrotD := vrotOf (bitsOf k 10 2) w2
    control := decide (s.th.cls = .control), stamp := s.tick, event := if s.th.sup.level then none else some s.th.arch.mevents
    started := false, engine := 0, done := 0, ended := none, faddr := 0, held := false, waitPage := none, olds := [] }

/-- Requests that a context's command FIFO holds. -/
def fifoRoom : Nat := 8

/-- BXQ and BXQ.S: the descriptor's check, then the push, or what a full FIFO brings (R166). The push is the event
(R377), and its records follow at completion. -/
def bxqBody (i : Instr) (a : BitVec 5) (full : State → Effect) (after : State → State) (s : State) : Effect :=
  let ring := s.g (a + 3)
  if ring.toNat % 48 ≠ 0 then .trouble s (misaligned ring) none
  else
    match s.readC ring 48 false with
    | .error t => .trouble s t none
    | .ok (v, sp) =>
      if (ringDesc (leBytes 48 v)).isNone then .trouble s (illegalTrap i) none
      else if fifoRoom ≤ s.th.bxq.length then full s
      else
        match s.allowEvent [eventItem 6 0 0 ring sp 0 0] (k := 0) with
        | .error t => .trouble s t none
        | .ok _ =>
          let x := s.requestOf a
          let s1 := (s.afterRead ring 48 sp).commitNow []
          .next (after { s1 with th := { s1.th with bxq := s1.th.bxq ++ [x] } })

def bxqWait (s : State) : Effect := .trouble s (.wait .bxqFifo) none

def execBxq (a : BitVec 5) (s : State) : Step := issue (.bxq a) s (bxqBody (.bxq a) a bxqWait id)
def execBxqS (d a : BitVec 5) (s : State) : Step :=
  issue (.bxqS d a) s (bxqBody (.bxqS d a) a (fun s => .next (s.setG d 1)) (·.setG d 0))

/-- BXQ_FIFO_FREE (R166): a stalled BXQ executes again once an entry is free. -/
def execBxqFifoFree (s : State) : Step :=
  match s.th.wait with
  | some { kind := .bxqFifo, instr := .bxq a } =>
    if fifoRoom ≤ s.th.bxq.length then .next s else issue (.bxq a) s (bxqBody (.bxq a) a bxqWait id)
  | _ => .next s

/-! ### Engines (R167 to R169) -/

/-- Replaces the oldest request of a thread. -/
def State.putHead (s : State) (h : Handle) (x : Transfer) : State :=
  s.modThread h fun t => { t with bxq := x :: t.bxq.drop 1 }

/-- Whether an engine may start a thread's next request: requests that have not started travel with the context. -/
def Thread.mayStart (t : Thread) : Bool :=
  decide (t.place = .resident) || decide (t.place = .ended)

/-- BXQ_REQUEST_START (R169): the pod's engine takes the request, or refuses it. -/
def execBxqRequestStart (s : State) : Step :=
  match s.th.bxq with
  | x :: _ =>
    if x.started || x.ended.isSome || !s.th.mayStart then .next s
    else
      let c := s.th.core.toNat
      let code := s.transferCode s.th.handle x
      .next (s.putHead s.th.handle
        { x with
          started := true, engine := BitVec.ofNat 16 (coreDie c * 256 + diePod c)
          ended := if code ≠ 0 then some (2, BitVec.ofNat 8 code) else if x.length = 0 then some (0, 0) else none })
  | [] => .next s

/-- Whether a register endpoint's thread has its registers in its save area, for it runs on no core that holds them. -/
def Thread.inImage (t : Thread) : Bool := decide (t.place ≠ .resident) || decide (t.cls = .control)

/-- Spans of bytes [lo, hi) of physical register k in a thread's save area (R339). -/
def State.imageReg (s : State) (d : Dctx) (t : Thread) (k lo hi : Nat) : Except Trouble (List Span) :=
  match s.launchOf? t.handle with
  | some l => s.saveSpans d (l.saveAddr (handleDense t.handle) + BitVec.ofNat 64 (4608 + 256 * k + lo)) (hi - lo)
  | none => .error .noContext

/-- Bytes [lo, hi) of a register of a thread, or why they cannot be read: poison elsewhere in it is not met (R344, R345). Poison
is told as a trap is, by the register's number and word or the address. -/
def State.readReg (s : State) (d : Dctx) (t : Thread) (k : Fin 64) (lo hi : Nat) : Except Trouble (List (BitVec 8)) :=
  if t.inImage then
    match s.imageReg d t k.val lo hi with
    | .ok sp =>
      match spanPoison s.poison sp 0 with
      | some o => .error (.trap 0x0A 0 ((((s.launchOf? t.handle).map fun l => l.saveAddr (handleDense t.handle)).getD 0) +
          BitVec.ofNat 64 (4608 + 256 * k.val + lo + o)))
      | none => .ok (s.spanBytes sp)
    | .error e => .error e
  else
    match (List.range 32).find? fun w => t.poison.v[k].getLsbD w && decide (8 * w < hi) && decide (lo < 8 * w + 8) with
    | some w => .error (poisonedWord k.val w)
    | none => .ok (((leBytes t.regBytes t.arch.v[k].toNat).drop lo).take (hi - lo))

/-- Bytes [o, o + n) of a register endpoint, its registers numbered from j, or why they cannot be read. -/
def State.readRegs (s : State) (d : Dctx) (t : Thread) (o n : Nat) : List (Fin 64) → Nat → Except Trouble (List (BitVec 8))
  | [], _ => .ok []
  | k :: rest, j =>
    let w := t.regBytes
    let lo := max o (w * j) - w * j
    let hi := min (o + n) (w * (j + 1)) - w * j
    match (if lo < hi then s.readReg d t k lo hi else .ok []), s.readRegs d t o n rest (j + 1) with
    | .ok a, .ok b => .ok (a ++ b)
    | .error e, _ => .error e
    | _, .error e => .error e

/-- Writes bytes of a thread's registers from offset o of the endpoint's byte string. -/
def State.writeRegs (s : State) (d : Dctx) (h : Handle) (regs : List (Fin 64)) (o : Nat) (bs : List (BitVec 8)) : State :=
  match s.thread? h with
  | none => s
  | some t =>
    let n := t.regBytes
    (regs.zipIdx).foldl (fun (a : State) (k, j) =>
      -- bytes [lo, hi) of register k
      let lo := max o (n * j)
      let hi := min (o + bs.length) (n * (j + 1))
      if hi ≤ lo then a
      else
        let part := (bs.drop (lo - o)).take (hi - lo)
        let shift := 8 * (lo - n * j)
        let mask := (2 ^ (8 * (hi - lo)) - 1) * 2 ^ shift
        let a1 := a.modThread h fun t =>
          let old := t.arch.v[k].toNat
          { t with
            arch := { t.arch with v := t.arch.v.set k (BitVec.ofNat 2048 (old - (old &&& mask) + leNat part * 2 ^ shift)) }
            poison := { t.poison with v := t.poison.v.set k (t.poison.v[k] &&& ~~~(wholeWords mask)) } }
        if t.inImage then
          match a1.imageReg d t k.val (lo - n * j) (hi - n * j) with
          | .ok sp => a1.devicePut sp part
          | .error _ => a1
        else a1) s

/-- An engine's access for a thread: checked as a user access, and reaching that thread's window (R90, R299), by its reads as by
the writes that R90 names (DESIGN CHOICE, log 149). -/
def State.engineAccess (s : State) (t : Thread) (r w : Bool) : Access :=
  { deviceAccess r w with
    window := s.windowOf t, device := false
    refused := (t.bxq.head?).bind fun x => if x.refused then x.waitPage.map fun a => a.toNat / 4096 else none }

/-- Where the source bytes of a step of n bytes of a copy from memory lie that have still to be read: those that were read with the rest
of their unit are at hand, and a unit of 8 bytes that the step cuts is read whole (R103). -/
def Transfer.toRead (x : Transfer) (n : Nat) : BitVec 64 × Nat :=
  let o := x.done + x.carry.length
  let past := (x.w1 + BitVec.ofNat 64 (x.done + n)).toNat % 8
  let stop := if past = 0 then x.done + n else min x.length (x.done + n + (8 - past))
  (x.w1 + BitVec.ofNat 64 o, stop - o)

/-- The next n source bytes of a request, and those that are read with them; or why they cannot be read. -/
def State.transferSource (s : State) (d : Dctx) (t : Thread) (x : Transfer) (n : Nat) : Except Trouble (List (BitVec 8)) :=
  if x.op = 1 then .ok ((List.range n).map fun j => BitVec.ofNat 8 (x.w1.toNat >>> (8 * ((x.done + j) % 8))))
  else if x.skind = 0 then
    let (a, n) := x.toRead n
    match s.translate d (s.engineAccess t true false) a n with
    | .error e => .error e
    | .ok sp =>
      match spanPoison s.poison sp 0 with
      | some k => .error (.fail 0x33 (a + BitVec.ofNat 64 k) false false false)
      | none =>
        let bs := if s.hist.isEmpty then s.spanBytes sp
          else s.seenUnits t.handle (.engine x.stamp) (pieces 8 true a.toNat n) a.toNat (accessBytes sp) (s.spanBytes sp)
        if x.olds.isEmpty then .ok (x.carry ++ bs)
        else
          .ok (x.carry ++ ((accessBytes sp).zip bs).map fun (y, b) =>
            match x.olds.find? fun c => decide (c.1 = y.1) with
            | some c => if Config.pick s.tick y.1 then c.2 else b
            | none => b)
  else
    match s.endThread? t.handle x.skind x.w1 with
    | none => .ok (zeros n)
    | some r => s.readRegs d r x.done n (endRegs x.w1 x.vrotS) 0

/-- The state after an engine has read the next n source bytes of a request: what it has seen it sees from now on (R92). -/
def State.sawSource (s : State) (d : Dctx) (t : Thread) (x : Transfer) (n : Nat) : State :=
  if decide (x.op = 1) || decide (x.skind ≠ 0) then s
  else
    let (a, n) := x.toRead n
    match s.translate d (s.engineAccess t true false) a n with
    | .error _ => s
    | .ok sp =>
      let s := s.touch (BitVec.ofNat 4 (x.engine.toNat / 256)) false none sp
      if s.hist.isEmpty then s else s.sawUnits t.handle (.engine x.stamp) (pieces 8 true a.toNat n) a.toNat (accessBytes sp)

/-- Bytes that the next step of a request moves: to the end of the destination page, or of the source page for a
register destination (R169). -/
def Transfer.part (x : Transfer) : Nat :=
  let left := x.length - x.done
  let toEnd (a : BitVec 64) : Nat := min left (196608 - pageOffset (a + BitVec.ofNat 64 x.done))
  if x.dkind = 0 then toEnd x.w2 else if x.skind = 0 ∧ x.op = 0 then toEnd x.w1 else left

/-- Ends a request with a fault (R169), asks for a page, or stops the machine where no memory answers. -/
def State.transferFault (s : State) (h : Handle) (x : Transfer) (e : Trouble) : Step :=
  let dc := handleDctx h
  match e with
  | .page a w f => .next ((s.askFor dc a w f).putHead h { x with waitPage := some a, refused := false })
  | .fail reason a _ _ _ =>
    let code : BitVec 8 := if reason = 0x33 then 3 else if reasonCause reason = 0x06 then 2 else 1
    let s := s.logPoison dc (x.engine.toNat / 256) (x.engine.toNat % 256) ((s.thread? h).bind s.windowOf) reason a
    .next (s.putHead h { x with ended := some (1, code), faddr := a, waitPage := none, refused := false })
  | .trap _ detail a =>
    -- poison of a register source: its address is open (log 20)
    let s1 := (s.thread? h).elim s fun t => s.logConsumed t (x.engine.toNat / 256) (x.engine.toNat % 256) 5 detail a
    .next (s1.putHead h { x with ended := some (1, 3), faddr := Config.openField 2 s.tick 0, waitPage := none })
  | .noContext => .fault .noContext
  | _ => .next s

/-- Whether the request waits for a page that the host has not answered for. -/
def Dctx.pageAsked (d : Dctx) (a : Option (BitVec 64)) : Bool :=
  match a with
  | some a => d.pages.any fun q => decide (q.page.toNat = a.toNat / 4096) && !q.failed
  | none => false

/-- Sectors of L pages that a write over spans touches: physical sector and address of its first byte written (R301). -/
def lSectors : List Span → BitVec 64 → List (Nat × BitVec 64)
  | [], _ => []
  | sp :: t, a =>
    (if leafLg sp.leaf then
      (sectorsOf sp.key sp.len).map fun q => (q, a + BitVec.ofNat 64 (q * 48 - sp.key))
    else []) ++ lSectors t (a + BitVec.ofNat 64 sp.len)

/-- The index of a destination sector within a request, by the address of its first byte written (R377). -/
def Transfer.sectorIndex (x : Transfer) (va : BitVec 64) : Nat := (va.toNat / 48 - x.w2.toNat / 48) % 2 ^ 16

/-- The record of type 0x08 op 4 of an event's sector. -/
def sectorRecord (event : BitVec 64) (index : Nat) (bs : List (BitVec 8)) : Bool :=
  decide (recordType bs = 8) && decide (recordOp bs = 4) && decide (fieldAt bs 8 8 = event.toNat) && decide (fieldAt bs 2 2 = index)

/-- Whether the records of a page's L-page sectors may be made now (R377, R383, R438). -/
def State.sectorsMay (s : State) (h : Handle) (x : Transfer) (sectors : List (Nat × BitVec 64)) : Bool :=
  match x.event with
  | none => true
  | some e =>
    decide (s.actsOn h ≠ 1 ∨ sectors.isEmpty) && sectors.all (fun (q, va) => s.deviceMay h (sectorRecord e (x.sectorIndex va)) q) ||
      decide (s.actsOn h = 1) && s.deviceMay h (sectorRecord e 0) 0 sectors.length

/-- Makes the records of L-page sectors that a page write has changed. -/
def State.logSectors (s old : State) (h : Handle) (x : Transfer) (sectors : List (Nat × BitVec 64)) : State :=
  match x.event with
  | none => s
  | some e =>
    sectors.foldl (fun (a : State) (q, va) =>
      a.deviceLog h e
        { type := 8, op := 4, elem := x.sectorIndex va, va := va, object := q
          digest := digest (readCells old.mem (48 * q) 48) (readCells s.mem (48 * q) 48) }
        (sectorRecord e (x.sectorIndex va))) s

/-- Whether the source and destination of a copy overlap. -/
def Transfer.overlaps (x : Transfer) : Bool :=
  decide (x.op = 0) && decide (x.skind = 0) && decide (x.dkind = 0) &&
  decide (x.w1.toNat < x.w2.toNat + x.length) && decide (x.w2.toNat < x.w1.toNat + x.length)

/-- A request after n bytes have been written, with the source bytes that were read beyond them. -/
def Transfer.moved (x : Transfer) (n : Nat) (carry : List (BitVec 8) := []) : Transfer :=
  { x with done := x.done + n, waitPage := none, refused := false, carry := carry, ended := if x.length ≤ x.done + n then some (0, 0) else none }

/-- Whether a register endpoint's thread is on its way to another core, where no engine reaches its registers. -/
def State.endMoving (s : State) (h : Handle) (x : Transfer) : Bool :=
  [(x.skind, x.w1), (x.dkind, x.w2)].any fun (k, w) =>
    (decide (k = 1) || decide (k = 2)) && (s.endThread? h k w).any fun t => decide (t.place = .transit)

/-- Whether the next n bytes of a request of the current thread wait for T instructions that issued before its BXQ: for their writes to the
source, and for what they write or read of the destination (R102, R234). -/
def State.tilesFirst (s : State) (d : Dctx) (x : Transfer) (n : Nat) : Bool :=
  let t := { s.th with runs := s.th.runs.filter fun r => decide (r.stamp < x.stamp) }
  let meets (sp : Except Trouble (List Span)) (w : Bool) : Bool := match sp with
    | .ok sp => t.tileWrites sp w
    | .error _ => false
  !t.runs.isEmpty &&
  ((decide (x.skind = 0) && decide (x.op = 0) && meets (s.translate d (s.engineAccess s.th true false) (x.toRead n).1 (x.toRead n).2) false) ||
    (decide (x.dkind = 0) && meets (s.translate d (s.engineAccess s.th false true) (x.w2 + BitVec.ofNat 64 x.done) n) true))

/-- BXQ_PAGE (R169): one page of the oldest request of the current thread is translated, checked and written. -/
def execBxqPage (s : State) : Step :=
  let h := s.th.handle
  match s.th.bxq, s.myDctx with
  | x :: _, some d =>
    if !x.started || x.ended.isSome || (!x.refused && d.pageAsked x.waitPage) || (x.event.isSome && !s.th.moraineDebt.isEmpty) ||
      decide (s.th.place = .transit) || s.endMoving h x || s.tilesFirst d x x.part then .next s
    else
      let n := x.part
      let src := s.transferSource d s.th x n
      if x.dkind = 0 then
        let a := x.w2 + BitVec.ofNat 64 x.done
        match src, s.translate d (s.engineAccess s.th false true) a n with
        | .ok bs, .ok sp =>
          let sectors := lSectors sp a
          if !s.sectorsMay h x sectors then .next s
          else
            let ident := BitVec.ofNat 32 (x.engine.toNat + x.tag * 2 ^ 16)
            let olds := if x.overlaps then
                x.olds ++ (sp.flatMap fun y => (List.range y.len).map fun i => (y.key + i, readCell s.mem (y.key + i)))
              else []
            let s1 := (s.sawSource d s.th x n).put { cls := 2, ident := ident, handle := h, dup := false, request := x.stamp } sp (bs.take n)
            .next ((s1.logSectors s h x sectors).putHead h { x.moved n (bs.drop n) with olds := olds })
        | .error (.fail r1 a1 w1 f1 t1), .error (.fail r2 a2 w2 f2 t2) =>
          if (a1 - x.w1).toNat ≤ (a2 - x.w2).toNat then s.transferFault h x (.fail r1 a1 w1 f1 t1)
          else s.transferFault h x (.fail r2 a2 w2 f2 t2)
        | .error e, .ok _ => s.transferFault h x e
        | .ok _, .error e => s.transferFault h x e
        | .error (.fail ..), .error e => s.transferFault h x e
        | .error e, .error _ => s.transferFault h x e
      else
        match src, s.endThread? h x.dkind x.w2 with
        | .ok bs, some t => .next (((s.sawSource d s.th x n).writeRegs d t.handle (endRegs x.w2 x.vrotD) x.done (bs.take n)).putHead h (x.moved n (bs.drop n)))
        | .ok _, none => .next (s.putHead h (x.moved n))
        | .error e, _ => s.transferFault h x e
  | _, _ => .next s

/-! ### Completion records (R163, R169, R435) -/

/-- The 32 bytes of a completion record. -/
def Transfer.record (x : Transfer) (st code : BitVec 8) (bad : Bool) (cyc : Nat) : List (BitVec 8) :=
  [st, code] ++ leBytes 2 x.tag ++ leBytes 2 x.engine.toNat ++ [if bad then 1 else 0, 1] ++ leBytes 8 x.done ++
  leBytes 8 (if st = 1 then x.faddr.toNat else 0) ++ leBytes 8 cyc

/-- A record of kind 0x08 for a held item (R435): the handle of the BXQ's thread, or 0. -/
def heldRecord (h : Handle) (e : Trouble) : FaultRecord :=
  match e with
  | .fail reason a _ _ _ => FaultRecord.plain 0x08 (reasonCause reason) reason h a
  | _ => FaultRecord.plain 0x08 0x05 0 h 0

/-- Holds an item once, with its fault record (R435). -/
def State.hold (s : State) (dc : DctxId) (item : HeldItem) (h : Handle) (e : Trouble) : State :=
  match s.dctx? dc with
  | none => s
  | some d =>
    if d.heldItems.contains item then s.dropped dc (.error e : Except Trouble Unit)
    else ((s.counted dc (.error e : Except Trouble Unit)).queueFault dc (heldRecord h e)).modDctx dc fun d => { d with heldItems := d.heldItems ++ [item] }

/-- Releases a held item. -/
def State.unhold (s : State) (dc : DctxId) (item : HeldItem) : State :=
  s.modDctx dc fun d => { d with heldItems := d.heldItems.filter fun x => decide (x ≠ item) }

/-- Records of a BXQ's completion, and of its ring's signal add. -/
def copyRecord (event : BitVec 64) (bs : List (BitVec 8)) : Bool :=
  decide (recordType bs = 6) && decide (fieldAt bs 8 8 = event.toNat)
def ringAddRecord (event : BitVec 64) (bs : List (BitVec 8)) : Bool :=
  decide (recordType bs = 3) && decide (recordOp bs = 5) && decide (fieldAt bs 8 8 = event.toNat)

/-- The descriptor's first cell and its counter's first cell and value, where both translate. -/
def State.recordObjects (s : State) (d : Dctx) (desc : BitVec 64) : Option (List Span × Option (BitVec 64 × List Span)) :=
  match s.readDesc d desc, s.deviceSpans d desc 48 false with
  | .ok (some r), .ok sp =>
    match (if r.sig = 0 then none else (s.counterSpans d r.sig).toOption) with
    | some c => some (sp, some (r.sig, c))
    | none => some (sp, none)
  | _, _ => none

/-- Whether the moraine records of a completion may be made now. -/
def State.completionMay (s : State) (d : Dctx) (h : Handle) (x : Transfer) : Bool :=
  match x.event, s.recordObjects d x.w3 with
  | some e, some (sp, sig) =>
    s.deviceMay h (copyRecord e) (objectOf sp) &&
    (match sig with
     | some (_, c) => s.deviceMay h (ringAddRecord e) (objectOf c) 2
     | none => true)
  | _, _ => true

/-- The moraine records of a completion: the copy, then the ring's add (R377). -/
def State.logCompletion (s old : State) (d : Dctx) (h : Handle) (x : Transfer) (st : BitVec 8) : State :=
  match x.event, old.recordObjects d x.w3 with
  | some e, some (sp, sig) =>
    let s1 := s.deviceLog h e (eventItem 6 st.toNat 0 x.w3 sp x.done (st.toNat * 2 ^ 16 + x.tag)) (copyRecord e)
    match sig with
    | some (a, c) =>
      (s1.deviceLog h e (eventItem 3 5 0 a c (leNat (old.spanBytes c)) 1) (ringAddRecord e)).numberFirings s1 d.part (firstKey c)
    | none => s1
  | _, _ => s

/-- The cells of the completion report that a request's record would be: the entry, and the counter of its ring (R100). -/
def State.reportCells (s : State) (d : Dctx) (desc : BitVec 64) : List (Nat × Nat) :=
  match s.readDesc d desc with
  | .ok (some r) =>
    let cells (x : Except Trouble (List Span)) : List (Nat × Nat) := match x with
      | .ok sp => sp.map fun y => (y.key, y.len)
      | .error _ => []
    cells (s.deviceSpans d (r.base + BitVec.ofNat 64 (32 * (r.wr.toNat % 2 ^ r.lg))) 32 false) ++
      (if r.sig = 0 then [] else cells (s.counterSpans d r.sig))
  | _ => []

/-- Remembers where the report of a request stands while some reader may not have seen the request's writes (R101). -/
def State.noteReport (s : State) (x : Transfer) (cells : List (Nat × Nat)) : State :=
  let open_ (q : Nat) : Bool := s.hist.any fun e => decide (e.request = q) && decide (e.path = 1)
  { s with reports := (s.reports.filter fun y => open_ y.request) ++
    (if open_ x.stamp then cells.map fun (k, n) => { request := x.stamp, key := k, len := n } else []) }

/-- Posts the record of a thread's oldest request when it has ended, with its moraine records; a full ring waits, and a
failed posting is held. -/
def State.postCompletion (s : State) (h : Handle) : Step :=
  match s.thread? h, s.dctx? (handleDctx h) with
  | some t, some d =>
    match t.bxq with
    | x :: _ =>
      match x.ended with
      | none => .next s
      | some (st, code) =>
        if (x.event.isSome && !t.moraineDebt.isEmpty) || !s.completionMay d h x then .next s
        else
          match s.postRing d x.w3 1 fun bad => x.record st code bad s.cyc with
          | .posted s1 =>
            .next ((((s1.noteReport x (s.reportCells d x.w3)).logCompletion s d h x st).unhold d.id (.transferRecord h)).modThread h fun t => { t with bxq := t.bxq.drop 1 })
          | .full | .invalid => .next s
          | .failed (.page a w f) => .next (s.askPage d.id a w f)
          | .failed .noContext => .fault .noContext
          | .failed e =>
            .next ((s.hold d.id (.transferRecord h) h e).putHead h { x with held := true })
    | [] => .next s
  | _, _ => .next s

/-- BXQ_COMPLETION_RECORD (R169). -/
def execBxqCompletionRecord (s : State) : Step := s.postCompletion s.th.handle

end Sys2Proof.Machine
end

