-- ==== Sys2Proof/Machine/Tree.lean ====
section
/-! DEFINITION. Tree queries: WID, LVL, LVLN and PHYS (R171, R172). -/

namespace Sys2Proof.Machine

/-- The height field of LVL and LVLN; 30 reads `slv`, and 31 is no encoding (R125). -/
def State.queryHeight (s : State) (h : BitVec 5) : Nat := if h.toNat = 30 then s.th.arch.slv.toNat else h.toNat

/-- The sibling index at a height, 0 at and above the depth. -/
def State.siblingIndex (s : State) (h : Nat) : Nat :=
  match s.myLaunch with
  | some l => (widFields l.info.tree s.th.wid.toNat).getD h 0
  | none => 0

/-- The fan-out at a height: `vcount` as it reads for a `vl` leaf, 1 at and above the depth. -/
def State.fanoutAt (s : State) (h : Nat) : Nat :=
  match s.myLaunch.bind fun l => l.info.tree[h]? with
  | some v => if v.vl then s.th.userCr 0 0 else v.fanout
  | none => 1

/-- Place of the entry of an endpoint table that is this package, 0 with no such entry. -/
def selfIndex (t : List Endpoint) : Nat := (t.findIdx? fun e => e.isSelf).getD 0

/-- The index of the physical instance that holds the thread (R172). -/
def State.physIndex (s : State) (l : BitVec 3) : Nat :=
  let c := s.th.core.toNat
  let p := (s.myDctx.map fun d => s.part d.part).getD Partition.empty
  match l.toNat with
  | 1 => s.th.slot
  | 2 => c
  | 3 => corePod c
  | 4 => coreDie c
  | 5 => selfIndex p.node
  | 6 => selfIndex p.rack
  | _ => 0

def execWid (d : BitVec 5) (s : State) : Step := issue (.wid d) s fun s => .next (s.setG d s.th.wid)
def execLvl (d h : BitVec 5) (s : State) : Step :=
  issue (.lvl d h) s fun s => .next (s.setG d (BitVec.ofNat 64 (s.siblingIndex (s.queryHeight h))))
def execLvln (d h : BitVec 5) (s : State) : Step :=
  issue (.lvln d h) s fun s => .next (s.setG d (BitVec.ofNat 64 (s.fanoutAt (s.queryHeight h))))
def execPhys (d : BitVec 5) (l : BitVec 3) (s : State) : Step :=
  issue (.phys d l) s fun s => .next (s.setG d (BitVec.ofNat 64 (s.physIndex l)))

end Sys2Proof.Machine
end

