-- ==== Sys2Proof/Machine/Control.lean ====
section
/-! DEFINITION. Control-register instructions (R60, R173), the user-level system instructions (R174 to R176), hints and
unassigned words (R120, R121), and the register writes that have rows of their own. Such a row acts, for the current
thread, as the write of the value that `ev` names. -/

namespace Sys2Proof.Machine

/-! ### CRD, CWR and CXG -/

def execCrd (d : BitVec 5) (x : BitVec 12) (s : State) : Step :=
  issue (.crd d x) s fun s =>
    match s.crCheck x.toNat with
    | .privilege => .trouble s (privilegeTrap (.crd d x)) none
    | .illegal => .trouble s (illegalTrap (.crd d x)) none
    | .may _ => .next (s.setG d (s.crRead x.toNat))

def execCwr (a : BitVec 5) (x : BitVec 12) (s : State) : Step :=
  issue (.cwr a x) s fun s =>
    match s.crCheck x.toNat with
    | .privilege => .trouble s (privilegeTrap (.cwr a x)) none
    | .illegal | .may .ro => .trouble s (illegalTrap (.cwr a x)) none
    | .may _ => s.crEffect (.cwr a x) (s.crWrite x.toNat (s.g a)) id

def execCxg (d a : BitVec 5) (x : BitVec 12) (s : State) : Step :=
  issue (.cxg d a x) s fun s =>
    match s.crCheck x.toNat with
    | .privilege => .trouble s (privilegeTrap (.cxg d a x)) none
    | .illegal | .may .ro => .trouble s (illegalTrap (.cxg d a x)) none
    | .may _ => s.crEffect (.cxg d a x) (s.crWrite x.toNat (s.g a)) fun s1 => s1.setG d (s.crRead x.toNat)

/-! ### Rows of register writes -/

/-- The state that a write leaves, unchanged where it is refused. -/
def CrWrite.orKeep (w : CrWrite) (s : State) : Step :=
  match w with
  | .ok s1 => .next s1
  | _ => .next s

/-- VFORM_WRITE (R64). -/
def execVformWrite (s : State) : Step :=
  match s.ev with
  | .value v => (s.writeVform v).orKeep s
  | _ => .next s

/-- IPEND_CLEAR (R284). -/
def execIpendClear (s : State) : Step :=
  match s.ev with
  | .value v => .next (s.clearIpend v)
  | _ => .next s

/-- FQDESC_WRITE (R310). -/
def execFqdescWrite (s : State) : Step :=
  match s.ev with
  | .value v => (s.writeFqdesc v).orKeep s
  | _ => .next s

/-- FQSTAT_CLEAR (R309). -/
def execFqstatClear (s : State) : Step :=
  match s.ev with
  | .value v => .next (s.clearFqstat v)
  | _ => .next s

/-- A write of `fqresume` with an act, for the handle in a value. -/
def State.fqresumeAct (s : State) (a : Nat) : Step :=
  match s.ev with
  | .value v => .next ((s.resumeParked (v.setWidth 32) a).getD s)
  | _ => .next s

/-- FQRESUME_RETRY, FQRESUME_END and FQRESUME_HOLD (R310). -/
def execFqresumeRetry (s : State) : Step := s.fqresumeAct 0
def execFqresumeEnd (s : State) : Step := s.fqresumeAct 1
def execFqresumeHold (s : State) : Step := s.fqresumeAct 2

/-- MRDESC_WRITE (R382). -/
def execMrdescWrite (s : State) : Step :=
  match s.ev with
  | .value v => (s.writeMrdesc v).orKeep s
  | _ => .next s

/-- MRSTAT_CLEAR (R382). -/
def execMrstatClear (s : State) : Step :=
  match s.ev with
  | .value v => .next (s.clearMrstat v)
  | _ => .next s

/-- MPCTL_FREE (R391). -/
def execMpctlFree (s : State) : Step :=
  match s.ev with
  | .value v => .next (s.freeReplay v)
  | _ => .next s

/-- The comparator that a two-bit number names. -/
def slotOf (k : BitVec 2) : Fin 4 := ⟨k.toNat, k.isLt⟩

/-- DSM_INSTALL (R406): a write of `dsm`k with en 1. -/
def execDsmInstall (s : State) : Step :=
  match s.ev with
  | .valueAt k v => (s.writeDsm (slotOf k) (v ||| 0x1_0000_0000_0000)).orKeep s
  | _ => .next s

/-- DSM_REMOVE (R406): a write of `dsm`k with en 0. -/
def execDsmRemove (s : State) : Step :=
  match s.ev with
  | .valueAt k v => (s.writeDsm (slotOf k) (v &&& ~~~0x1_0000_0000_0000)).orKeep s
  | _ => .next s

/-- DSA_WRITE (R406). -/
def execDsaWrite (s : State) : Step :=
  match s.ev with
  | .valueAt k v => (s.writeDsa (slotOf k) v).orKeep s
  | _ => .next s

/-! ### System calls, hints and unassigned words -/

/-- SYSC (R174, R285): `tpc` is the next instruction, but a double trap holds the thread at the SYSC; a trapping instruction does not retire (R63). -/
def execSysc (n : BitVec 15) (s : State) : Step :=
  issue (.sysc n) s fun s =>
    if !s.th.runs.isEmpty then .trouble s (.wait .drain) none
    else .done (s.trapAt 0x0E (if s.th.sup.tip then s.th.arch.pc else s.th.arch.pc + 4) (n.setWidth 64) 0 0 s.th.arch.pc)

/-- BRK (R174, R285). -/
def execBrk (n : BitVec 15) (s : State) : Step :=
  issue (.brk n) s fun s => .trouble s (.trap 0x0D (n.setWidth 64) 0) none

/-- YIELD (R175): one core cycle more. -/
def execYield (s : State) : Step :=
  issue .yield s fun s => .next { s with th := { s.th with yielded := s.others.any fun t => decide (t.core = s.th.core) && t.ready } }

/-- MIGH (R176): the request stands until a boundary grants it, and replaces an earlier one; on the class that it names it is
granted at once, and nothing happens, to an anchor neither (log 136). In replay it takes no decision of its own (R388). -/
def execMigh (c : BitVec 2) (s : State) : Step :=
  issue (.migh c) s fun s =>
    let k := CoreClass.ofCode c.toNat
    let may := (s.th.sup.level || !s.th.arch.migctl.getLsbD 0) && s.anyCore s.th (fun x => decide (x = k)) &&
      (s.th.sup.level || decide (s.actsOn s.th.handle ≠ 2))
    .next { s with th := { s.th with migh := if !may then s.th.migh else if s.th.cls = k then .none else k } }

def execNop (s : State) : Step := issue .nop s fun s => .next s
def execCvb (s : State) : Step := issue .cvb s fun s => .next s
def execHint (code : BitVec 26) (s : State) : Step := issue (.hint code) s fun s => .next s

/-- R120: the illegal-instruction trap on every class. -/
def execUnassignedEncoding (w : BitVec 32) (s : State) : Step :=
  issue (.unassignedEncoding w) s fun s => .trouble s (illegalTrap (.unassignedEncoding w)) none

end Sys2Proof.Machine
end

