-- ==== Sys2Proof/Machine/ScalarFp.lean ====
section
/-! DEFINITION. Floating-point operations on encoded values, with their flags, and the scalar F group (R180 to R186). -/

namespace Sys2Proof.Machine

/-! ### Operations on encoded values -/

def fpAdd (f : Fmt) (m : Mode) (x y : Nat) : Nat × FFlags := ((f.decode x).add m (f.decode y)).deliver f m
def fpSub (f : Fmt) (m : Mode) (x y : Nat) : Nat × FFlags := ((f.decode x).add m (f.decode y).negate).deliver f m
def fpMul (f : Fmt) (m : Mode) (x y : Nat) : Nat × FFlags := ((f.decode x).mul (f.decode y)).deliver f m
def fpDiv (f : Fmt) (m : Mode) (x y : Nat) : Nat × FFlags := ((f.decode x).div (f.decode y)).deliver f m
def fpSqrt (f : Fmt) (m : Mode) (x : Nat) : Nat × FFlags := ((f.decode x).sqrt).deliver f m
def fpFma (f : Fmt) (m : Mode) (x y z : Nat) : Nat × FFlags := ((f.decode x).fma m (f.decode y) (f.decode z)).deliver f m
def fpFms (f : Fmt) (m : Mode) (x y z : Nat) : Nat × FFlags :=
  ((f.decode x).fma m (f.decode y) (f.decode z).negate).deliver f m
/-- −(x · y) + z, rounded once. -/
def fpFnma (f : Fmt) (m : Mode) (x y z : Nat) : Nat × FFlags :=
  ((f.decode x).negate.fma m (f.decode y) (f.decode z)).deliver f m

/-- Whether x comes before y, with −0 below +0; no NaN is given. -/
def fpBelow (x y : FVal) : Bool :=
  match x, y with
  | .fin a 0 _, .fin b 0 _ => a && !b
  | _, _ => x.lt y

/-- FMIN and FMAX (R182): one of the operands, or the canonical NaN. -/
def fpMinMax (f : Fmt) (wantMax : Bool) (x y : Nat) : Nat × FFlags :=
  let a := f.decode x
  let b := f.decode y
  let r :=
    if a.isNan && b.isNan then f.nanBits
    else if a.isNan then y
    else if b.isNan then x
    else if fpBelow a b then (if wantMax then y else x) else (if wantMax then x else y)
  (r % 2 ^ f.bits, nanFlags [a, b])

/-- invalid for any NaN operand when signalling, else for a signalling NaN alone (R183, R192). -/
def compareFlags (signalling : Bool) (a b : FVal) : FFlags :=
  if signalling then (if a.isNan || b.isNan then flagInvalid else 0) else nanFlags [a, b]

/-- FCMP's conditions (R183): EQ, LT, LE, UN. -/
def fpCompare (f : Fmt) (c : BitVec 2) (x y : Nat) : Bool × FFlags :=
  let a := f.decode x
  let b := f.decode y
  match c.toNat with
  | 0 => (a.eq b, compareFlags false a b)
  | 1 => (a.lt b, compareFlags true a b)
  | 2 => (a.lt b || a.eq b, compareFlags true a b)
  | _ => (a.isNan || b.isNan, compareFlags false a b)

/-- Whether a finite value has no fractional part. -/
def isWhole (m : Nat) (e : Int) : Bool := decide (0 ≤ e) || decide (m % 2 ^ (-e).toNat = 0)

/-- The class word of FCLASS (R184). -/
def fpClass (f : Fmt) (x : Nat) : Nat :=
  let sign := bitsOf x (f.bits - 1) 1
  let v := f.decode x
  let (kind, whole, exp) : Nat × Bool × Int := match v with
    | .nan true => (5, false, 0)
    | .nan false => (4, false, 0)
    | .inf _ => (3, false, 0)
    | .fin _ m e =>
      if m = 0 then (0, true, 0)
      else if v.log2 < f.emin then (1, isWhole m e, v.log2) else (2, isWhole m e, v.log2)
  kind + sign * 8 + (if whole then 16 else 0) + wrapInt 16 exp * 2 ^ 16

/-- FSGN (R185). -/
def fpSign (f : Fmt) (g : BitVec 2) (x y : Nat) : Nat :=
  let sx := bitsOf x (f.bits - 1) 1
  let sy := bitsOf y (f.bits - 1) 1
  let r := match g.toNat with
    | 0 => sy
    | 1 => 1 - sy
    | 2 => (sx + sy) % 2
    | _ => 0
  bitsOf x 0 (f.bits - 1) + r * f.signBit

/-- A value copied to its own format: a signalling NaN becomes the canonical one and raises invalid (R186, R199). -/
def fpCopy (f : Fmt) (x : Nat) : Nat × FFlags :=
  if (f.decode x).isSNan then (f.nanBits, flagInvalid) else (x % 2 ^ f.bits, 0)

/-- A conversion between floating-point formats (R77, R79). -/
def fpConvert (from_ to_ : Fmt) (m : Mode) (sat : Bool) (x : Nat) : Nat × FFlags :=
  if from_ = to_ then fpCopy from_ x else (from_.decode x).convert to_ m sat

/-! ### The F group -/

/-- The low bits of g[r] that a format reads (R53). -/
def State.fread (s : State) (f : Fmt) (r : BitVec 5) : Nat := (s.g r).toNat % 2 ^ f.bits

def State.mode (s : State) : Mode := Mode.of s.th.arch.fround

/-- A result in g[d] and its flags in `fstat`. -/
def State.fwrite (s : State) (d : BitVec 5) (r : Nat × FFlags) : State := (s.setG d (BitVec.ofNat 64 r.1)).orFlags r.2

/-- A two-operand form. -/
def fpBinary (i : Instr) (d a b : BitVec 5) (f : BitVec 2) (op : Fmt → Mode → Nat → Nat → Nat × FFlags) (s : State) : Step :=
  issue i s fun s => .next (s.fwrite d (op (scalarFmt f) s.mode (s.fread (scalarFmt f) a) (s.fread (scalarFmt f) b)))

def execFadd (d a b : BitVec 5) (f : BitVec 2) (s : State) : Step := fpBinary (.fadd d a b f) d a b f fpAdd s
def execFsub (d a b : BitVec 5) (f : BitVec 2) (s : State) : Step := fpBinary (.fsub d a b f) d a b f fpSub s
def execFmul (d a b : BitVec 5) (f : BitVec 2) (s : State) : Step := fpBinary (.fmul d a b f) d a b f fpMul s
def execFdiv (d a b : BitVec 5) (f : BitVec 2) (s : State) : Step := fpBinary (.fdiv d a b f) d a b f fpDiv s
def execFmin (d a b : BitVec 5) (f : BitVec 2) (s : State) : Step :=
  fpBinary (.fmin d a b f) d a b f (fun f _ x y => fpMinMax f false x y) s
def execFmax (d a b : BitVec 5) (f : BitVec 2) (s : State) : Step :=
  fpBinary (.fmax d a b f) d a b f (fun f _ x y => fpMinMax f true x y) s
def execFsqrt (d a : BitVec 5) (f : BitVec 2) (s : State) : Step :=
  issue (.fsqrt d a f) s fun s => .next (s.fwrite d (fpSqrt (scalarFmt f) s.mode (s.fread (scalarFmt f) a)))
def execFcmp (d a b : BitVec 5) (c f : BitVec 2) (s : State) : Step :=
  fpBinary (.fcmp d a b c f) d a b f (fun f _ x y => let (r, fl) := fpCompare f c x y; (if r then 1 else 0, fl)) s
def execFclass (d a : BitVec 5) (f : BitVec 2) (s : State) : Step :=
  issue (.fclass d a f) s fun s => .next (s.setG d (BitVec.ofNat 64 (fpClass (scalarFmt f) (s.fread (scalarFmt f) a))))
def execFsgn (d a b : BitVec 5) (g f : BitVec 2) (s : State) : Step :=
  issue (.fsgn d a b g f) s fun s =>
    .next (s.setG d (BitVec.ofNat 64 (fpSign (scalarFmt f) g (s.fread (scalarFmt f) a) (s.fread (scalarFmt f) b))))
def execFma (d a b c : BitVec 5) (f : BitVec 2) (s : State) : Step :=
  issue (.fma d a b c f) s fun s =>
    .next (s.fwrite d (fpFma (scalarFmt f) s.mode (s.fread (scalarFmt f) a) (s.fread (scalarFmt f) b) (s.fread (scalarFmt f) c)))
def execFms (d a b c : BitVec 5) (f : BitVec 2) (s : State) : Step :=
  issue (.fms d a b c f) s fun s =>
    .next (s.fwrite d (fpFms (scalarFmt f) s.mode (s.fread (scalarFmt f) a) (s.fread (scalarFmt f) b) (s.fread (scalarFmt f) c)))

/-- Signedness and width of an integer type 4 to 7 of FCVT, from its low two bits. -/
def cvtSigned (t : Nat) : Bool := decide (t % 2 = 0)
def cvtWidth (t : Nat) : Nat := if t % 4 < 2 then 64 else 32

/-- FCVT from the format (R186): 32-bit integer results are extended by their signedness. -/
def fcvtOut (f : Fmt) (m : Mode) (t : BitVec 3) (x : Nat) : Nat × FFlags :=
  if t.toNat < 4 then fpConvert f (scalarFmt (t.setWidth 2)) m false x
  else
    let (r, fl) := (f.decode x).toInt m (cvtSigned t.toNat) (cvtWidth t.toNat)
    (if cvtSigned t.toNat then wrapInt 64 (signed (cvtWidth t.toNat) r) else r, fl)

/-- FCVT from an integer of type 4 + t. -/
def fcvtIn (f : Fmt) (m : Mode) (t : BitVec 2) (x : Nat) : Nat × FFlags :=
  let w := cvtWidth t.toNat
  let i : Int := if cvtSigned t.toNat then signed w x else ((x % 2 ^ w : Nat) : Int)
  (intVal i).convert f m false

def execFcvt (d a : BitVec 5) (t : BitVec 3) (f : BitVec 2) (s : State) : Step :=
  issue (.fcvt d a t f) s fun s => .next (s.fwrite d (fcvtOut (scalarFmt f) s.mode t (s.fread (scalarFmt f) a)))
def execFcvtFromInt (d a : BitVec 5) (t f : BitVec 2) (s : State) : Step :=
  issue (.fcvtFromInt d a t f) s fun s => .next (s.fwrite d (fcvtIn (scalarFmt f) s.mode t (s.g a).toNat))

end Sys2Proof.Machine
end

