-- ==== Sys2Proof/Machine/VectorArith.lean ====
section
/-! DEFINITION. The VA group but for memory: integer and floating-point element forms, compares, predicates, moves,
conversions, VCONF and VLOOP (R178, R179, R187 to R200). -/

namespace Sys2Proof.Machine

/-! ### Shells -/

/-- An integer element form: the result of each active element (R178). -/
def vecInt (i : Instr) (d : BitVec 6) (p : BitVec 3) (z : BitVec 1) (f : State → Nat → Nat) (s : State) : Step :=
  issue i s fun s => .next (s.putV d z (s.mapLanes p (f s)))

/-- Results and flags of the active elements. -/
def State.mapFlags (s : State) (p : BitVec 3) (f : Nat → Nat × FFlags) : List (Option Nat) × FFlags :=
  let rs := s.lanes.map fun i => if s.active p i then some (f i) else none
  (rs.map fun r => r.map (·.1), rs.foldl (fun a r => match r with
    | some x => a ||| x.2
    | none => a) 0)

/-- A floating-point element form; an integer `vform` traps (R179). -/
def vecFp (i : Instr) (d : BitVec 6) (p : BitVec 3) (z : BitVec 1) (f : State → Fmt → Nat → Nat × FFlags) (s : State) : Step :=
  issue i s fun s =>
    match formFmt s.th.arch.vform with
    | none => .trouble s (illegalTrap i) none
    | some fm =>
      let (items, fl) := s.mapFlags p (f s fm)
      .next ((s.putV d z items).orFlags fl)

/-- Element a op element b. -/
def lane2 (a b : BitVec 6) (op : Nat → Nat → Nat → Nat) (s : State) (i : Nat) : Nat := op s.w (s.elem a i) (s.elem b i)
def lane1 (a : BitVec 6) (op : Nat → Nat → Nat) (s : State) (i : Nat) : Nat := op s.w (s.elem a i)

/-! ### Integer operations at width w (R189) -/

def iAdd (w x y : Nat) : Nat := (x + y) % 2 ^ w
def iSub (w x y : Nat) : Nat := (x + 2 ^ w - y) % 2 ^ w
def iMul (w x y : Nat) : Nat := x * y % 2 ^ w
def iMulh (w x y : Nat) : Nat := wrapInt w (signed w x * signed w y / ((2 ^ w : Nat) : Int))
def iMulhn (w x y : Nat) : Nat := x * y / 2 ^ w
def iMin (w x y : Nat) : Nat := if signed w y < signed w x then y else x
def iMax (w x y : Nat) : Nat := if signed w x < signed w y then y else x
def iMinn (_ x y : Nat) : Nat := min x y
def iMaxn (_ x y : Nat) : Nat := max x y
def iAnd (_ x y : Nat) : Nat := x &&& y
def iOr (_ x y : Nat) : Nat := x ||| y
def iXor (_ x y : Nat) : Nat := x ^^^ y
/-- Shift amounts are the low log2 w bits. -/
def iSll (w x y : Nat) : Nat := (x <<< (y % w)) % 2 ^ w
def iSrl (w x y : Nat) : Nat := x >>> (y % w)
def iSra (w x y : Nat) : Nat := wrapInt w (signed w x / ((2 ^ (y % w) : Nat) : Int))
/-- Limits an integer to the signed or unsigned range of w bits. -/
def clampS (w : Nat) (i : Int) : Nat :=
  let hi : Int := ((2 ^ (w - 1) : Nat) : Int) - 1
  wrapInt w (if hi < i then hi else if i < -hi - 1 then -hi - 1 else i)
def clampN (w : Nat) (i : Int) : Nat := if i < 0 then 0 else min i.toNat (2 ^ w - 1)
def iSadd (w x y : Nat) : Nat := clampS w (signed w x + signed w y)
def iSsub (w x y : Nat) : Nat := clampS w (signed w x - signed w y)
def iSaddn (w x y : Nat) : Nat := clampN w ((x : Int) + y)
def iSsubn (w x y : Nat) : Nat := clampN w ((x : Int) - y)
def iAbs (w x : Nat) : Nat := (signed w x).natAbs
def iClz (w x : Nat) : Nat := if x = 0 then w else w - 1 - Nat.log2 x
def iPopc (w x : Nat) : Nat := popcount x w

def execVadd (d a b : BitVec 6) (p : BitVec 3) (z : BitVec 1) (s : State) : Step := vecInt (.vadd d a b p z) d p z (lane2 a b iAdd) s
def execVsub (d a b : BitVec 6) (p : BitVec 3) (z : BitVec 1) (s : State) : Step := vecInt (.vsub d a b p z) d p z (lane2 a b iSub) s
def execVmul (d a b : BitVec 6) (p : BitVec 3) (z : BitVec 1) (s : State) : Step := vecInt (.vmul d a b p z) d p z (lane2 a b iMul) s
def execVmulh (d a b : BitVec 6) (p : BitVec 3) (z : BitVec 1) (s : State) : Step := vecInt (.vmulh d a b p z) d p z (lane2 a b iMulh) s
def execVmulhn (d a b : BitVec 6) (p : BitVec 3) (z : BitVec 1) (s : State) : Step := vecInt (.vmulhn d a b p z) d p z (lane2 a b iMulhn) s
def execVmin (d a b : BitVec 6) (p : BitVec 3) (z : BitVec 1) (s : State) : Step := vecInt (.vmin d a b p z) d p z (lane2 a b iMin) s
def execVmax (d a b : BitVec 6) (p : BitVec 3) (z : BitVec 1) (s : State) : Step := vecInt (.vmax d a b p z) d p z (lane2 a b iMax) s
def execVminn (d a b : BitVec 6) (p : BitVec 3) (z : BitVec 1) (s : State) : Step := vecInt (.vminn d a b p z) d p z (lane2 a b iMinn) s
def execVmaxn (d a b : BitVec 6) (p : BitVec 3) (z : BitVec 1) (s : State) : Step := vecInt (.vmaxn d a b p z) d p z (lane2 a b iMaxn) s
def execVand (d a b : BitVec 6) (p : BitVec 3) (z : BitVec 1) (s : State) : Step := vecInt (.vand d a b p z) d p z (lane2 a b iAnd) s
def execVor (d a b : BitVec 6) (p : BitVec 3) (z : BitVec 1) (s : State) : Step := vecInt (.vor d a b p z) d p z (lane2 a b iOr) s
def execVxor (d a b : BitVec 6) (p : BitVec 3) (z : BitVec 1) (s : State) : Step := vecInt (.vxor d a b p z) d p z (lane2 a b iXor) s
def execVsll (d a b : BitVec 6) (p : BitVec 3) (z : BitVec 1) (s : State) : Step := vecInt (.vsll d a b p z) d p z (lane2 a b iSll) s
def execVsrl (d a b : BitVec 6) (p : BitVec 3) (z : BitVec 1) (s : State) : Step := vecInt (.vsrl d a b p z) d p z (lane2 a b iSrl) s
def execVsra (d a b : BitVec 6) (p : BitVec 3) (z : BitVec 1) (s : State) : Step := vecInt (.vsra d a b p z) d p z (lane2 a b iSra) s
def execVmacc (d a b : BitVec 6) (p : BitVec 3) (z : BitVec 1) (s : State) : Step :=
  vecInt (.vmacc d a b p z) d p z (fun s i => iAdd s.w (s.elem d i) (iMul s.w (s.elem a i) (s.elem b i))) s
def execVsadd (d a b : BitVec 6) (p : BitVec 3) (z : BitVec 1) (s : State) : Step := vecInt (.vsadd d a b p z) d p z (lane2 a b iSadd) s
def execVssub (d a b : BitVec 6) (p : BitVec 3) (z : BitVec 1) (s : State) : Step := vecInt (.vssub d a b p z) d p z (lane2 a b iSsub) s
def execVsaddn (d a b : BitVec 6) (p : BitVec 3) (z : BitVec 1) (s : State) : Step := vecInt (.vsaddn d a b p z) d p z (lane2 a b iSaddn) s
def execVssubn (d a b : BitVec 6) (p : BitVec 3) (z : BitVec 1) (s : State) : Step := vecInt (.vssubn d a b p z) d p z (lane2 a b iSsubn) s
def execVabs (d a : BitVec 6) (p : BitVec 3) (z : BitVec 1) (s : State) : Step := vecInt (.vabs d a p z) d p z (lane1 a iAbs) s
def execVclz (d a : BitVec 6) (p : BitVec 3) (z : BitVec 1) (s : State) : Step := vecInt (.vclz d a p z) d p z (lane1 a iClz) s
def execVpopc (d a : BitVec 6) (p : BitVec 3) (z : BitVec 1) (s : State) : Step := vecInt (.vpopc d a p z) d p z (lane1 a iPopc) s

/-! ### Scalar-operand forms (R190) -/

/-- The scalar: the low bits of a register, or the immediate, extended with its sign or without. -/
def State.scalarOf (s : State) (g : BitVec 5) (m : BitVec 1) (ext : Bool) : Nat :=
  if m = 0 then (s.g g).toNat % 2 ^ s.w else if ext then wrapInt s.w g.toInt else g.toNat

def laneScalar (a : BitVec 6) (g : BitVec 5) (m : BitVec 1) (ext : Bool) (op : Nat → Nat → Nat → Nat) (s : State) (i : Nat) : Nat :=
  op s.w (s.elem a i) (s.scalarOf g m ext)

def execVaddScalar (d a : BitVec 6) (g : BitVec 5) (p : BitVec 3) (z m : BitVec 1) (s : State) : Step :=
  vecInt (.vaddScalar d a g p z m) d p z (laneScalar a g m true iAdd) s
def execVsubScalar (d a : BitVec 6) (g : BitVec 5) (p : BitVec 3) (z m : BitVec 1) (s : State) : Step :=
  vecInt (.vsubScalar d a g p z m) d p z (laneScalar a g m true iSub) s
def execVmulScalar (d a : BitVec 6) (g : BitVec 5) (p : BitVec 3) (z m : BitVec 1) (s : State) : Step :=
  vecInt (.vmulScalar d a g p z m) d p z (laneScalar a g m true iMul) s
def execVminScalar (d a : BitVec 6) (g : BitVec 5) (p : BitVec 3) (z m : BitVec 1) (s : State) : Step :=
  vecInt (.vminScalar d a g p z m) d p z (laneScalar a g m true iMin) s
def execVmaxScalar (d a : BitVec 6) (g : BitVec 5) (p : BitVec 3) (z m : BitVec 1) (s : State) : Step :=
  vecInt (.vmaxScalar d a g p z m) d p z (laneScalar a g m true iMax) s
def execVminnScalar (d a : BitVec 6) (g : BitVec 5) (p : BitVec 3) (z m : BitVec 1) (s : State) : Step :=
  vecInt (.vminnScalar d a g p z m) d p z (laneScalar a g m true iMinn) s
def execVmaxnScalar (d a : BitVec 6) (g : BitVec 5) (p : BitVec 3) (z m : BitVec 1) (s : State) : Step :=
  vecInt (.vmaxnScalar d a g p z m) d p z (laneScalar a g m true iMaxn) s
def execVandScalar (d a : BitVec 6) (g : BitVec 5) (p : BitVec 3) (z m : BitVec 1) (s : State) : Step :=
  vecInt (.vandScalar d a g p z m) d p z (laneScalar a g m true iAnd) s
def execVorScalar (d a : BitVec 6) (g : BitVec 5) (p : BitVec 3) (z m : BitVec 1) (s : State) : Step :=
  vecInt (.vorScalar d a g p z m) d p z (laneScalar a g m true iOr) s
def execVxorScalar (d a : BitVec 6) (g : BitVec 5) (p : BitVec 3) (z m : BitVec 1) (s : State) : Step :=
  vecInt (.vxorScalar d a g p z m) d p z (laneScalar a g m true iXor) s
def execVsllScalar (d a : BitVec 6) (g : BitVec 5) (p : BitVec 3) (z m : BitVec 1) (s : State) : Step :=
  vecInt (.vsllScalar d a g p z m) d p z (laneScalar a g m false iSll) s
def execVsrlScalar (d a : BitVec 6) (g : BitVec 5) (p : BitVec 3) (z m : BitVec 1) (s : State) : Step :=
  vecInt (.vsrlScalar d a g p z m) d p z (laneScalar a g m false iSrl) s
def execVsraScalar (d a : BitVec 6) (g : BitVec 5) (p : BitVec 3) (z m : BitVec 1) (s : State) : Step :=
  vecInt (.vsraScalar d a g p z m) d p z (laneScalar a g m false iSra) s
def execVfaddScalar (d a : BitVec 6) (g : BitVec 5) (p : BitVec 3) (z : BitVec 1) (s : State) : Step :=
  vecFp (.vfaddScalar d a g p z) d p z (fun s f i => fpAdd f s.mode (s.elem a i) (s.scalarOf g 0 true)) s
def execVfmulScalar (d a : BitVec 6) (g : BitVec 5) (p : BitVec 3) (z : BitVec 1) (s : State) : Step :=
  vecFp (.vfmulScalar d a g p z) d p z (fun s f i => fpMul f s.mode (s.elem a i) (s.scalarOf g 0 true)) s

/-- VBCAST (R190): an immediate under a floating-point `vform` is converted exactly. -/
def execVbcast (d : BitVec 6) (g : BitVec 5) (p : BitVec 3) (z m : BitVec 1) (s : State) : Step :=
  vecInt (.vbcast d g p z m) d p z (fun s _ =>
    match formFmt s.th.arch.vform with
    | some f => if m = 1 then ((intVal g.toInt).convert f .rne false).1 else s.scalarOf g m true
    | none => s.scalarOf g m true) s

/-! ### Floating-point element forms (R191) -/

def execVfadd (d a b : BitVec 6) (p : BitVec 3) (z : BitVec 1) (s : State) : Step :=
  vecFp (.vfadd d a b p z) d p z (fun s f i => fpAdd f s.mode (s.elem a i) (s.elem b i)) s
def execVfsub (d a b : BitVec 6) (p : BitVec 3) (z : BitVec 1) (s : State) : Step :=
  vecFp (.vfsub d a b p z) d p z (fun s f i => fpSub f s.mode (s.elem a i) (s.elem b i)) s
def execVfmul (d a b : BitVec 6) (p : BitVec 3) (z : BitVec 1) (s : State) : Step :=
  vecFp (.vfmul d a b p z) d p z (fun s f i => fpMul f s.mode (s.elem a i) (s.elem b i)) s
def execVfmin (d a b : BitVec 6) (p : BitVec 3) (z : BitVec 1) (s : State) : Step :=
  vecFp (.vfmin d a b p z) d p z (fun s f i => fpMinMax f false (s.elem a i) (s.elem b i)) s
def execVfmax (d a b : BitVec 6) (p : BitVec 3) (z : BitVec 1) (s : State) : Step :=
  vecFp (.vfmax d a b p z) d p z (fun s f i => fpMinMax f true (s.elem a i) (s.elem b i)) s
def execVfabs (d a : BitVec 6) (p : BitVec 3) (z : BitVec 1) (s : State) : Step :=
  vecFp (.vfabs d a p z) d p z (fun s f i => (fpSign f 3 (s.elem a i) 0, 0)) s
def execVfneg (d a : BitVec 6) (p : BitVec 3) (z : BitVec 1) (s : State) : Step :=
  vecFp (.vfneg d a p z) d p z (fun s f i => (fpSign f 1 (s.elem a i) (s.elem a i), 0)) s
def execVfma (d a b : BitVec 6) (p : BitVec 3) (z : BitVec 1) (s : State) : Step :=
  vecFp (.vfma d a b p z) d p z (fun s f i => fpFma f s.mode (s.elem a i) (s.elem b i) (s.elem d i)) s
def execVfnma (d a b : BitVec 6) (p : BitVec 3) (z : BitVec 1) (s : State) : Step :=
  vecFp (.vfnma d a b p z) d p z (fun s f i => fpFnma f s.mode (s.elem a i) (s.elem b i) (s.elem d i)) s

/-! ### Compares and predicates (R192 to R196) -/

/-- VCMP's conditions at width w. -/
def intCompare (c : BitVec 3) (w x y : Nat) : Bool :=
  match c.toNat with
  | 0 => decide (x = y)
  | 1 => decide (x ≠ y)
  | 2 => decide (signed w x < signed w y)
  | 3 => decide (signed w y ≤ signed w x)
  | 4 => decide (x < y)
  | _ => decide (y ≤ x)

def execVcmp (c q : BitVec 3) (a b : BitVec 6) (p : BitVec 3) (z : BitVec 1) (s : State) : Step :=
  issue (.vcmp c q a b p z) s fun s =>
    .next (s.putP q z (s.lanes.map fun i =>
      if s.active p i then some (intCompare c s.w (s.elem a i) (s.elem b i)) else none))

/-- VFCMP's conditions. -/
def fpCondition (f : Fmt) (c : BitVec 3) (x y : Nat) : Bool × FFlags :=
  let a := f.decode x
  let b := f.decode y
  match c.toNat with
  | 0 => (a.eq b, compareFlags false a b)
  | 1 => (!a.eq b, compareFlags false a b)
  | 2 => (a.lt b, compareFlags true a b)
  | 3 => (a.lt b || a.eq b, compareFlags true a b)
  | 4 => (b.lt a, compareFlags true a b)
  | 5 => (b.lt a || a.eq b, compareFlags true a b)
  | _ => (a.isNan || b.isNan, compareFlags false a b)

def execVfcmp (c q : BitVec 3) (a b : BitVec 6) (p : BitVec 3) (z : BitVec 1) (s : State) : Step :=
  issue (.vfcmp c q a b p z) s fun s =>
    match formFmt s.th.arch.vform with
    | none => .trouble s (illegalTrap (.vfcmp c q a b p z)) none
    | some f =>
      let rs := s.lanes.map fun i => if s.active p i then some (fpCondition f c (s.elem a i) (s.elem b i)) else none
      .next ((s.putP q z (rs.map fun r => r.map (·.1))).orFlags (rs.foldl (fun acc r => match r with
        | some x => acc ||| x.2
        | none => acc) 0))

/-- The first poisoned word among words of registers (R345). -/
def State.wordsPoison (s : State) (ws : List (BitVec 6 × Nat)) : Option Trouble :=
  ws.findSome? fun (n, j) => s.vPoison n [j]

/-- VSEL (R193): every element below `vcount`, from va where pn is set, else from vb. -/
def execVsel (d a b : BitVec 6) (p : BitVec 3) (s : State) : Step :=
  issue (.vsel d a b p) s fun s =>
    let src (i : Nat) : BitVec 6 := if s.active p i then a else b
    match s.wordsPoison (s.lanes.map fun i => (src i, i * s.w / 64)) with
    | some t => .trouble s t none
    | none => .next (s.putV d 0 (s.lanes.map fun i => some (s.elem (src i) i)))

/-- PLOG's operations (R194). -/
def predOp (o : BitVec 3) (x y : Bool) : Bool :=
  match o.toNat with
  | 0 => x && y
  | 1 => x || y
  | 2 => x ^^ y
  | 3 => x && !y
  | 4 => x || !y
  | 5 => !(x && y)
  | 6 => !(x || y)
  | _ => !(x ^^ y)

def execPlog (o q a b p : BitVec 3) (z : BitVec 1) (s : State) : Step :=
  issue (.plog o q a b p z) s fun s =>
    .next (s.putP q z (s.lanes.map fun i =>
      if s.active p i then some (predOp o ((s.pReg a).testBit i) ((s.pReg b).testBit i)) else none))

def execPcnt (d : BitVec 5) (a p : BitVec 3) (s : State) : Step :=
  issue (.pcnt d a p) s fun s =>
    .next (s.setG d (BitVec.ofNat 64 (s.lanes.filter fun i => s.active p i && (s.pReg a).testBit i).length))

/-- Target of BPANY and BPNONE (R196). -/
def predTarget (pc : BitVec 64) (o : BitVec 18) : BitVec 64 := pc + (o.signExtend 64 <<< 2)

def execBpany (o : BitVec 18) (p : BitVec 3) (s : State) : Step :=
  issue (.bpany o p) s fun s => if s.lanes.any (s.active p) then .jump s (predTarget s.th.arch.pc o) else .next s
def execBpnone (o : BitVec 18) (p : BitVec 3) (s : State) : Step :=
  issue (.bpnone o p) s fun s => if s.lanes.any (s.active p) then .next s else .jump s (predTarget s.th.arch.pc o)

/-! ### Moves (R197) -/

def execVmov (d a : BitVec 6) (p : BitVec 3) (z : BitVec 1) (s : State) : Step :=
  vecInt (.vmov d a p z) d p z (fun s i => s.elem a i) s

def execVidx (d : BitVec 6) (p : BitVec 3) (z : BitVec 1) (s : State) : Step :=
  vecInt (.vidx d p z) d p z (fun s i =>
    match formFmt s.th.arch.vform with
    | some f => ((intVal i).convert f .rne false).1
    | none => i) s

def execVext (d : BitVec 5) (a : BitVec 6) (x : BitVec 5) (s : State) : Step :=
  issue (.vext d a x) s fun s =>
    let k := (s.g x).toNat
    if s.vl ≤ k then .next (s.setG d 0)
    else
      match s.wordsPoison [(a, k * s.w / 64)] with
      | some t => .trouble s t none
      | none =>
        let e := s.elem a k
        .next (s.setG d (if formSigned s.th.arch.vform then BitVec.ofInt 64 (signed s.w e) else BitVec.ofNat 64 e))

/-! ### Conversions (R198 to R200) -/

/-- The type that a VCVT code names (R127). -/
inductive VType where
  | int (w : Nat) (sgn : Bool)
  | fp (f : Fmt)
  | mx (f : Fmt)
  | rime
  deriving DecidableEq, Repr

def vtype (t : BitVec 5) : VType :=
  match t.toNat with
  | 0x00 => .int 8 true | 0x01 => .int 16 true | 0x02 => .int 32 true | 0x03 => .int 64 true
  | 0x04 => .int 8 false | 0x05 => .int 16 false | 0x06 => .int 32 false | 0x07 => .int 64 false
  | 0x08 => .fp .f16 | 0x09 => .fp .bf16 | 0x0A => .fp .f32 | 0x0B => .fp .f64
  | 0x0C => .int 4 true | 0x0D => .fp .e4m3 | 0x0E => .fp .e5m2 | 0x0F => .mx .e3m2 | 0x10 => .mx .e2m3
  | 0x11 => .mx .e2m1 | 0x13 => .rime | 0x14 => .mx .e4m3 | _ => .mx .e5m2

/-- One element converted between unscaled types (R199); widths are those of storage. -/
def convertElem (m : Mode) (sat : Bool) (from_ to_ : VType) (x : Nat) : Nat × FFlags :=
  let value (w : Nat) (sgn : Bool) : Int := if sgn then signed w x else ((x % 2 ^ w : Nat) : Int)
  match from_, to_ with
  | .fp f, .fp g => fpConvert f g m (sat && decide (g.bits ≤ f.bits)) x
  | .fp f, .int w sgn => (f.decode x).toInt m sgn w
  | .int w sgn, .fp g => (intVal (value w sgn)).convert g m false
  | .int w sgn, .int w2 sgn2 =>
    if sat && decide (w2 ≤ w) then (if sgn2 then clampS w2 (value w sgn) else clampN w2 (value w sgn), 0)
    else (wrapInt w2 (value w sgn), 0)
  | _, _ => (x, 0)

/-- Bits of a register that the active grant holds. -/
def State.grantBits (s : State) : Nat := if s.th.lgG = 0 then 0 else 2 ^ s.th.lgG

/-- The bits of a register group, all its registers joined. -/
def State.groupBits (s : State) : List (BitVec 6) → Nat
  | [] => 0
  | r :: t => s.vReg r % 2 ^ s.grantBits + (s.groupBits t <<< s.grantBits)

/-- Writes bits of a register group that a mask names; in a group of several, zeroing clears all else (R178). -/
def State.putGroup (s : State) (z : BitVec 1) (val mask : Nat) : List (BitVec 6) → State
  | [] => s
  | r :: t =>
    let v := val % 2 ^ s.grantBits
    let m := if z = 1 then 2 ^ 2048 - 1 else mask % 2 ^ s.grantBits
    (s.putVBits r v m).putGroup z (val >>> s.grantBits) (mask >>> s.grantBits) t

/-- Writes the T side of VCVT.TO: in a one-register group the bits at and above `vcount` elements are zero (R198). -/
def State.putConverted (s : State) (d : BitVec 6) (wT : Nat) (z : BitVec 1) (items : List (Option Nat)) : State :=
  let (v, m) := assemble wT items
  match decide (s.w < wT) with
  | true => s.putGroup z v m ((List.range (wT / s.w)).map fun j => d + BitVec.ofNat 6 j)
  | false =>
    let used := 2 ^ (s.vl * wT)
    s.putVBits d v (if z = 1 then 2 ^ 2048 - 1 else m + (2 ^ 2048 - used))

/-- Lists of the elements of each block of n. -/
def blocksOf {α : Type} (n : Nat) (xs : List α) : List (List α) := chunks n (xs.length + 1) xs

/-- VCVT.TO an MX type (R73, R200): each block's scale and elements, inactive elements +0, the scale register whole. -/
def State.toMx (s : State) (d a : BitVec 6) (f g : Fmt) (wT : Nat) (p : BitVec 3) : State :=
  let xs := s.lanes.map fun i => (s.active p i, f.decode (s.elem a i))
  let bs := (blocksOf 32 xs).map (mxBlock g s.mode)
  let els := (bs.flatMap fun b => b.2.1).map some
  let s1 := s.putConverted d wT 0 els
  (s1.putVBits (d + 1) (leNat (bs.map fun b => BitVec.ofNat 8 b.1)) (2 ^ 2048 - 1)).orFlags
    (bs.foldl (fun acc b => acc ||| b.2.2) 0)

def execVcvtTo (d a : BitVec 6) (q : BitVec 1) (t : BitVec 5) (p : BitVec 3) (z : BitVec 1) (s : State) : Step :=
  issue (.vcvtTo d a q t p z) s fun s =>
    let i : Instr := .vcvtTo d a q t p z
    let own := vtype (s.th.arch.vform.setWidth 5)
    match vtype t, formFmt s.th.arch.vform with
    | .rime, _ | .mx _, none => .trouble s (illegalTrap i) none
    | .mx g, some f => .next (s.toMx d a f g (typeWidth t) p)
    | ty, _ =>
      let (items, fl) := s.mapFlags p fun i => convertElem s.mode (q = 1) own ty (s.elem a i)
      .next ((s.putConverted d (typeWidth t) z items).orFlags fl)

/-- The first poisoned word that a VCVT.FROM reads for an active element (R345). -/
def State.groupPoison (s : State) (rs : List (BitVec 6)) (wT : Nat) (p : BitVec 3) : Option Trouble :=
  s.wordsPoison ((s.lanes.filter (s.active p)).filterMap fun i =>
    let bit := i * wT
    (rs[bit / max 1 s.grantBits]?).map fun r => (r, bit % max 1 s.grantBits / 64))

/-- An element of a scaled type as a value: MX element times its block's scale, or a rime-2 weight (R72, R74). -/
def scaledElem (ty : VType) (group scales i : Nat) (wT : Nat) : FVal :=
  match ty with
  | .mx g => mxElem g (bitsOf scales (8 * (i / 32)) 8) (bitsOf group (i * wT) wT)
  | _ => rimeWeight (bitsOf group (16 * (i / 8)) 16) (bitsOf scales (8 * (i / 256)) 8) (i % 8)

def execVcvtFrom (d a : BitVec 6) (q : BitVec 1) (t : BitVec 5) (p : BitVec 3) (z : BitVec 1) (s : State) : Step :=
  issue (.vcvtFrom d a q t p z) s fun s =>
    let i : Instr := .vcvtFrom d a q t p z
    let wT := typeWidth t
    let rs := typeGroup s.w t a
    let group := s.groupBits rs
    let own := vtype (s.th.arch.vform.setWidth 5)
    let scaled := typeScaled t
    if scaled && (formFmt s.th.arch.vform).isNone then .trouble s (illegalTrap i) none
    else
      match s.groupPoison rs wT p with
      | some e => .trouble s e none
      | none =>
        let scalePoison := if scaled then
            s.wordsPoison ((s.lanes.filter (s.active p)).map fun i => (a + 1, (if wT = 2 then i / 256 else i / 32) / 8))
          else none
        match scalePoison, scaled, formFmt s.th.arch.vform with
        | some e, _, _ => .trouble s e none
        | none, true, some f =>
          let scales := s.vReg (a + 1)
          let (items, fl) := s.mapFlags p fun i => (scaledElem (vtype t) group scales i wT).convert f s.mode false
          .next ((s.putV d z items).orFlags fl)
        | none, _, _ =>
          let (items, fl) := s.mapFlags p fun i => convertElem s.mode (q = 1) (vtype t) own (bitsOf group (i * wT) wT)
          .next ((s.putV d z items).orFlags fl)

/-! ### Vector length and loops (R187, R188) -/

/-- Sets the active grant: every register keeps its bits below it. -/
def State.setGrant (s : State) (lg : Nat) : State :=
  if lg = s.th.lgG then s
  else
    let keep : BitVec 2048 := BitVec.ofNat 2048 (2 ^ 2 ^ lg - 1)
    let words : BitVec 32 := BitVec.ofNat 32 (2 ^ (2 ^ lg / 64) - 1)
    { s with th :=
      { s.th with
        lgG := lg
        arch := { s.th.arch with v := s.th.arch.v.map (· &&& keep), deep := s.th.arch.deep.map (· &&& keep) }
        poison := { s.th.poison with v := s.th.poison.v.map (· &&& words), deep := s.th.poison.deep.map (· &&& words) } } }

/-- `vcount` becomes that of the active grant, ending any trim (R64). -/
def State.fullCount (s : State) : State :=
  { s with th := { s.th with arch := s.th.arch.setVcount (grantCount s.th.lgG s.w) } }

/-- The grant that a VCONF request in bits brings, none when it is no grant (R187); grants by their logarithms. -/
def confGrant (vmin lgG0 r : Nat) : Option Nat :=
  if r = 128 ∨ r = 256 ∨ r = 512 ∨ r = 1024 ∨ r = 2048 then some (max vmin (min (Nat.log2 r) lgG0)) else none

def execVconf (d g : BitVec 5) (m : BitVec 1) (s : State) : Step :=
  issue (.vconf d g m) s fun s =>
    let r := if m = 0 then (s.g g).toNat else 2 ^ g.toNat
    let vmin := (s.myLaunch.map fun l => l.info.vlmin).getD 7
    match confGrant vmin s.th.lgG0 r with
    | none => .trouble s (illegalTrap (.vconf d g m)) none
    | some lg =>
      let s1 := (s.setGrant lg).fullCount
      .next (s1.setG d (BitVec.ofNat 64 s1.vl))

/-- Writes a predicate register whole. -/
def State.putWholeP (s : State) (n : Fin 8) (x : BitVec 256) : State :=
  { s with th :=
    { s.th with
      arch := { s.th.arch with p := s.th.arch.p.set n x }
      poison := { s.th.poison with p := s.th.poison.p &&& ~~~(1#8 <<< n.val) } } }

def execVloop (g : BitVec 5) (s : State) : Step :=
  issue (.vloop g) s fun s =>
    let n := (s.g g).toNat - 1
    let p := s.th.arch.p
    let s1 := s.setG g (BitVec.ofNat 64 n)
    let s2 := { s1 with th := { s1.th with arch := { s1.th.arch with vrot := s1.th.arch.vrot + 31 } } }
    let s3 := (((s2.putWholeP 7 p[6]).putWholeP 6 p[5]).putWholeP 5 p[4]).fullCount
    .next (s3.putWholeP 4 (if 0 < n then BitVec.ofNat 256 (2 ^ s3.vl - 1) else 0))

end Sys2Proof.Machine
end

