-- ==== Sys2Proof/Machine/VectorExt.lean ====
section
/-! DEFINITION. The VX group but for memory: division, square root, the transcendentals, integer division, lane
permutations, scans and reductions, random numbers, the deep file and VSYNC (R205 to R218). -/

namespace Sys2Proof.Machine

/-! ### Correctly rounded transcendentals (R207)

A result is enclosed between two fixed-point numbers of p fractional bits. When both ends round to one value with the
same flags, that is the rounded result; else p grows. -/

/-- ⌊ln 2 · 2^p⌋ but for an error of at most its number of terms, and an upper bound. -/
def ln2Terms (p : Nat) : Nat := p / 3 + 4
def ln2Lo (p : Nat) : Nat := (List.range (ln2Terms p)).foldl (fun a k => a + 2 ^ (p + 1) / (3 ^ (2 * k + 1) * (2 * k + 1))) 0
def ln2Hi (p : Nat) : Nat := ln2Lo p + ln2Terms p + 2

/-- Bounds of e^x for x / 2^p below 0.7. -/
def expTerms (p : Nat) : Nat := p / 4 + 8
def expLo (p x : Nat) : Nat :=
  ((List.range (expTerms p)).foldl (fun (a : Nat × Nat) k => (a.1 + a.2, a.2 * x / ((k + 1) * 2 ^ p))) (0, 2 ^ p)).1
def expHi (p x : Nat) : Nat := expLo p x + 4 * expTerms p + 16

/-- Bounds of ln y for y = n / d in [1, 2). -/
def lnLo (p n d : Nat) : Nat :=
  let z := (n - d) * 2 ^ p / (n + d)
  2 * ((List.range (ln2Terms p)).foldl (fun (a : Nat × Nat) k => (a.1 + a.2 / (2 * k + 1), a.2 * z / 2 ^ p * z / 2 ^ p)) (0, z)).1
def lnHi (p n d : Nat) : Nat := lnLo p n d + 8 * ln2Terms p + 32

/-- The rounded result when a magnitude lies strictly between lo and hi times 2^e. -/
def settle (f : Fmt) (m : Mode) (neg : Bool) (lo hi : Nat) (e : Int) : Option (Nat × FFlags) :=
  let a := f.round m .arithmetic neg lo e true
  let b := f.round m .arithmetic neg (hi - 1) e true
  if 0 < lo ∧ a = b then some a else none

/-- The first precision that settles a result, else a free value (log 15). -/
def settleBy (fn : Nat) (f : Fmt) (x : Nat) (g : Nat → Option (Nat × FFlags)) : Nat × FFlags :=
  ([160, 320, 640].findSome? g).getD (Config.transcendental fn f.bits x % 2 ^ f.bits, flagInexact)

/-- A value just above 1, and one just below m · 2^e in magnitude. -/
def justAbove (f : Fmt) (m : Mode) : Nat × FFlags := f.round m .arithmetic false (2 ^ 200) (-200) true
def justBelow (f : Fmt) (md : Mode) (neg : Bool) (m : Nat) (e : Int) : Nat × FFlags :=
  f.round md .arithmetic neg (m * 2 ^ 200 - 1) (e - 200) true

/-- Floor of m · 2^e. -/
def floorScaled (m : Nat) (e : Int) : Nat := if 0 ≤ e then m * 2 ^ e.toNat else m / 2 ^ (-e).toNat

/-- 2^(±m·2^e) for a value that is no integer and not tiny: integer part and a fraction in (0, 1). -/
def exp2Mid (f : Fmt) (md : Mode) (x : Nat) (neg : Bool) (m : Nat) (e : Int) : Nat × FFlags :=
  let d := (-e).toNat
  let a : Int := if neg then -(m : Int) else m
  let n := a / ((2 ^ d : Nat) : Int)
  let frac := (a % ((2 ^ d : Nat) : Int)).toNat
  settleBy 0 f x fun p => settle f md false (expLo p (frac * ln2Lo p / 2 ^ d)) (expHi p (frac * ln2Hi p / 2 ^ d + 1)) (n - p)

/-- VFEXP2 of an element. -/
def fpExp2 (f : Fmt) (md : Mode) (x : Nat) : Nat × FFlags :=
  match f.decode x with
  | .nan s => (f.nanBits, if s then flagInvalid else 0)
  | .inf neg => if neg then (0, 0) else (f.infBits, 0)
  | .fin neg m e =>
    if m = 0 then f.round md .arithmetic false 1 0 false
    else
      let top := (Nat.log2 m : Int) + e
      -- |a| at least 2^12 is beyond every format's exponents
      if 12 ≤ top then f.round md .arithmetic false 1 (if neg then -4096 else 4096) true
      else if isWhole m e then
        let n : Int := (floorScaled m e : Int)
        f.round md .arithmetic false 1 (if neg then -n else n) false
      else if top < -(f.prec : Int) - 3 then (if neg then justBelow f md false 1 0 else justAbove f md)
      else exp2Mid f md x neg m e

/-- VFLOG2 of an element. -/
def fpLog2 (f : Fmt) (md : Mode) (x : Nat) : Nat × FFlags :=
  match f.decode x with
  | .nan s => (f.nanBits, if s then flagInvalid else 0)
  | .inf neg => if neg then (f.nanBits, flagInvalid) else (f.infBits, 0)
  | .fin neg m e =>
    if m = 0 then (f.signed true f.infBits, flagDivZero)
    else if neg then (f.nanBits, flagInvalid)
    else
      let k := Nat.log2 m
      let top := (k : Int) + e
      if m = 2 ^ k then (intVal top).convert f md false
      else
        settleBy 1 f x fun p =>
          -- top plus the logarithm of m / 2^k, between lo and hi
          let lo : Int := top * ((2 ^ p : Nat) : Int) + ((lnLo p m (2 ^ k) * 2 ^ p / ln2Hi p : Nat) : Int)
          let hi : Int := top * ((2 ^ p : Nat) : Int) + ((lnHi p m (2 ^ k) * 2 ^ p / ln2Lo p + 1 : Nat) : Int)
          if 0 < lo then settle f md false lo.toNat hi.toNat (-(p : Int))
          else if hi < 0 then settle f md true (-hi).toNat (-lo).toNat (-(p : Int))
          else none

/-- VFTANH of an element. -/
def fpTanh (f : Fmt) (md : Mode) (x : Nat) : Nat × FFlags :=
  match f.decode x with
  | .nan s => (f.nanBits, if s then flagInvalid else 0)
  | .inf neg => f.round md .arithmetic neg 1 0 false
  | .fin neg m e =>
    if m = 0 then (f.signed neg 0, 0)
    else
      let top := (Nat.log2 m : Int) + e
      if top < -((f.prec : Int) / 2) - 3 then justBelow f md neg m e
      else if 6 ≤ top then justBelow f md neg 1 0
      else
        settleBy 2 f x fun p =>
          -- e^(2|a|) = 2^q · e^r
          let y := floorScaled m (e + 1 + p)
          let q := y / ln2Hi p
          let lo := expLo p (y - q * ln2Hi p) * 2 ^ q
          let hi := expHi p (y + 1 - q * ln2Lo p) * 2 ^ q
          settle f md neg ((lo - 2 ^ p) * 2 ^ p / (lo + 2 ^ p)) ((hi - 2 ^ p) * 2 ^ p / (hi + 2 ^ p) + 1) (-(p : Int))

def execVfdiv (d a b : BitVec 6) (p : BitVec 3) (z : BitVec 1) (s : State) : Step :=
  vecFp (.vfdiv d a b p z) d p z (fun s f i => fpDiv f s.mode (s.elem a i) (s.elem b i)) s
def execVfsqrt (d a : BitVec 6) (p : BitVec 3) (z : BitVec 1) (s : State) : Step :=
  vecFp (.vfsqrt d a p z) d p z (fun s f i => fpSqrt f s.mode (s.elem a i)) s
def execVfexp2 (d a : BitVec 6) (p : BitVec 3) (z : BitVec 1) (s : State) : Step :=
  vecFp (.vfexp2 d a p z) d p z (fun s f i => fpExp2 f s.mode (s.elem a i)) s
def execVflog2 (d a : BitVec 6) (p : BitVec 3) (z : BitVec 1) (s : State) : Step :=
  vecFp (.vflog2 d a p z) d p z (fun s f i => fpLog2 f s.mode (s.elem a i)) s
def execVftanh (d a : BitVec 6) (p : BitVec 3) (z : BitVec 1) (s : State) : Step :=
  vecFp (.vftanh d a p z) d p z (fun s f i => fpTanh f s.mode (s.elem a i)) s

/-! ### Integer division (R208) -/

def iDiv (w x y : Nat) : Nat := if y = 0 then 2 ^ w - 1 else wrapInt w ((signed w x).tdiv (signed w y))
def iRem (w x y : Nat) : Nat := if y = 0 then x else wrapInt w ((signed w x).tmod (signed w y))
def iDivn (w x y : Nat) : Nat := if y = 0 then 2 ^ w - 1 else x / y
def iRemn (_ x y : Nat) : Nat := if y = 0 then x else x % y

def execVdiv (d a b : BitVec 6) (p : BitVec 3) (z : BitVec 1) (s : State) : Step := vecInt (.vdiv d a b p z) d p z (lane2 a b iDiv) s
def execVdivn (d a b : BitVec 6) (p : BitVec 3) (z : BitVec 1) (s : State) : Step := vecInt (.vdivn d a b p z) d p z (lane2 a b iDivn) s
def execVrem (d a b : BitVec 6) (p : BitVec 3) (z : BitVec 1) (s : State) : Step := vecInt (.vrem d a b p z) d p z (lane2 a b iRem) s
def execVremn (d a b : BitVec 6) (p : BitVec 3) (z : BitVec 1) (s : State) : Step := vecInt (.vremn d a b p z) d p z (lane2 a b iRemn) s

/-! ### Random numbers (R85, R216) -/

def rngRotations : List Nat := [7, 19, 11, 26, 3, 14, 29, 9, 22, 16]

/-- Rng of R85. -/
def rng (key ctr : BitVec 64) : BitVec 64 :=
  let k0 : BitVec 32 := key.setWidth 32
  let k1 : BitVec 32 := key.extractLsb' 32 32
  let k2 : BitVec 32 := k0 ^^^ k1 ^^^ 0x5E4A_C7D3
  let ks (r : Nat) : BitVec 32 := if r % 3 = 0 then k0 else if r % 3 = 1 then k1 else k2
  let (x0, x1) := rngRotations.zipIdx.foldl (fun (x : BitVec 32 × BitVec 32) (n, r) =>
    let x0 := x.1 + x.2 + ks r
    (x0, (x.2.rotateLeft n ^^^ x0) + ks (r + 1) + BitVec.ofNat 32 r)) (ctr.setWidth 32, ctr.extractLsb' 32 32)
  x1 ++ x0

def execVrng (d : BitVec 6) (g : BitVec 5) (p : BitVec 3) (z : BitVec 1) (s : State) : Step :=
  vecInt (.vrng d g p z) d p z (fun s i =>
    let r := (rng s.th.arch.rngkey (s.g g + BitVec.ofNat 64 i)).toNat
    match formFmt s.th.arch.vform with
    | some f => (f.round .rne .arithmetic false (r >>> (64 - f.prec)) (-(f.prec : Int)) false).1
    | none => r % 2 ^ s.w) s

/-! ### Permutations (R206, R209 to R212) -/

def execVxch (d a : BitVec 6) (k p : BitVec 3) (z : BitVec 1) (s : State) : Step :=
  vecInt (.vxch d a k p z) d p z (fun s i =>
    let j := i ^^^ 2 ^ k.toNat
    s.elem a (if j < s.vl then j else i)) s

/-- Element j of a source, zero at and above `vcount`. -/
def State.elemOr0 (s : State) (a : BitVec 6) (j : Nat) : Nat := if j < s.vl then s.elem a j else 0

def execVpermIx (d a b : BitVec 6) (p : BitVec 3) (z : BitVec 1) (s : State) : Step :=
  vecInt (.vpermIx d a b p z) d p z (fun s i => s.elemOr0 a (s.elem b i)) s

/-- The low b bits of i in reverse order. -/
def reverseBits : Nat → Nat → Nat
  | 0, _ => 0
  | b + 1, i => (i % 2) * 2 ^ b + reverseBits b (i / 2)

def execVpermBr (d a : BitVec 6) (p : BitVec 3) (z : BitVec 1) (s : State) : Step :=
  vecInt (.vpermBr d a p z) d p z (fun s i => s.elemOr0 a (reverseBits (ceilLog2 s.vl) i)) s

def execVslideUp (d a : BitVec 6) (n : BitVec 5) (p : BitVec 3) (z : BitVec 1) (s : State) : Step :=
  vecInt (.vslideUp d a n p z) d p z (fun s i => if (s.g n).toNat ≤ i then s.elem a (i - (s.g n).toNat) else 0) s
def execVslideDn (d a : BitVec 6) (n : BitVec 5) (p : BitVec 3) (z : BitVec 1) (s : State) : Step :=
  vecInt (.vslideDn d a n p z) d p z (fun s i => s.elemOr0 a (i + (s.g n).toNat)) s

/-- Positions below `vcount` that a predicate selects. -/
def State.selected (s : State) (p : BitVec 3) : List Nat := s.lanes.filter (s.active p)

def execVcompact (d a : BitVec 6) (p : BitVec 3) (z : BitVec 1) (s : State) : Step :=
  issue (.vcompact d a p z) s fun s =>
    let xs := (s.selected p).map (s.elem a)
    .next (s.putV d z (s.lanes.map fun k => xs[k]?))

def execVexpand (d a : BitVec 6) (p : BitVec 3) (z : BitVec 1) (s : State) : Step :=
  issue (.vexpand d a p z) s fun s =>
    .next (s.putV d z (s.lanes.map fun i =>
      if s.active p i then some (s.elem a ((s.lanes.filter fun j => decide (j < i) && s.active p j).length)) else none))

/-! ### Scans and reductions (R83, R84, R213 to R215) -/

/-- The operation of a code under a `vform`, none where R213 makes it illegal. -/
def reduceOp (form : BitVec 4) (m : Mode) (o : BitVec 3) : Option (Nat → Nat → Nat × FFlags) :=
  let w := formWidth form
  match formFmt form with
  | some f =>
    match o.toNat with
    | 0 => some (fpAdd f m)
    | 1 => some (fpMinMax f false)
    | 2 => some (fpMinMax f true)
    | _ => none
  | none =>
    let int (op : Nat → Nat → Nat → Nat) : Nat → Nat → Nat × FFlags := fun x y => (op w x y, 0)
    match o.toNat with
    | 0 => some (int iAdd)
    | 1 => some (int (if formSigned form then iMin else iMinn))
    | 2 => some (int (if formSigned form then iMax else iMaxn))
    | 3 => some (int iAnd)
    | 4 => some (int iOr)
    | _ => some (int iXor)

/-- The identity of an operator (R83). -/
def reduceIdentity (form : BitVec 4) (o : BitVec 3) : Nat :=
  let w := formWidth form
  match formFmt form with
  | some f =>
    match o.toNat with
    | 1 => f.infBits
    | 2 => f.signed true f.infBits
    | _ => 0
  | none =>
    match o.toNat with
    | 1 => if formSigned form then 2 ^ (w - 1) - 1 else 2 ^ w - 1
    | 2 => if formSigned form then 2 ^ (w - 1) else 0
    | 3 => 2 ^ w - 1
    | _ => 0

/-- Combine of R83, with the flags of the steps so far. -/
def combine (op : Nat → Nat → Nat × FFlags) (x y : Option (Nat × FFlags)) : Option (Nat × FFlags) :=
  match x, y with
  | some a, some b => let (r, fl) := op a.1 b.1; some (r, a.2 ||| b.2 ||| fl)
  | some a, none => some a
  | none, y => y

/-- TreeReduce over elements, Empty being none. -/
def treeValue (op : Nat → Nat → Nat × FFlags) (xs : List (Option Nat)) : Option (Nat × FFlags) :=
  ((treeReduce (combine op) 9 (xs.map fun x => x.map fun v => (v, (0 : FFlags)))).head?).getD none

/-- An element of a scan or reduction: the tree's value, or the identity. -/
def State.treeElem (s : State) (op : Nat → Nat → Nat × FFlags) (o : BitVec 3) (xs : List (Option Nat)) : Nat × FFlags :=
  (treeValue op xs).getD (reduceIdentity s.th.arch.vform o, 0)

def execVscan (d a : BitVec 6) (e : BitVec 1) (o p : BitVec 3) (z : BitVec 1) (s : State) : Step :=
  issue (.vscan d a e o p z) s fun s =>
    match reduceOp s.th.arch.vform s.mode o with
    | none => .trouble s (illegalTrap (.vscan d a e o p z)) none
    | some op =>
      let (items, fl) := s.mapFlags p fun i =>
        s.treeElem op o (s.lanes.map fun j =>
          if s.active p j && (decide (j < i) || (decide (j = i) && decide (e = 0))) then some (s.elem a j) else none)
      .next ((s.putV d z items).orFlags fl)

def execVred (d a : BitVec 6) (o p : BitVec 3) (z : BitVec 1) (s : State) : Step :=
  issue (.vred d a o p z) s fun s =>
    match reduceOp s.th.arch.vform s.mode o with
    | none => .trouble s (illegalTrap (.vred d a o p z)) none
    | some op =>
      let (r, fl) := s.treeElem op o (s.mapLanes p (s.elem a))
      .next ((s.putV d z (s.lanes.map fun i => if i = 0 then some r else none)).orFlags fl)

/-! ### The deep file and VSYNC (R217, R218) -/

/-- The deep-file entry that g[r] names, none where the form is illegal. -/
def State.deepEntry (s : State) (r : BitVec 5) : Option (Fin 192) :=
  if h : (s.g r).toNat < 192 then (if s.th.arch.vdeep = 0 then none else some ⟨(s.g r).toNat, h⟩) else none

/-- Words of a register that hold bits of the active grant. -/
def State.grantWords (s : State) : List Nat := List.range (s.grantBits / 64)

def execVrget (d : BitVec 6) (g : BitVec 5) (s : State) : Step :=
  issue (.vrget d g) s fun s =>
    match s.deepEntry g with
    | none => .trouble s (illegalTrap (.vrget d g)) none
    | some e =>
      match s.grantWords.find? fun j => s.th.poison.deep[e].getLsbD j with
      | some j => .trouble s (poisonedWord (e.val % 64) j) none
      | none => .next (s.putVBits d s.th.arch.deep[e].toNat (2 ^ s.grantBits - 1))

def execVrput (x : BitVec 6) (g : BitVec 5) (s : State) : Step :=
  issue (.vrput x g) s fun s =>
    match s.deepEntry g with
    | none => .trouble s (illegalTrap (.vrput x g)) none
    | some e =>
      match s.wordsPoison (s.grantWords.map fun j => (x, j)) with
      | some t => .trouble s t none
      | none =>
        .next { s with th :=
          { s.th with
            arch := { s.th.arch with deep := s.th.arch.deep.set e (BitVec.ofNat 2048 (s.vReg x % 2 ^ s.grantBits)) }
            poison := { s.th.poison with deep := s.th.poison.deep.set e 0 } } }

/-- VSYNC (R218): the thread's clusters have completed every earlier instruction in a model that runs in order. -/
def execVsync (s : State) : Step := issue .vsync s fun s => .next s

end Sys2Proof.Machine
end

