-- ==== Sys2Proof/Machine/Places.lean ====
section
/-! DEFINITION. What a launch's tree means in place: its initial class and capacities (R14, R27, R41), the package that
holds a member (R422), and the members and owners of a collective group (R219 to R221). -/

namespace Sys2Proof.Machine

/-! ### Capacities (R14, R27, R41) -/

/-- The initial class that a groups byte selects (R14). -/
def initialClass (groups : BitVec 8) : CoreClass :=
  if groups.getLsbD 5 || groups.getLsbD 6 then .tensor else if groups.getLsbD 3 || groups.getLsbD 4 then .vector else .control

def Launch.cls (l : Launch) : CoreClass := initialClass l.info.groups

/-- Contexts per core of a class at a grant (R27). -/
def contextsAt (c : CoreClass) (lg : Nat) (deep : Bool) : Nat :=
  match c with
  | .vector => if lg = 11 then 1 else if lg = 10 then 2 else if deep then 4 else 8
  | .tensor => if lg = 9 then 2 else 0
  | .control => 4
  | .none => 0

/-- Enabled pods of a die. -/
def State.podsOn (s : State) (d : Nat) : Nat :=
  if h : d < 9 then popcount (s.mod.pods[d]).toNat 48 else 0

/-- Whether a die is one of a class's, enabled in a partition and named by an affinity mask. -/
def State.dieServes (s : State) (p : PartId) (affin : BitVec 16) (c : CoreClass) (d : Nat) : Bool :=
  s.dieOn p d && affin.getLsbD d && decide (coreClass (dieFirstCore d) = c) && decide (d < 8) && decide (0 < s.podsOn d)

/-- Dies of a class in a partition and an affinity mask. -/
def State.classDies (s : State) (p : PartId) (affin : BitVec 16) (c : CoreClass) : List Nat :=
  (List.range 8).filter fun d => s.dieServes p affin c d

/-- Entries that a configured endpoint table offers, 1 without a table (R41). -/
def tableCount (t : List Endpoint) : Nat := if t.isEmpty then 1 else (t.filter fun e => e.valid).length

/-- Instances of physical level k − 1 in one of level k (R41). Pods of a die are the most that a die of the class has, where its dies
differ (DESIGN CHOICE, log 166). -/
def State.stepCapacity (s : State) (p : PartId) (affin : BitVec 16) (c : CoreClass) (lg : Nat) (deep : Bool) (k : Nat) : Nat :=
  match k with
  | 2 => contextsAt c lg deep
  | 3 => 16
  | 4 => ((s.classDies p affin c).map s.podsOn).foldl max 0
  | 5 => (s.classDies p affin c).length
  | 6 => tableCount (s.part p).node
  | 7 => tableCount (s.part p).rack
  | _ => 1

/-- Instances of level q in one of level k. -/
def State.capacity (s : State) (p : PartId) (affin : BitVec 16) (c : CoreClass) (lg : Nat) (deep : Bool) (q k : Nat) : Nat :=
  product (((List.range (k + 1)).drop (q + 1)).map (s.stepCapacity p affin c lg deep))

/-! ### Packages (R41, R422; log 22) -/

/-- Index of the node that levels lo to hi − 1 of a tree lead to, among its siblings beneath one node of level hi. -/
def indexWithin (t : List Level) (idx : List Nat) (lo hi : Nat) : Nat :=
  (((t.zip idx).take hi).drop lo).foldr (fun (l, i) k => k * l.count + i) 0

/-- The endpoint of the package that holds a member, none for this package. -/
def State.endpointOf (s : State) (p : PartId) (l : Launch) (idx : List Nat) : Option Endpoint :=
  let t := l.info.tree
  let within := (t.takeWhile fun v => decide (v.bound.toNat ≤ 5)).length
  if within = t.length then none
  else
    let nodes := (t.takeWhile fun v => decide (v.bound.toNat ≤ 6)).length
    let lo := within - 1
    let below := match t[lo]? with
      | some v => if within = 0 then 1 else v.bound.toNat
      | none => 1
    let per := max 1 (s.capacity p l.info.affin l.cls l.lgG0 l.info.deep below 5)
    let part := s.part p
    let cap := max 1 (tableCount part.node)
    let (n, k) :=
      if within < nodes then
        (if nodes = t.length then selfIndex part.rack else indexWithin t idx (nodes - 1) (t.length - 1),
          indexWithin t idx lo (nodes - 1) / per)
      else
        let q := indexWithin t idx lo (t.length - 1) / per
        (q / cap, q % cap)
    let absent : Endpoint := { valid := false, ports := 0, isSelf := false, packages := 0, address := 0 }
    if !part.rack.isEmpty && decide (n ≠ selfIndex part.rack) then
      -- package k of the node: its prefix + k
      some ((((part.rack[n]?).filter fun e => decide (k < e.packages.toNat)).map fun e => { e with address := e.address + BitVec.ofNat 128 k }).getD absent)
    else if !part.node.isEmpty && decide (k ≠ selfIndex part.node) then some ((part.node[k]?).getD absent)
    else none

/-- The lowest-numbered port of an endpoint whose link is up (R423). -/
def State.portTo (s : State) (e : Endpoint) : Option (BitVec 3) :=
  ((List.range 8).find? fun n => e.valid && e.ports.getLsbD n && s.mod.ueUp.getLsbD n).map (BitVec.ofNat 3)

/-! ### Collective groups (R219 to R221) -/

/-- A set bit of a bitmap, by its rank. -/
def nthBit (m : BitVec 64) (r : Nat) : Nat := (((List.range 64).filter fun i => m.getLsbD i)[r]?).getD 0

/-- The members of the current thread's group as dense numbers by rank: first member and count, or, for a domain, the
parent's dense index, the bitmap and the threads of one sibling; none where R220 makes it illegal. -/
inductive GroupOf where
  | node (first members : Nat)
  | domain (parent fanout : Nat) (map : BitVec 64) (each : Nat)

def GroupOf.size : GroupOf → Nat
  | .node _ m => m
  | .domain _ _ map each => popcount map.toNat 64 * each

def GroupOf.member : GroupOf → Nat → Nat
  | .node first _, r => first + r
  | .domain parent fanout map each, r => (parent * fanout + nthBit map (r / each)) * each + r % each

/-- The group of the current thread (R219). -/
def State.group (s : State) (l : Launch) : Option GroupOf :=
  let t := l.info.tree
  let g := s.th.arch.vcgroup
  let h := s.height (g.extractLsb' 0 5) t.length
  let idx := widFields t s.th.wid.toNat
  if !g.getLsbD 8 then
    some (.node ((if h = t.length then 0 else denseIndex t idx h) * membersAt t h) (membersAt t h))
  else if h = 0 then none
  else
    match (t[h - 1]?).bind fun v => (v.domains[(g.extractLsb' 5 3).toNat]?).map fun m => (v, m) with
    | none => none
    | some (v, m) =>
      if m.getLsbD (idx.getD (h - 1) 0) then
        some (.domain (if h = t.length then 0 else denseIndex t idx h) v.count m (membersAt t (h - 1)))
      else none

/-- The endpoint of the package that owns an address for a group-qualified instruction, none for this package. -/
def State.ownerOf (s : State) (a : BitVec 64) : Option Endpoint :=
  if s.th.arch.vcgroup.extractLsb' 0 5 = 0 then none
  else
    match s.myLaunch, s.myDctx with
    | some l, some d =>
      match s.group l with
      | some g =>
        let rank := a.toNat / s.th.arch.vcstride.toNat % max 1 g.size
        s.endpointOf d.part l (indicesOf l.info.tree (g.member rank))
      | none => none
    | _, _ => none

/-- The trap of a collective memory form at issue, if any (R220). -/
def State.groupTrap (s : State) (i : Instr) (combine : Bool) : Option Trouble :=
  let a := s.th.arch
  if combine && (decide (a.vcop.extractLsb' 4 4 ≠ a.vform) || (decide (3 ≤ (a.vcop.extractLsb' 0 4).toNat) && (formFmt a.vform).isSome)) then
    some (illegalTrap i)
  else if a.vcgroup.extractLsb' 0 5 = 0 then none
  else if (s.myLaunch.bind fun l => s.group l).isNone then some (illegalTrap i)
  else if a.vcstride = 0 then some (illegalTrap i)
  else if a.vcstride.toNat % 48 ≠ 0 then some (.trap 0x04 (a.vcstride.setWidth 64) 0)
  else none

end Sys2Proof.Machine
end

