-- ==== Sys2Proof/Machine/VectorMem.lean ====
section
/-! DEFINITION. Vector memory (R201 to R204), gather and scatter (R222, R223), remote combining and its application at
the homes (R224 to R227), segments (R228 to R230), and snowline stalls (R62, R106 to R108). On a vector core a fault
leaves nothing of an instruction; on a tensor core the units below the stopping one stay, and `vresume` names it. -/

namespace Sys2Proof.Machine

/-- A unit of a vector memory instruction: element or segment index, address, bytes. -/
abbrev MemUnit := Nat × BitVec 64 × Nat

/-- The unit from which the current thread executes (R203). -/
def State.resumeUnit (s : State) : Nat := if s.th.cls = .tensor then s.th.arch.vresume.toNat else 0

/-- Active units still to be done. -/
def State.todo (s : State) (us : List MemUnit) : List MemUnit := us.filter fun u => decide (s.resumeUnit ≤ u.1)

def State.setResume (s : State) (n : Nat) : State :=
  { s with th := { s.th with arch := { s.th.arch with vresume := BitVec.ofNat 9 n } } }

/-- A vector memory instruction completes: `vresume` clears on a tensor core. -/
def State.clearResume (s : State) : State := if s.th.cls = .tensor then s.setResume 0 else s

/-! ### Snowlines (R62, R107) -/

/-- What governs an instruction: watermark W, base, log2 of the element size, the word's address and spans. -/
structure Snow where
  mark : Nat
  base : BitVec 64
  esz  : Nat
  addr : BitVec 64
  span : List Span

/-- The slot's watermark word, and its base, for a governed load with a unit to do. The base is read once, when the load issues:
a load that executes again after a stall keeps the one that it has read (R62). -/
def State.readSnow (s : State) (us : List MemUnit) : Except Trouble (Option Snow × State) :=
  if s.th.arch.vsnow = 0 ∨ us.isEmpty then .ok (none, s)
  else
    let x := s.th.arch.snowb[(s.th.arch.vsnow.toNat - 1) % 8]'(Nat.mod_lt _ (by decide))
    let a := va56 (x.setWidth 56)
    match s.readC a 8 false with
    | .error e => .error e
    | .ok (w, sp) =>
      let s1 := s.afterRead a 8 sp
      let snow (b : BitVec 64) : Snow := { mark := w, base := b, esz := (x.extractLsb' 56 2).toNat, addr := a, span := sp }
      if s.th.onSnowline then .ok (some (snow s.th.snowBase), s1)
      else
        match s1.readC (a + 8) 8 false with
        | .error e => .error e
        | .ok (b, sp2) => .ok (some (snow (BitVec.ofNat 64 b)), s1.afterRead (a + 8) 8 sp2)

/-- Whether a unit whose last governing byte lies at an address must stall (R107). -/
def Snow.stalls (w : Snow) (a : BitVec 64) : Bool :=
  !(decide (a.toNat < w.base.toNat) || decide ((a.toNat - w.base.toNat) / 2 ^ w.esz < w.mark))

/-- The event of a governed load (R377). -/
def Snow.item (w : Snow) : EventItem := eventItem 4 1 0 w.addr w.span w.mark 0

/-- Core cycles that a load has stalled, counted when it goes on (R411). -/
def State.countStall (s : State) : State :=
  match s.th.stalledAt with
  | some (t, true) => s.bumpCore 0x30 ((s.lcc - t) / coreRatio s.th.core.toNat)
  | _ => s

/-! ### Loads -/

/-- Reads units in ascending order, each atomic as u says: the values read, the state, and the unit that stopped, with why. The
byte that a snowline compares lies `last` bytes into a unit. -/
def loadUnits (u : Units) (snow : Option Snow) (last : Nat) : State → List MemUnit → State × List (Nat × Nat) × Option (Nat × Trouble)
  | s, [] => (s, [], none)
  | s, (i, a, n) :: t =>
    if (match snow with
      | some w => w.stalls (a + BitVec.ofNat 64 last)
      | none => false) then (s, [], some (i, .wait .snowline))
    else
      match s.readUnits u a n true i with
      | .error e => (s, [], some (i, e))
      | .ok (v, sp) =>
        let (s1, vs, stop) := loadUnits u snow last (s.afterUnits u a n sp) t
        (s1, (i, v) :: vs, stop)

/-- A load whose values `put` writes to its destination: `put none` completes it, `put (some i)` writes the units done when
it stops at unit i. -/
def loadUnitsBody (u : Units) (us : List MemUnit) (governed : Bool) (last : Nat) (put : Option Nat → List (Nat × Nat) → State → State) (s : State) :
    Effect :=
  let us := s.todo us
  match (if governed then s.readSnow us else .ok (none, s)) with
  | .error e => .trouble s e none
  | .ok (snow, s1) =>
    let (s2, vals, stop) := loadUnits u snow last s1 us
    match stop with
    | some (i, e) =>
      if s.th.cls = .tensor then .trouble ((put (some i) vals s2).setResume i) e (some i)
      else .trouble (if e = .wait .snowline then s1 else s) e (some i)
    | none =>
      let items := (snow.map fun w => w.item).toList
      match (if items.isEmpty then .ok () else s.allowEvent items) with
      | .error e => .trouble s e none
      | .ok _ =>
        let s3 := (put none vals s2.countStall).clearResume
        .next (if items.isEmpty then s3 else s3.deferEvent items)

/-- Writes loaded elements (R178, R203): what this execution did, from the unit it resumed at to the unit it stopped at,
if it stopped; with z that range is zero where nothing was loaded. Elements outside the range keep their bits. -/
def putLoaded (d : BitVec 6) (z : BitVec 1) (stop : Option Nat) (vals : List (Nat × Nat)) (s : State) : State :=
  let (v, m) := assemble s.w (s.lanes.map fun i => (vals.find? fun v => decide (v.1 = i)).map (·.2))
  let range := 2 ^ ((stop.map (· * s.w)).getD 2048) - 2 ^ (s.resumeUnit * s.w)
  s.putVBits d v (if z = 1 then m ||| range else m)

def vloadBody (i : Instr) (d : BitVec 6) (z : BitVec 1) (governed : Bool) (s : State) : Effect :=
  loadUnitsBody .natural (s.units i) governed 0 (putLoaded d z) s

def execVld (d : BitVec 6) (b : BitVec 5) (p : BitVec 3) (z n : BitVec 1) (s : State) : Step :=
  issue (.vld d b p z n) s (vloadBody (.vld d b p z n) d z true)
def execVlds (d : BitVec 6) (b r : BitVec 5) (p : BitVec 3) (z n : BitVec 1) (s : State) : Step :=
  issue (.vlds d b r p z n) s (vloadBody (.vlds d b r p z n) d z true)

/-- VLDF (R204): a translation or permission failure after the first active element trims `vcount`. -/
def vldfBody (i : Instr) (d : BitVec 6) (z : BitVec 1) (s : State) : Effect :=
  let all := s.units i
  let us := s.todo all
  match s.readSnow us with
  | .error e => .trouble s e none
  | .ok (snow, s1) =>
    let (s2, vals, stop) := loadUnits .natural snow 0 s1 us
    let first := match all with
      | u :: _ => u.1
      | [] => 0
    let complete (s3 : State) : Effect :=
      let items := (snow.map fun w => w.item).toList
      match (if items.isEmpty then .ok () else s.allowEvent items) with
      | .error e => .trouble s e none
      | .ok _ =>
        let s4 := (putLoaded d z none vals s3).clearResume
        .next (if items.isEmpty then s4 else s4.deferEvent items)
    match stop with
    | none => complete s2.countStall
    | some (k, .fail r a w f t) =>
      if k = first then
        .trouble (if s.th.cls = .tensor then (putLoaded d z (some k) vals s2).setResume k else s) (.fail r a w f t) (some k)
      else
        complete ({ s2 with th := { s2.th with arch := s2.th.arch.setVcount k } }).countStall
    | some (k, e) =>
      if s.th.cls = .tensor then .trouble ((putLoaded d z (some k) vals s2).setResume k) e (some k)
      else .trouble (if e = .wait .snowline then s1 else s) e (some k)

def execVldf (d : BitVec 6) (b : BitVec 5) (p : BitVec 3) (z n : BitVec 1) (s : State) : Step :=
  issue (.vldf d b p z n) s (vldfBody (.vldf d b p z n) d z)

/-! ### Stores -/

/-- Writes units in ascending order: the state, the L-page items, and the unit that stopped, with why. -/
def storeUnits (op : Nat) (bytes : MemUnit → List (BitVec 8)) :
    State → List MemUnit → State × List EventItem × Option (Nat × Trouble)
  | s, [] => (s, [], none)
  | s, (i, a, n) :: t =>
    match s.checkC a n false true true i with
    | .error e => (s, [], some (i, e))
    | .ok sp =>
      let bs := bytes (i, a, n)
      let item : EventItem :=
        { type := 8, op := op, elem := i, va := a, object := objectOf sp, digest := digest (s.spanBytes sp) bs }
      let (s1, items, stop) := storeUnits op bytes (s.storeSpans a sp bs) t
      (s1, if onLPage sp then item :: items else items, stop)

/-- Whether a unit of a store touches an L page. -/
def State.anyOnL (s : State) (us : List MemUnit) : Bool :=
  us.any fun (i, a, n) => match s.checkAccess a n false true false i with
    | .ok sp => onLPage sp
    | .error _ => false

/-- Clears the poison of the sectors that the elements of one vector store cover together (R344). -/
def State.clearCovered (s : State) (us : List MemUnit) : State :=
  if s.poison.isEmpty then s
  else
    let runs := us.flatMap fun (i, a, n) => match s.checkAccess a n false true false i with
      | .ok sp => sp.map fun x => (x.key, x.len)
      | .error _ => []
    let covered (q : Nat) : Bool := (List.range 48).all fun b => runs.any fun (k, n) => decide (k ≤ 48 * q + b) && decide (48 * q + b < k + n)
    { s with poison := s.poison.filter fun q => !covered q }

/-- A store. With `keep`, the units below a fault stay on a vector core as well (R230), with their records; those that an earlier
execution of the event made are not made again. -/
def storeUnitsBody (us : List MemUnit) (op : Nat) (bytes : MemUnit → List (BitVec 8)) (keep : Bool) (s : State) : Effect :=
  let (s0, items, stop) := storeUnits op bytes s (s.todo us)
  let s1 := if keep then s0 else s0.clearCovered ((s.todo us).takeWhile fun u => decide (stop.map (·.1) ≠ some u.1))
  let left := if keep then items.drop s.th.segmentsDone else items
  match stop with
  | some (i, e) =>
    if s.th.cls = .tensor then
      match s.allowEvent items true with
      | .error w => .trouble s w none
      | .ok _ => .trouble ((s1.commitPart items).setResume i) e (some i)
    else if keep && !left.isEmpty then
      match s.allowEvent left true with
      | .error w => .trouble s w none
      | .ok _ =>
        let s2 := s1.commitPart left
        .trouble { s2 with th := { s2.th with segmentsDone := s2.th.segmentsDone + left.length } } e (some i)
    else .trouble (if keep then s1 else s) e (some i)
  | none =>
    if s.anyOnL us then
      match s.allowEvent left with
      | .error w => .trouble s w none
      | .ok _ => .next (s1.commitNow left).clearResume
    else .next s1.clearResume

/-- The bytes of the element of vn that a unit stores. -/
def State.elemBytes (s : State) (n : BitVec 6) (u : MemUnit) : List (BitVec 8) := leBytes (s.w / 8) (s.elem n u.1)

def vstoreBody (i : Instr) (y : BitVec 6) (s : State) : Effect := storeUnitsBody (s.units i) 1 (s.elemBytes y) false s

def execVst (y : BitVec 6) (b : BitVec 5) (p : BitVec 3) (z n : BitVec 1) (s : State) : Step :=
  issue (.vst y b p z n) s (vstoreBody (.vst y b p z n) y)
def execVsts (y : BitVec 6) (b r : BitVec 5) (p : BitVec 3) (z n : BitVec 1) (s : State) : Step :=
  issue (.vsts y b r p z n) s (vstoreBody (.vsts y b r p z n) y)

/-! ### Elements on their way to another package (R221, R423) -/

/-- An element that leaves the package. -/
def State.awayElem (s : State) (e : Endpoint) (u : MemUnit) (op : Nat) (value issued : Nat) (tag : Option (BitVec 16)) : RemoteElem :=
  { handle := s.th.handle, pc := s.th.arch.pc, core := s.th.core, dc := handleDctx s.th.handle, runs := [], va := u.2.1
    index := u.1, bytes := u.2.2, op := BitVec.ofNat 4 op, fmt := s.th.arch.vform, value := value, tag := tag, home := 15
    port := s.portTo e, dest := e.address, left := s.lcc, issued := issued, verdict := none, event := none, refused := none }

/-- Sends elements off: they join those under way and the thread's outstanding reports. -/
def State.send (s : State) (es : List RemoteElem) : State :=
  { s with remote := s.remote ++ es, th := { s.th with remoteOut := s.th.remoteOut + es.length } }

/-- Runs of bytes with one owner, as offset, length and owner, of bytes whose owners are listed from an offset on. -/
def ownerRuns (k : Nat) : List (Option Endpoint) → List (Nat × Nat × Option Endpoint)
  | [] => []
  | o :: t =>
    match ownerRuns (k + 1) t with
    | (j, n, q) :: r => if q = o then (k, n + 1, o) :: r else (k, 1, o) :: (j, n, q) :: r
    | [] => [(k, 1, o)]

/-- The parts of a unit that lie in chunks of one owner each (R221: the chunk of a byte decides its owner). -/
def State.ownedParts (s : State) (u : MemUnit) : List (MemUnit × Option Endpoint) :=
  (ownerRuns 0 ((List.range u.2.2).map fun j => s.ownerOf (u.2.1 + BitVec.ofNat 64 j))).map fun (k, n, o) =>
    ((u.1, u.2.1 + BitVec.ofNat 64 k, n), o)

/-- The parts of units that this package's memory serves, and the others with their endpoints. -/
def State.splitOwners (s : State) (us : List MemUnit) : List MemUnit × List (MemUnit × Endpoint) :=
  let parts := us.flatMap s.ownedParts
  (parts.filterMap fun (u, o) => if o.isNone then some u else none, parts.filterMap fun (u, o) => o.map fun e => (u, e))

/-- The elements of a combining form with their owners. An element is updated whole by the package that owns its first
byte, also where it runs into a chunk of another: an update of one location by two packages is nothing the rules describe
(DESIGN CHOICE, log 143). -/
def State.firstOwners (s : State) (us : List MemUnit) : List MemUnit × List (MemUnit × Endpoint) :=
  (us.filter fun u => (s.ownerOf u.2.1).isNone, us.filterMap fun u => (s.ownerOf u.2.1).map fun e => (u, e))

/-- Bit offset of a part within its element. -/
def partShift (us : List MemUnit) (u : MemUnit) : Nat :=
  match us.find? fun x => decide (x.1 = u.1) with
  | some x => 8 * (u.2.1 - x.2.1).toNat
  | none => 0

/-- Values of elements put together from those of their parts. -/
def joinParts (us : List MemUnit) (parts : List (MemUnit × Nat)) : List (Nat × Nat) :=
  us.map fun x => (x.1, ((parts.filter fun q => decide (q.1.1 = x.1)).map fun q => q.2 <<< partShift us q.1).foldl (· ||| ·) 0)

/-! ### VGATH and VSCAT (R222, R223) -/

/-- VGATH: bytes that another package answers have the value that it sends, which nothing here fixes (log 20). A load that
stops at an element has loaded those below it. -/
def vgathBody (i : Instr) (d : BitVec 6) (z : BitVec 1) (s : State) : Effect :=
  match s.groupTrap i false with
  | some t => .trouble s t none
  | none =>
    if s.th.arch.vcgroup.extractLsb' 0 5 = 0 then vloadBody i d z true s
    else
      let us := s.todo (s.units i)
      let (here, away) := s.splitOwners us
      let put (stop : Option Nat) (vals : List (Nat × Nat)) (s1 : State) : State :=
        let done (k : Nat) : Bool := match stop with
          | some i => decide (k < i)
          | none => true
        let far := away.filter fun (u, _) => done u.1
        let sent := far.map fun (u, _) => (u, (Config.openField 3 s.tick (partShift us u + 64 * u.1)).toNat % 2 ^ (8 * u.2.2))
        let got := here.zip (vals.map (·.2))
        (putLoaded d z stop (joinParts (us.filter fun u => done u.1) (got ++ sent)) s1).send
          (far.map fun (u, e) => s.awayElem e u 15 0 far.length none)
      loadUnitsBody .natural here false 0 put s

def execVgath (d : BitVec 6) (b : BitVec 5) (x : BitVec 6) (p : BitVec 3) (z c : BitVec 1) (s : State) : Step :=
  issue (.vgath d b x p z c) s (vgathBody (.vgath d b x p z c) d z)

/-- VSCAT: bytes of this package are stored; the others leave as writes. -/
def vscatBody (i : Instr) (y : BitVec 6) (s : State) : Effect :=
  match s.groupTrap i false with
  | some t => .trouble s t none
  | none =>
    if s.th.arch.vcgroup.extractLsb' 0 5 = 0 then vstoreBody i y s
    else
      let us := s.todo (s.units i)
      let (here, away) := s.splitOwners us
      let part (u : MemUnit) : Nat := s.elem y u.1 >>> partShift us u % 2 ^ (8 * u.2.2)
      let send (far : List (MemUnit × Endpoint)) (t : State) : State :=
        t.send (far.map fun (u, e) => s.awayElem e u 14 (part u) far.length none)
      match storeUnitsBody here 1 (fun u => leBytes u.2.2 (part u)) false s with
      | .next s1 => .next (send away s1)
      | .trouble s1 e (some k) =>
        if s.th.cls = .tensor then .trouble (send (away.filter fun (u, _) => decide (u.1 < k)) s1) e (some k)
        else .trouble s1 e (some k)
      | e => e

def execVscat (y : BitVec 6) (b : BitVec 5) (x : BitVec 6) (p : BitVec 3) (z c : BitVec 1) (s : State) : Step :=
  issue (.vscat y b x p z c) s (vscatBody (.vscat y b x p z c) y)

/-! ### VSCADD and VRDST (R224 to R226) -/

/-- Translation of an element that a home updates: read and write permission, no precise watchpoint (R400), and no
poison consumed by the thread (R344). -/
def State.checkR (s : State) (a : BitVec 64) (n : Nat) (nth : Nat := 0) : Except Trouble (List Span) :=
  match s.myDctx with
  | none => .error .noContext
  | some d => s.translate d { s.coreAccess true true with nth := nth } a n

/-- The checked elements of this package in ascending order, or the first that fails. -/
def State.checkUnitsR (s : State) : List MemUnit → Except (Nat × Trouble) (List (MemUnit × List Span))
  | [] => .ok []
  | (i, a, n) :: t =>
    match s.checkR a n i with
    | .error e => .error (i, e)
    | .ok sp =>
      match s.checkUnitsR t with
      | .error e => .error e
      | .ok r => .ok (((i, a, n), sp) :: r)

/-- The item of a remote element, whose digest is its home's to compute. -/
def remoteItem (tag : Option (BitVec 16)) (u : MemUnit) (sp : List Span) (value : Nat) : EventItem :=
  eventItem 1 (if tag.isSome then 14 else 13) u.1 u.2.1 sp 0 value

/-- VSCADD and VRDST: every element of this package is checked, then all leave. The event counts at issue; its records
are the homes' (R377). An element's home, for its tag and its counters too, is that of its first byte's frame, where it spans two (DESIGN
CHOICE, log 167). -/
def combineBody (i : Instr) (y : BitVec 6) (tag : Option (BitVec 16)) (s : State) : Effect :=
  match s.groupTrap i true with
  | some t => .trouble s t none
  | none =>
    let us := s.units i
    let (here, away) := s.firstOwners us
    match s.checkUnitsR here with
    | .error (k, e) => .trouble (if s.th.cls = .tensor then s.setResume k else s) e (some k)
    | .ok checked =>
      match (if us.isEmpty then .ok () else s.allowEvent (checked.map fun (u, sp) => remoteItem tag u sp (s.elem y u.1)) (k := 0)) with
      | .error e => .trouble s e none
      | .ok _ =>
        let event := if s.th.sup.level then none else some s.th.eventNumber
        let op := (s.th.arch.vcop.extractLsb' 0 4).toNat
        let mine := checked.map fun (u, sp) =>
          ({ handle := s.th.handle, pc := s.th.arch.pc, core := s.th.core, dc := handleDctx s.th.handle
             runs := sp.map fun x => (x.key, x.len), va := u.2.1, index := u.1, bytes := u.2.2, op := BitVec.ofNat 4 op
             fmt := s.th.arch.vform, value := s.elem y u.1, tag := tag, home := BitVec.ofNat 4 (s.cellHome (firstKey sp))
             port := none, left := s.lcc, issued := us.length, verdict := none, event := event, refused := none } : RemoteElem)
        let others := away.map fun (u, e) => s.awayElem e u op (s.elem y u.1) us.length tag
        let s1 := (s.send (mine ++ others)).clearResume
        .next (if us.isEmpty then s1 else s1.commitNow [])

def execVscadd (y : BitVec 6) (b : BitVec 5) (x : BitVec 6) (p : BitVec 3) (z c : BitVec 1) (s : State) : Step :=
  issue (.vscadd y b x p z c) s (combineBody (.vscadd y b x p z c) y none)
def execVrdst (y : BitVec 6) (b t : BitVec 5) (p : BitVec 3) (z : BitVec 1) (s : State) : Step :=
  issue (.vrdst y b t p z) s fun s => combineBody (.vrdst y b t p z) y (some ((s.g t).setWidth 16)) s

/-! ### HOME_COMBINE (R224, R225, R227) -/

/-- The new value of an update by operator and format codes. -/
def combineResult (op fmt : BitVec 4) (w old x : Nat) : Nat :=
  match formFmt fmt with
  | some f =>
    match op.toNat with
    | 0 => (fpAdd f .rne old x).1
    | 1 => (fpMinMax f false old x).1
    | _ => (fpMinMax f true old x).1
  | none =>
    let less (a b : Nat) : Bool := if formSigned fmt then decide (signed w a < signed w b) else decide (a < b)
    match op.toNat with
    | 0 => (old + x) % 2 ^ w
    | 1 => if less x old then x else old
    | 2 => if less old x then x else old
    | 3 => old &&& x
    | 4 => old ||| x
    | _ => old ^^^ x

/-- What a home decides for a tag: apply or drop, the die counter that grows, and the tag state after it (R227). -/
def TagState.judge (t : TagState) (tag : BitVec 16) : Bool × Option Nat × TagState :=
  let ahead := (tag - t.latest).toNat
  let behind := (t.latest - tag).toNat
  if 1 ≤ ahead ∧ ahead ≤ 32767 then (true, none, { t with latest := tag, marks := (t.marks <<< ahead) ||| 1 })
  else if behind < 4096 then
    if t.marks.getLsbD behind then (false, some 0x08, t) else (true, none, { t with marks := t.marks ||| (1 <<< behind) })
  else (true, some 0x10, t)

/-- Whether the home can create state for a new source; nothing in the rules bounds it, and the answer is free (log 10). -/
def State.tagRoom (s : State) : Bool := !Config.pick s.tick 1000

/-- The decision of a home for a tag of a source, its launch and WID (R227): apply or drop, with the counters. -/
def State.judgeTag (s : State) (launch : BitVec 10) (wid : BitVec 64) (home : BitVec 4) (tag : BitVec 16) : State × Bool :=
  let mine (t : TagState) : Bool := decide (t.launch = launch) && decide (t.wid = wid) && decide (t.home = home)
  match s.tags.find? mine with
  | some t =>
    let (v, counter, t') := t.judge tag
    let s1 := match counter with
      | some off => s.bumpDie home.toNat off 1
      | none => s
    ({ s1 with tags := s1.tags.map fun x => if mine x then t' else x }, v)
  | none =>
    if s.tagRoom then
      ({ s with tags := s.tags ++ [{ launch := launch, wid := wid, home := home, latest := tag, marks := 1 }] }, true)
    else (s.bumpDie home.toNat 0x18 1, true)

/-- The decision for an element's tag at its home, made for the first element of its instruction there and noted for the
others. -/
def State.decideTag (s : State) (e : RemoteElem) : State × Bool :=
  match e.tag, e.verdict with
  | none, _ => (s, true)
  | some _, some v => (s, v)
  | some tag, none =>
    let wid := match s.thread? e.handle with
      | some t => t.wid
      | none => 0
    let (s1, v) := s.judgeTag (handleLaunch e.handle) wid e.home tag
    ({ s1 with remote := s1.remote.map fun x =>
        if x.handle = e.handle ∧ x.left = e.left ∧ x.home = e.home then { x with verdict := some v } else x }, v)

/-- Records of one element at its home. -/
def elementRecord (e : RemoteElem) (bs : List (BitVec 8)) : Bool :=
  homeRecord bs && decide (fieldAt bs 8 8 = (e.event.getD 0).toNat) && decide (fieldAt bs 2 2 = e.index % 2 ^ 16)

/-- A remote element of a list by its place, with the rest of the list. -/
def takeAt : List RemoteElem → Nat → Option (RemoteElem × List RemoteElem)
  | [], _ => none
  | e :: t, 0 => some (e, t)
  | e :: t, n + 1 => (takeAt t n).map fun (x, r) => (x, e :: r)

/-- Whether two elements share a byte. -/
def RemoteElem.overlaps (a b : RemoteElem) : Bool :=
  a.runs.any fun (k, n) => b.runs.any fun (j, m) => decide (k < j + m) && decide (j < k + n)

/-- Whether an element's home may apply it now: an earlier element of its thread on the same bytes comes first, and its
record has room or its turn. -/
def State.combineMay (s : State) (n : Nat) : Bool :=
  match s.remote[n]? with
  | none => false
  | some e =>
    decide (e.home ≠ 15) && !(decide (coreDie e.core.toNat ≠ e.home.toNat) && (s.mod.linksDown.getLsbD (coreDie e.core.toNat) || s.mod.linksDown.getLsbD e.home.toNat)) &&
    !((s.remote.take n).any fun x => decide (x.handle = e.handle) && x.overlaps e) &&
    (match e.event with
     | some _ => s.deviceMay e.handle (elementRecord e) ((e.runs.headD (0, 0)).1 / 48)
     | none => true)

/-- Elements of one instruction of a thread that are under way or were refused. -/
def RemoteElem.of (e : RemoteElem) (h : Handle) (left : Nat) : Bool := decide (e.handle = h) && decide (e.left = left)

/-- Once no element of an instruction is under way, those that were refused are reported in one delivery record (R351). -/
def State.finishRemote (s : State) (h : Handle) (left : Nat) : State :=
  match s.remote.filter fun e => e.of h left with
  | [] => s
  | x :: t =>
    if (x :: t).any fun e => e.refused.isNone then s
    else
      let low := t.foldl (fun (a : RemoteElem) e => if e.va.toNat < a.va.toNat then e else a) x
      let reason := low.refused.getD 0
      let r : FaultRecord :=
        { FaultRecord.plain 0x05 (reasonCause reason) reason h low.va with
          pc := low.pc, elem := BitVec.ofNat 8 (min 255 (t.length + 1)), core := low.tag.getD 0
          item := some (h.toNat, low.issued - (t.length + 1), (low.tag.getD 0).toNat + low.issued % 2 ^ 16 * 2 ^ 32) }
      { s.queueFault low.dc r with remote := s.remote.filter fun e => !e.of h left }

/-- The element at a place has been answered: applied, or refused for a reason. -/
def State.answered (s : State) (n : Nat) (refusal : Option (BitVec 8)) : State :=
  match s.remote[n]? with
  | none => s
  | some e =>
    let rest := match refusal with
      | none => s.remote.eraseIdx n
      | some r => s.remote.set n { e with refused := some r }
    (({ s with remote := rest } : State).modThread e.handle fun t => { t with remoteOut := t.remoteOut - 1 }).finishRemote e.handle e.left

/-- HOME_COMBINE (R224): the home of the element at a place applies it, or drops it by its tag. In replay one that differs from its
record has no effect (R386). -/
def State.combine (s : State) (n : Nat) : State :=
  match s.remote[n]? with
  | none => s
  | some e =>
    let (s1, apply) := s.decideTag e
    let sp : List Span := e.runs.map fun (k, len) => { key := k, len := len, leaf := 0 }
    let old := leNat (s1.spanBytes sp)
    let op := if apply then (if e.tag.isSome then 14 else 13) else 15
    let (s2, agrees) := match e.event with
      | some ev => s1.elementLog e.handle ev (eventItem 1 op e.index e.va sp old e.value) (elementRecord e)
      | none => (s1, true)
    let s3 :=
      if apply && agrees then
        s2.put { cls := 3, ident := BitVec.ofNat 32 (e.core.toNat + coreDie e.core.toNat * 65536), handle := e.handle, dup := false }
          sp (leBytes e.bytes (combineResult e.op e.fmt (8 * e.bytes) old e.value))
      else s2
    let s4 := if apply && agrees && (spanPoison s1.poison sp 0).isSome then
      (s3.bumpDie e.home.toNat 0x20 1).logError 2 e.home.toNat (s3.partCode e.dc) (s3.cellPlace (firstKey sp)).1 0 (s3.cellPlace (firstKey sp)).2 0
    else s3
    s4.answered n none

def execHomeCombine (s : State) : Step :=
  match s.ev with
  | .index n => .next (if s.combineMay n then s.combine n else s)
  | _ => .next s

/-! ### Segments (R228 to R230) -/

/-- Whether a segment type's elements are six-bit. -/
def sixBit (t : BitVec 5) : Bool := decide (t.toNat = 0x0F) || decide (t.toNat = 0x10)

/-- VLDSEG: element bits and scale bytes of the segments read; with z everything else is zeroed at completion. -/
def putSegments (d : BitVec 6) (t : BitVec 5) (z : BitVec 1) (us : List MemUnit) (stop : Option Nat) (vals : List (Nat × Nat)) (s : State) : State :=
  let eb := (segBytes t).1
  let done := us.filter fun u => decide (u.1 < s.resumeUnit)
  let bitsAt (sel : Nat → Nat) (width : Nat) (cur : Nat) : Nat × Nat :=
    let read := vals.foldl (fun (a : Nat × Nat) (k, v) =>
      (a.1 ||| (sel v % 2 ^ width) <<< (k * width), a.2 ||| (2 ^ width - 1) <<< (k * width))) (0, 0)
    -- units of an earlier execution keep what they loaded
    done.foldl (fun (a : Nat × Nat) u => (a.1 ||| (bitsOf cur (u.1 * width) width) <<< (u.1 * width), a.2 ||| (2 ^ width - 1) <<< (u.1 * width))) read
  let (dv, dm) := bitsAt id (8 * eb) (s.vReg d)
  let (sv, sm) := bitsAt (· >>> (8 * eb)) 8 (s.vReg (d + 1))
  let all := 2 ^ 2048 - 1
  if stop.isNone ∧ z = 1 then (s.putVBits d dv all).putVBits (d + 1) sv all else (s.putVBits d dv dm).putVBits (d + 1) sv sm

def execVldseg (d : BitVec 6) (b t : BitVec 5) (p : BitVec 3) (z : BitVec 1) (s : State) : Step :=
  issue (.vldseg d b t p z) s fun s =>
    let i := Instr.vldseg d b t p z
    if segCount s.th.lgG t = 0 then .trouble s (illegalTrap i) none
    else loadUnitsBody .whole (s.units i) true ((segBytes t).2 - 1) (putSegments d t z (s.units i)) s

/-- The bytes that VSTSEG writes for the segment of a unit. -/
def State.segmentBytes (s : State) (y : BitVec 6) (t : BitVec 5) (u : MemUnit) : List (BitVec 8) :=
  let (eb, size) := segBytes t
  let k := u.1
  let elems := leBytes eb (bitsOf (s.vReg y) (k * 8 * eb) (8 * eb))
  (if sixBit t then elems.map (· &&& 0x3F) else elems) ++ [BitVec.ofNat 8 (bitsOf (s.vReg (y + 1)) (8 * k) 8)] ++ zeros (size - eb - 1)

/-- The poison of the words that active segments read (R345). -/
def State.segmentPoison (s : State) (y : BitVec 6) (t : BitVec 5) (us : List MemUnit) : Option Trouble :=
  let eb := (segBytes t).1
  match s.vPoison y (us.flatMap fun u => (List.range (eb / 8)).map fun j => u.1 * eb / 8 + j) with
  | some e => some e
  | none => s.vPoison (y + 1) (us.map fun u => u.1 / 8)

def execVstseg (y : BitVec 6) (b t : BitVec 5) (p : BitVec 3) (z : BitVec 1) (s : State) : Step :=
  issue (.vstseg y b t p z) s fun s =>
    let i := Instr.vstseg y b t p z
    let us := s.units i
    if segCount s.th.lgG t = 0 then .trouble s (illegalTrap i) none
    else
      match s.segmentPoison y t (s.todo us) with
      | some e => .trouble s e none
      | none => storeUnitsBody us 3 (s.segmentBytes y t) true s

/-! ### SNOWLINE_RELEASE (R107) -/

/-- A load stalled on a snowline executes again; it goes on past every element that the watermark now exceeds. -/
def execSnowlineRelease (s : State) : Step :=
  match s.th.wait with
  | some { kind := .snowline, instr := i } =>
    match i with
    | .vld d b p z n => issue (.vld d b p z n) s (vloadBody i d z true)
    | .vlds d b r p z n => issue (.vlds d b r p z n) s (vloadBody i d z true)
    | .vldf d b p z n => issue (.vldf d b p z n) s (vldfBody i d z)
    | .vgath d b x p z c => issue (.vgath d b x p z c) s (vgathBody i d z)
    | .vldseg d b t p z => issue (.vldseg d b t p z) s (loadUnitsBody .whole (s.units i) true ((segBytes t).2 - 1) (putSegments d t z (s.units i)))
    | _ => .next s
  | _ => .next s

end Sys2Proof.Machine
end

