-- ==== Sys2Proof/Machine/Tensor.lean ====
section
/-! DEFINITION. Group T: névé operands and their staging, wait counts and the checking scoreboard, the accumulator row
schedule, the multiply forms, accumulator forms and tile memory forms (R231 to R255). -/

namespace Sys2Proof.Machine

/-! ### Units, wait counts and the scoreboard (R231, R243 to R246) -/

/-- Core cycle of the current thread's core. -/
def State.coreCycle (s : State) : Nat := s.lcc / coreRatio s.th.core.toNat

def isMultiply (i : Instr) : Bool :=
  match i with
  | .tmma .. | .tmmagM .. | .tmmagK .. | .tmmas .. => true
  | _ => false

/-- The unit that serves a T instruction: 0 matrix, 1 accumulator, 2 transfer. -/
def tileUnit (i : Instr) : Nat :=
  match i with
  | .tzero .. | .tacc .. | .tadda .. => 1
  | _ => if isMultiply i then 0 else 2

/-- Whether no running instruction of the core holds a unit. -/
def State.unitFree (s : State) (u : Nat) : Bool :=
  s.threads.all fun t => decide (t.core ≠ s.th.core) || t.runs.all fun r => decide (tileUnit r.instr ≠ u)

/-- Whether the wait count of a T or X instruction is met (R244). -/
def State.waitMet (s : State) (w : BitVec 3) : Bool :=
  match s.th.lastTX with
  | none => true
  | some t => decide (t + 16 * w.toNat ≤ s.coreCycle)

/-- Kinds of accumulator access: 0 multiply, 1 rime-2 multiply, 2 TADDA, 3 TACC, 4 TZERO. Required separation from a
producer to a consumer (R245). -/
def separation (producer consumer : Nat) : Nat :=
  match producer with
  | 0 => if consumer = 2 ∨ consumer = 3 then 33 else if consumer = 4 then 64 else 0
  | 1 => if consumer = 2 ∨ consumer = 3 then 97 else if consumer = 4 then 128 else 0
  | 2 => if consumer ≤ 1 then 2 else 0
  | _ => 0

/-- The undersized-stall trap, if the promise to the access on which this one depends falls short: the latest one of the tile, for the
others are ordered before that one (R245, R246; log 72). -/
def State.stallTrap (s : State) (tile : BitVec 3) (kind : Nat) (w : BitVec 3) : Option Trouble :=
  if s.th.arch.tchk = 0 then none
  else
    (s.th.promises.find? fun (t, k, p) => decide (t = tile) && decide (p + 16 * w.toNat < separation k kind)).map fun (_, k, p) =>
      .trap 0x08 (BitVec.ofNat 64 (p + 16 * w.toNat + separation k kind * 65536)) 0

/-- The promises after a T or X instruction issues, with its own access if it makes one: each tile's latest access is kept; one whose
promise has reached 128 meets every separation. -/
def nextPromises (ps : List (BitVec 3 × Nat × Nat)) (w : BitVec 3) (own : Option (BitVec 3 × Nat)) : List (BitVec 3 × Nat × Nat) :=
  let later := (ps.map fun (t, k, p) => (t, k, p + 16 * w.toNat)).filter fun x => decide (x.2.2 < 128)
  match own with
  | none => later
  | some (tile, kind) => (tile, kind, 0) :: later.filter fun (t, _, _) => decide (t ≠ tile)

/-- What every issue of a T or X instruction leaves (R244). -/
def State.notePace (s : State) (w : BitVec 3) (own : Option (BitVec 3 × Nat)) : State :=
  { s with th := { s.th with lastTX := some s.coreCycle, promises := nextPromises s.th.promises w own } }

/-! ### Névé addresses and staging (R233, R234) -/

/-- The illegal-tensor-combination trap (R285). -/
def tileTrap (i : Instr) (addr : BitVec 64) : Trouble := .trap 0x09 (wordOf i) addr

/-- The first cell of a range that lies wholly in the current thread's window, with an aligned base. -/
def State.neveKey (s : State) (a : BitVec 64) (n align : Nat) : Option Nat :=
  match s.windowOf s.th with
  | none => none
  | some (base, size, key) =>
    if a.toNat % align = 0 ∧ base ≤ a.toNat ∧ a.toNat + n ≤ base + size then some (key + (a.toNat - base)) else none

/-- Cells of ranges of n bytes, all of them in the window. -/
def State.neveKeys (s : State) (n align : Nat) : List (BitVec 64) → Option (List (Nat × Nat))
  | [] => some []
  | a :: t =>
    match s.neveKey a n align, s.neveKeys n align t with
    | some k, some ks => some ((k, n) :: ks)
    | _, _ => none

def State.stride (s : State) : Nat := s.th.arch.tstr.toNat

/-- Whether `tstr` serves rows of L bytes. -/
def State.strideOk (s : State) (L : Nat) : Bool := decide (s.stride % 64 = 0) && decide (L ≤ s.stride)

/-- Addresses of rows lo to lo + n − 1 from a base. -/
def State.rowAddrs (s : State) (base : BitVec 64) (lo n : Nat) : List (BitVec 64) :=
  (List.range n).map fun i => base + BitVec.ofNat 64 ((lo + i) * s.stride)

/-- Staging: the bytes of ranges of n, as they stand at issue. -/
def State.stage (s : State) (n : Nat) : List (BitVec 64) → Except Trouble (State × List Nat)
  | [] => .ok (s, [])
  | a :: t =>
    match s.readC a n false with
    | .error e => .error e
    | .ok (v, sp) =>
      match (s.afterRead a n sp).stage n t with
      | .error e => .error e
      | .ok (s1, vs) => .ok (s1, v :: vs)

/-! ### Formats and scales (R236 to R238) -/

/-- Storage bits of an element of a format code. -/
def tileWidth (f : BitVec 4) : Nat :=
  match f.toNat with
  | 4 => 4 | 5 | 6 | 8 => 16 | _ => 8

/-- The floating-point format of a code. -/
def tileFmt (f : BitVec 4) : Fmt :=
  match f.toNat with
  | 0 => .e4m3 | 1 => .e5m2 | 2 => .e3m2 | 3 => .e2m3 | 4 => .e2m1 | 5 => .bf16 | _ => .f16

/-- Whether a format reads scales (R238). -/
def tileScaled (f : BitVec 4) : Bool := decide (f.toNat ≤ 4) || decide (f = 8)

/-- K and the group size of an admitted pair for a dense form (R236, R80); none where the pair is not admitted. -/
def tilePair (fa fb : BitVec 4) : Option (Nat × Nat) :=
  if (fa.toNat ≤ 3 ∧ fb.toNat ≤ 3) ∨ (fa = 7 ∧ fb = 7) then some (256, 32)
  else if fa = fb ∧ (fa = 5 ∨ fa = 6) then some (128, 16)
  else if fa = 4 ∧ fb = 4 then some (512, 64)
  else if fa = 8 ∧ fb.toNat ≤ 1 then some (1024, 256)
  else none

/-- Element k of a row, of width w. -/
def tileElem (row w k : Nat) : Nat := bitsOf row (w * k) w

/-- The exact value of an element with its scale byte (R72, R81). -/
def tileValue (f : BitVec 4) (bits scale : Nat) : FVal :=
  if f = 7 then intVal (signed 8 bits)
  else if f = 5 ∨ f = 6 then (tileFmt f).decode bits
  else mxElem (tileFmt f) scale bits

/-- Scale byte b of a row's scales. -/
def scaleByte (row b : Nat) : Nat := bitsOf row (8 * b) 8

/-- The 256 weights of a rime-2 block of 64 bytes under a scale (R74). -/
def rimeBlock (bits scale : Nat) : List FVal :=
  (List.range 32).flatMap fun c => (List.range 8).map fun j => rimeWeight (bitsOf bits (16 * c) 16) scale j

/-- Unit scales for a row of n blocks. -/
def unitScales (n : Nat) : Nat := leNat (List.replicate n 0x7F)

/-- Scale bytes of rows lo to 31, n for each row, from a pointer (R238). -/
def State.readScales (s : State) (f : BitVec 4) (ptr : BitVec 56) (lo n : Nat) : Except Trouble (State × List Nat) :=
  if !tileScaled f || decide (ptr = 0) then .ok (s, List.replicate (32 - lo) (unitScales n))
  else
    let a := va56 ptr + BitVec.ofNat 64 (lo * n)
    let m := (32 - lo) * n
    match s.readC a m false with
    | .error e => .error e
    | .ok (v, sp) => .ok (s.afterRead a m sp, (List.range (32 - lo)).map fun i => bitsOf v (8 * n * i) (8 * n))

/-! ### Accumulator tiles (R58, R345) -/

def accRow (a : BitVec 32768) (i : Nat) : BitVec 1024 := a.extractLsb' (1024 * i) 1024

/-- Replaces row i of the tile of a thread. -/
def Thread.setAccRow (t : Thread) (tile : BitVec 3) (i : Nat) (row : BitVec 1024) : Thread :=
  { t with arch := { t.arch with acc := t.arch.acc.set tile.toNat (BitVec.ofNat 32768
      (setBits (t.arch.acc[tile.toNat]).toNat (1024 * i) 1024 row.toNat)) } }

/-- The poison trap of a tile whose rows from `lo` are read (R345; which word index it gives is open, log 20). -/
def State.accPoison (s : State) (tile : BitVec 3) (lo : Nat) : Option Trouble :=
  if s.th.poison.acc[tile.toNat] >>> (32 * lo) = 0 then none
  else some (poisonedWord tile.toNat ((Config.openField 4 s.tick tile.toNat).toNat % 64))

/-- A run of an instruction that issues now, without operands. -/
def State.newRun (s : State) (i : Instr) : RunOp :=
  { instr := i, pc := s.th.arch.pc, before := s.th.arch.retired, loops := s.th.arch.loops, promised := s.th.promises
    skip := s.th.exempt, issue := s.coreCycle, stamp := s.tick, first := 0, readRow := 0, row := 0, latch := []
    fa := s.th.arch.tfa, fb := s.th.arch.tfb, a := [], b := [], meta_ := [], sa := [], sb := [], desc := 0, bias := []
    writes := [], vals := [], mem := 0, memStride := 0, ahead := none }

/-- Whether an instruction starts from row `tresume` (R240, R248). -/
def samplesRow (i : Instr) : Bool := isMultiply i || isTransfer i

/-- Whether an instruction must wait for one that was resumed at a row above 0 and clears `tresume` when it completes: it would
start from that row itself (R247, log 74). -/
def State.rowClaimed (s : State) (i : Instr) : Bool := samplesRow i && s.th.runs.any fun r => samplesRow r.instr && decide (r.first ≠ 0)

/-- Whether a run would write cells that an earlier run of its thread has yet to write (R234). -/
def State.writesWait (s : State) (r : RunOp) : Bool :=
  r.writes.any fun (k, n) => s.th.tileWrites [{ key := k, len := n, leaf := 0 }] true

/-- The issue of a T instruction: its wait count and unit, its checks and staging, and then its run (R243). -/
def tileIssue (i : Instr) (w : BitVec 3) (own : Option (BitVec 3 × Nat)) (prepare : State → Except Trouble (State × RunOp))
    (s : State) : Effect :=
  if !s.waitMet w || !s.unitFree (tileUnit i) || s.rowClaimed i then .trouble s (.wait .unit) none
  else
    match prepare s with
    | .error t => .trouble s t none
    | .ok (s1, r) =>
      if s.writesWait r then .trouble s (.wait .unit) none else
      let s2 := s1.notePace w own
      .next { s2 with th := { s2.th with runs := s2.th.runs ++ [r] } }

/-! ### Multiply forms (R239 to R241) -/

/-- The operands of a multiply form. -/
structure MulForm where
  ga : BitVec 64
  gb : BitVec 64
  /-- index register of TMMAG -/
  idx : Option (BitVec 6)
  gatherB : Bool
  sparse : Bool

/-- The operands that a multiply form names. -/
def mulFormOf (s : State) (i : Instr) : MulForm :=
  match i with
  | .tmmagM _ _ a b v => { ga := s.g a, gb := s.g b, idx := some v, gatherB := false, sparse := false }
  | .tmmagK _ _ a b v => { ga := s.g a, gb := s.g b, idx := some v, gatherB := true, sparse := false }
  | .tmmas _ _ a b => { ga := s.g a, gb := s.g b, idx := none, gatherB := false, sparse := true }
  | .tmma _ _ a b => { ga := s.g a, gb := s.g b, idx := none, gatherB := false, sparse := false }
  | _ => { ga := 0, gb := 0, idx := none, gatherB := false, sparse := false }

/-- Entry e of the index vector. -/
def State.tileIndex (s : State) (v : BitVec 6) (e : Nat) : Nat := bitsOf (s.vReg v) (16 * e) 16

/-- Addresses of the A rows from `lo`. -/
def State.aAddrs (s : State) (m : MulForm) (lo : Nat) : List (BitVec 64) :=
  (List.range (32 - lo)).map fun i =>
    m.ga + BitVec.ofNat 64 ((match m.idx with
      | some v => if m.gatherB then lo + i else s.tileIndex v (lo + i)
      | none => lo + i) * s.stride)

/-- Addresses of the pieces of B row j: segments of 256 bytes, or slices of 8. -/
def State.bAddrs (s : State) (m : MulForm) (segments j : Nat) : List (BitVec 64) :=
  match m.idx, m.gatherB with
  | some v, true => (List.range 32).map fun e => m.gb + BitVec.ofNat 64 (j * s.stride + 8 * s.tileIndex v e)
  | _, _ => (List.range segments).map fun x => m.gb + BitVec.ofNat 64 ((x * 32 + j) * s.stride)

/-- Joins pieces of n bytes. -/
def joinPieces (n : Nat) : List Nat → Nat
  | [] => 0
  | x :: t => x + joinPieces n t * 256 ^ n

/-- Staging of the B rows. -/
def State.stageB (s : State) (m : MulForm) (segments : Nat) : List Nat → Except Trouble (State × List Nat)
  | [] => .ok (s, [])
  | j :: t =>
    let n := if m.gatherB then 8 else 256
    match s.stage n (s.bAddrs m segments j) with
    | .error e => .error e
    | .ok (s1, ps) =>
      match s1.stageB m segments t with
      | .error e => .error e
      | .ok (s2, rows) => .ok (s2, joinPieces n ps :: rows)

/-- The checks and the staging of a multiply form, in this order: the pair, index poison, rows, scales, the scoreboard,
accumulator poison, staging (log 35). -/
def prepareMul (i : Instr) (w tile : BitVec 3) (s : State) : Except Trouble (State × RunOp) :=
  let m := mulFormOf s i
  let a := s.th.arch
  let lo := a.tresume.toNat
  match tilePair a.tfa a.tfb with
  | none => .error (tileTrap i 0)
  | some (k0, _) =>
    let rime := decide (a.tfa = 8)
    let k := if m.sparse then 2 * k0 else k0
    let segments := k * tileWidth a.tfb / 2048
    let n := if m.gatherB then 8 else 256
    let bAll := (List.range 32).flatMap fun j => s.bAddrs m segments j
    let metas := if m.sparse then (List.range (32 - lo)).map fun r => va56 a.tma + BitVec.ofNat 64 ((lo + r) * (k / 8)) else []
    match (match m.idx with
      | some v => s.vPoison v (List.range 8)
      | none => none) with
    | some t => .error t
    | none =>
      let bad := (rime && (m.sparse || m.gatherB)) || !s.strideOk 256 || decide (m.ga.toNat % 64 ≠ 0) || decide (m.gb.toNat % 64 ≠ 0) ||
        (match m.idx with
         | some v => m.gatherB && (List.range 32).any fun e => decide (s.stride < 8 * s.tileIndex v e + 8)
         | none => false) ||
        (m.sparse && decide (a.tma.toNat % 8 ≠ 0)) ||
        (s.neveKeys 256 64 (s.aAddrs m lo)).isNone || (s.neveKeys n (if m.gatherB then 1 else 64) bAll).isNone ||
        (s.neveKeys (k / 8) 1 metas).isNone
      if bad then .error (tileTrap i 0)
      else
        match s.readScales a.tfa a.tsa lo (if rime then 4 else k / 32) with
        | .error e => .error e
        | .ok (s1, sa) =>
          match s1.readScales a.tfb a.tsb 0 (k / 32) with
          | .error e => .error e
          | .ok (s2, sb) =>
            let kind := if rime then 1 else 0
            match s.stallTrap tile kind w with
            | some t => .error t
            | none =>
              match s.accPoison tile lo with
              | some t => .error t
              | none =>
                match s2.stage 256 (s.aAddrs m lo) with
                | .error e => .error e
                | .ok (s3, av) =>
                  match s3.stageB m segments (List.range 32) with
                  | .error e => .error e
                  | .ok (s4, bv) =>
                    match s4.stage (k / 8) metas with
                    | .error e => .error e
                    | .ok (s5, mv) =>
                      let r := { s.newRun i with first := lo, readRow := lo, row := lo, a := av, b := bv, meta_ := mv, sa := sa, sb := sb }
                      .ok (s5, r)

def RunOp.sparse (r : RunOp) : Bool :=
  match r.instr with
  | .tmmas .. => true
  | _ => false

/-- A values of a row: its elements in storage order, with their scales. -/
def RunOp.aValues (r : RunOp) (i : Nat) : List FVal :=
  let row := r.a.getD (i - r.first) 0
  let sc := r.sa.getD (i - r.first) 0
  if r.fa = 8 then (List.range 4).flatMap fun b => rimeBlock (bitsOf row (512 * b) 512) (scaleByte sc b)
  else
    let w := tileWidth r.fa
    (List.range (2048 / w)).map fun k => tileValue r.fa (tileElem row w k) (scaleByte sc (if r.sparse then k / 16 else k / 32))

/-- The B value at position k of column j. -/
def RunOp.bValue (r : RunOp) (j k : Nat) : FVal :=
  tileValue r.fb (tileElem (r.b.getD j 0) (tileWidth r.fb) k) (scaleByte (r.sb.getD j 0) (k / 32))

/-- The position of B that pairs with entry k of A row i (R241). -/
def RunOp.pairOf (r : RunOp) (i k : Nat) : Nat :=
  if r.sparse then
    let nibble := bitsOf (r.meta_.getD (i - r.first) 0) (4 * (k / 2)) 4
    4 * (k / 2) + (if k % 2 = 0 then nibble % 4 else nibble / 4)
  else k

/-- An integer that a value holds exactly. -/
def FVal.asInt : FVal → Int
  | .fin n m _ => if n then -(m : Int) else m
  | _ => 0

/-- The accumulator element (i, j) after its dot product (R80, R81, R240). -/
def RunOp.dot (r : RunOp) (av : List FVal) (i j old : Nat) : Nat :=
  let pairs := av.zipIdx.map fun (x, k) => (x, r.bValue j (r.pairOf i k))
  if r.fa = 7 then wrapInt 32 (pairs.foldl (fun (acc : Int) (x, y) => acc + x.asInt * y.asInt) (signed 32 old))
  else
    let n := ((tilePair r.fa r.fb).getD (1, 1)).2
    dotAccumulate old (chunks n (av.length + 1) (pairs.map fun (x, y) => FVal.ofExact (x.mul y)))

/-- A row of 32 elements from a function of column and old element. -/
def mapRow (f : Nat → Nat → Nat) (row : BitVec 1024) : BitVec 1024 :=
  BitVec.ofNat 1024 (joinPieces 4 ((List.range 32).map fun j => f j (bitsOf row.toNat (32 * j) 32) % 2 ^ 32))

def execTmma (w c : BitVec 3) (a b : BitVec 5) (s : State) : Step :=
  issue (.tmma w c a b) s fun s => tileIssue (.tmma w c a b) w (some (c, if s.th.arch.tfa = 8 then 1 else 0)) (prepareMul (.tmma w c a b) w c) s
def execTmmagM (w c : BitVec 3) (a b : BitVec 5) (v : BitVec 6) (s : State) : Step :=
  issue (.tmmagM w c a b v) s fun s =>
    tileIssue (.tmmagM w c a b v) w (some (c, if s.th.arch.tfa = 8 then 1 else 0)) (prepareMul (.tmmagM w c a b v) w c) s
def execTmmagK (w c : BitVec 3) (a b : BitVec 5) (v : BitVec 6) (s : State) : Step :=
  issue (.tmmagK w c a b v) s fun s => tileIssue (.tmmagK w c a b v) w (some (c, 0)) (prepareMul (.tmmagK w c a b v) w c) s
def execTmmas (w c : BitVec 3) (a b : BitVec 5) (s : State) : Step :=
  issue (.tmmas w c a b) s fun s => tileIssue (.tmmas w c a b) w (some (c, 0)) (prepareMul (.tmmas w c a b) w c) s

/-! ### Accumulator forms (R249 to R252) -/

/-- TZERO reads nothing (R249). -/
def prepareZero (i : Instr) (w tile : BitVec 3) (s : State) : Except Trouble (State × RunOp) :=
  match s.stallTrap tile 4 w with
  | some t => .error t
  | none => .ok (s, { s.newRun i with readRow := 32 })

def execTzero (w c : BitVec 3) (s : State) : Step :=
  issue (.tzero w c) s (tileIssue (.tzero w c) w (some (c, 4)) (prepareZero (.tzero w c) w c))

/-- TADDA stages its 32 rows of 128 bytes (R250). -/
def prepareAdda (i : Instr) (w tile : BitVec 3) (base : BitVec 64) (s : State) : Except Trouble (State × RunOp) :=
  if !s.strideOk 128 || (s.neveKeys 128 64 (s.rowAddrs base 0 32)).isNone then .error (tileTrap i 0)
  else
    match s.stallTrap tile 2 w with
    | some t => .error t
    | none =>
      match s.accPoison tile 0 with
      | some t => .error t
      | none =>
        match s.stage 128 (s.rowAddrs base 0 32) with
        | .error e => .error e
        | .ok (s1, rows) => .ok (s1, { s.newRun i with a := rows })

def execTadda (w c : BitVec 3) (a : BitVec 5) (s : State) : Step :=
  issue (.tadda w c a) s fun s => tileIssue (.tadda w c a) w (some (c, 2)) (prepareAdda (.tadda w c a) w c (s.g a)) s

/-- TADDA's sum of two elements. -/
def tileAdd (fa : BitVec 4) (x y : Nat) : Nat :=
  if fa = 7 then (x + y) % 2 ^ 32
  else ((((Fmt.f32).decode x).add .rne ((Fmt.f32).decode y)).deliver .f32 .rne).1

/-- Storage bits of a TACC destination format, none where refused. -/
def accWidth (ofmt : Nat) : Option Nat :=
  match ofmt with
  | 0 | 1 | 2 | 3 | 7 => some 8
  | 4 | 10 => some 4
  | 5 | 6 => some 16
  | 8 | 9 => some 32
  | _ => none

/-- Whether a TACC descriptor is refused, its névé ranges aside (R252). -/
def accRefused (d : Nat) : Bool :=
  let ofmt := bitsOf d 0 8
  let flags := bitsOf d 16 8
  let mx := flags.testBit 3
  let isNan (off : Nat) : Bool := ((Fmt.f32).decode (bitsOf d off 32)).isNan
  (accWidth ofmt).isNone || decide (2 < bitsOf d 8 8) || decide (16 ≤ flags) || decide (bitsOf d 24 40 ≠ 0) ||
  decide (bitsOf d 160 32 ≠ 0) || decide (bitsOf d 320 64 ≠ 0) || isNan 64 || isNan 96 || isNan 128 ||
  (decide (2 ≤ ofmt) && decide (ofmt ≤ 4) && !mx) || (mx && decide (4 < ofmt))

/-- TACC: the descriptor, its checks, and its bias values (R251, R252). The scale address is an operand base, a multiple of 64 (R233;
DESIGN CHOICE, log 168). -/
def prepareAcc (i : Instr) (w tile : BitVec 3) (base gp : BitVec 64) (s : State) : Except Trouble (State × RunOp) :=
  if gp.toNat % 16 ≠ 0 then .error (misaligned gp)
  else
    match s.readC gp 48 false with
    | .error e => .error e
    | .ok (d, sp) =>
      let s1 := s.afterRead gp 48 sp
      let L := 4 * (accWidth (bitsOf d 0 8)).getD 0
      let mx := (bitsOf d 16 8).testBit 3
      let rows := s.rowAddrs base 0 32
      let sdst := BitVec.ofNat 64 (bitsOf d 256 64)
      let bias := BitVec.ofNat 64 (bitsOf d 192 64)
      if accRefused d || !s.strideOk L then .error (tileTrap i gp)
      else
        match s.neveKeys L 64 rows, (if mx then s.neveKey sdst 32 64 else some 0) with
        | some ks, some sk =>
          let scales := if mx then (List.range 32).map fun r => (sk + r, 1) else []
          let go (s2 : State) (bs : List Nat) : Except Trouble (State × RunOp) :=
            match s.stallTrap tile 3 w with
            | some t => .error t
            | none =>
              match s.accPoison tile 0 with
              | some t => .error t
              | none => .ok (s2, { s.newRun i with desc := d, bias := bs, writes := ks ++ scales })
          if (bitsOf d 16 8).testBit 0 then
            if bias.toNat % 4 ≠ 0 then .error (misaligned bias)
            else
              match s1.readC bias 128 false with
              | .error e => .error e
              | .ok (v, bsp) => go (s1.afterRead bias 128 bsp) ((List.range 32).map fun j => bitsOf v (32 * j) 32)
          else go s1 (List.replicate 32 0)
        | _, _ => .error (tileTrap i gp)

def execTacc (w c : BitVec 3) (a b : BitVec 5) (s : State) : Step :=
  issue (.tacc w c a b) s fun s => tileIssue (.tacc w c a b) w (some (c, 3)) (prepareAcc (.tacc w c a b) w c (s.g a) (s.g b)) s

/-- Whether x is below y, −0 below +0 (log 36). -/
def FVal.below (x y : FVal) : Bool := x.lt y || (x.isZero && y.isZero && x.neg && !y.neg)

/-- The value that TACC delivers for an element (R252). -/
def accValue (d old bias : Nat) : FVal :=
  let x := if (bitsOf d 16 8).testBit 2 then intVal (signed 32 old) else (Fmt.f32).decode old
  let y := FVal.ofExact (x.fma .rne ((Fmt.f32).decode (bitsOf d 64 32)) ((Fmt.f32).decode bias))
  let lo := (Fmt.f32).decode (bitsOf d 96 32)
  let hi := (Fmt.f32).decode (bitsOf d 128 32)
  if y.isNan then y
  else if bitsOf d 8 8 = 1 then (if y.below (.fin false 0 0) then .fin false 0 0 else y)
  else if bitsOf d 8 8 = 2 then
    let z := if y.below lo then lo else y
    if hi.below z then hi else z
  else y

/-- A row of values in the destination format, with its scale byte when mx is set. -/
def accDeliver (d : Nat) (vs : List FVal) : List Nat × Nat :=
  let ofmt := bitsOf d 0 8
  let flags := bitsOf d 16 8
  let fmt : Fmt := if ofmt = 8 then .f32 else tileFmt (BitVec.ofNat 4 ofmt)
  if flags.testBit 3 then let (sc, els, _) := mxBlock fmt .rne (vs.map fun v => (true, v)); (els, sc)
  else if ofmt = 7 ∨ ofmt = 9 ∨ ofmt = 10 then (vs.map fun v => (v.toInt .rne true ((accWidth ofmt).getD 8)).1, 0)
  else (vs.map fun v => (v.convert fmt .rne (flags.testBit 1)).1, 0)

/-- Elements of w bits packed into a row. -/
def packRow (w : Nat) : List Nat → Nat
  | [] => 0
  | x :: t => x % 2 ^ w + packRow w t * 2 ^ w

/-- A path-C write by a running T instruction, as if at its issue (R234). -/
def State.putRun (s : State) (r : RunOp) (sp : List Span) (dup : Bool) (bs : List (BitVec 8)) : State :=
  s.put { s.coreWriter dup with since := some r.stamp, after := if s.th.sup.level then 0 else s.th.retiredSince r } sp bs

/-- Its write of cells of the thread's window. -/
def State.putNeve (s : State) (r : RunOp) (k n v : Nat) : State := s.putRun r [{ key := k, len := n, leaf := 0 }] false (leBytes n v)

/-- TACC's write of row i (R252); poison that arose while it ran marks what is computed from it (R346). The row's scale byte is written
after the row, and stands where the row covers it (DESIGN CHOICE, log 169). -/
def State.putAccRow (s : State) (r : RunOp) (tile : BitVec 3) (i : Nat) : State :=
  let row := (accRow s.th.arch.acc[tile.toNat] i).toNat
  let w := (accWidth (bitsOf r.desc 0 8)).getD 8
  let (els, sc) := accDeliver r.desc ((List.range 32).map fun j => accValue r.desc (bitsOf row (32 * j) 32) (r.bias.getD j 0))
  let (k, n) := r.writes.getD i (0, 0)
  let s1 := s.putNeve r k n (packRow w els)
  let s2 := match r.writes[32 + i]? with
    | some (sk, _) => s1.putNeve r sk 1 sc
    | none => s1
  if (s.th.poison.acc[tile.toNat]).extractLsb' (32 * i) 32 = 0 then s2
  else { s2 with poison := (sectorsOf k n ++ (r.writes[32 + i]?.toList.flatMap fun (sk, _) => sectorsOf sk 1)).foldl (fun p q => insertNat q p) s2.poison }

/-! ### The row schedule (R244, R246) -/

/-- The tile of an accumulator access. -/
def tileOf (i : Instr) : BitVec 3 :=
  match i with
  | .tmma _ c _ _ | .tmmagM _ c _ _ _ | .tmmagK _ c _ _ _ | .tmmas _ c _ _ | .tzero _ c | .tacc _ c _ _ | .tadda _ c _ => c
  | _ => 0

/-- Core cycles that a unit is busy after issue (R231, R247). -/
def RunOp.busy (r : RunOp) : Nat :=
  match r.instr with
  | .tadda .. => 33
  | .tacc .. => 32
  | i => if isMultiply i then (if r.fa = 8 then 128 - 4 * r.first else 64 - 2 * r.first) else 1

/-- Cycle of the read and of the write of row i, where the instruction makes one. -/
def RunOp.readCycle (r : RunOp) (i : Nat) : Nat :=
  match r.instr with
  | .tadda .. | .tacc .. => r.issue + i
  | _ => r.issue + (if r.fa = 8 then 4 else 2) * (i - r.first)
def RunOp.writeCycle (r : RunOp) (i : Nat) : Nat :=
  match r.instr with
  | .tzero .. => r.issue
  | .tadda .. => r.issue + i + 1
  | _ => r.issue + (if r.fa = 8 then 4 * (i - r.first) + 3 else 2 * (i - r.first) + 1)

def touchesAcc (i : Instr) : Bool := isMultiply i || decide (tileUnit i = 1)

/-- The next accumulator access of a run: its time, twice the cycle for a read and one more for a write (a row is read
at the start of a cycle and written at its end), none when it has made all of them, or no further row begins after a cycle. -/
def RunOp.nextAccess (r : RunOp) (halt : Option Nat) : Option Nat :=
  if !touchesAcc r.instr then none
  else
    let rd := if decide (r.readRow < 32) && (halt.all fun c => decide (r.readCycle r.readRow ≤ c)) then some (2 * r.readCycle r.readRow) else none
    let wr := match r.instr with
      | .tzero .. => if r.row < 32 then some (2 * r.writeCycle 0 + 1) else none
      | _ => r.latch.head?.map fun (i, _) => 2 * r.writeCycle i + 1
    match rd, wr with
    | some a, some b => some (min a b)
    | some a, none => some a
    | none, b => b

/-- The run that makes the next access, the oldest of those that share its time: its place and the time. -/
def nextRun (halt : Option Nat) : List RunOp → Option (Nat × Nat)
  | [] => none
  | r :: t =>
    match r.nextAccess halt, nextRun halt t with
    | some a, some (n, b) => if a ≤ b then some (0, a) else some (n + 1, b)
    | some a, none => some (0, a)
    | none, some (n, b) => some (n + 1, b)
    | none, none => none

/-- Whether an instruction is the youngest that its thread has issued. -/
def Thread.youngest (t : Thread) (r : RunOp) : Bool := decide (t.arch.retired = r.before + 1)

/-- The cycle after which no further row of the thread's one running instruction begins, a multiply that a stop cuts (R247). -/
def Thread.rowHalt (t : Thread) : Option Nat :=
  match t.runs with
  | [r] => if isMultiply r.instr && t.youngest r then t.halted else none
  | _ => none

/-- The run of a thread that makes the next access, and its time. -/
def Thread.nextRun (t : Thread) : Option (Nat × Nat) := Sys2Proof.Machine.nextRun t.rowHalt t.runs

/-- Row i as a run leaves it. -/
def RunOp.compute (r : RunOp) (i : Nat) (row : BitVec 1024) : BitVec 1024 :=
  match r.instr with
  | .tadda .. => mapRow (fun j old => tileAdd r.fa old (bitsOf (r.a.getD i 0) (32 * j) 32)) row
  | _ => let av := r.aValues i; mapRow (fun j old => r.dot av i j old) row

/-- Makes an access of a run of the current thread. -/
def State.accessRow (s : State) (n : Nat) (r : RunOp) (time : Nat) : State :=
  let tile := tileOf r.instr
  let put (s : State) (r : RunOp) : State := { s with th := { s.th with runs := s.th.runs.set n r } }
  match r.instr with
  | .tzero .. =>
    let t := { s.th with
      arch := { s.th.arch with acc := s.th.arch.acc.set tile.toNat 0 }
      poison := { s.th.poison with acc := s.th.poison.acc.set tile.toNat 0 } }
    put { s with th := t } { r with row := 32 }
  | .tacc .. => put (s.putAccRow r tile r.readRow) { r with readRow := r.readRow + 1, row := r.readRow + 1 }
  | _ =>
    if time % 2 = 0 then
      let v := r.compute r.readRow (accRow s.th.arch.acc[tile.toNat] r.readRow)
      put s { r with readRow := r.readRow + 1, latch := r.latch ++ [(r.readRow, v)] }
    else
      match r.latch with
      | (i, v) :: rest => put { s with th := s.th.setAccRow tile i v } { r with row := i + 1, latch := rest }
      | [] => s

/-- Whether an accumulator access of the current thread is due: its cycle has passed. -/
def State.rowDue (s : State) : Bool :=
  match s.th.nextRun with
  | some (_, t) => decide (t / 2 < s.coreCycle)
  | none => false

/-- ACCUMULATOR_ROW_ACCESS (R246): the earliest access of the running T instructions of the current thread, once its
cycle has passed. -/
def execAccumulatorRowAccess (s : State) : Step :=
  match s.th.nextRun with
  | some (n, t) =>
    if t / 2 < s.coreCycle then
      match s.th.runs[n]? with
      | some r => .next (s.accessRow n r t)
      | none => .next s
    else .next s
  | none => .next s

/-! ### Tile memory, decode, transpose, compress (R242, R253 to R255) -/

/-- The memory address of the next row of a TLOAD or TSTORE. -/
def RunOp.rowAddr (r : RunOp) (row : Nat) : BitVec 64 := r.mem + BitVec.ofNat 64 row * r.memStride

/-- The log-all items of the last n rows of a TSTORE as they lie now, its sectors numbered from k, without their digests: as far as the
rows pass their checks, and whether all of them do (R301, R377). -/
def State.storeItems (s : State) (r : RunOp) : Nat → Nat → List EventItem × Bool
  | 0, _ => ([], true)
  | n + 1, k =>
    let a := r.rowAddr (31 - n)
    match s.checkAccess a 256 false true true (31 - n) with
    | .error _ => ([], false)
    | .ok sp =>
      let own := (lSectors sp a).zipIdx.map fun ((q, va), j) => ({ type := 8, op := 2, elem := k + j, va := va, object := q, digest := 0 } : EventItem)
      let rest := s.storeItems r n (k + own.length)
      (own ++ rest.1, rest.2)

/-- A TSTORE's records before it issues: ring space for all of them, or their counterparts in replay (R383, R387). -/
def State.allowStore (s : State) (r : RunOp) : Except Trouble Unit :=
  if (s.myLaunch.all fun l => decide (l.acts = 0)) || s.th.sup.level then .ok ()
  else
    match s.storeItems r (32 - r.row) s.th.tileSectors with
    | ([], _) => .ok ()
    | (items, whole) => s.allowTile items (whole && decide (r.row = 0))

/-- TLOAD and TSTORE: 32 névé rows, memory rows at a signed stride, from row `tresume` on (R233, R253). -/
def prepareTransfer (i : Instr) (load : Bool) (base mem stride : BitVec 64) (s : State) : Except Trouble (State × RunOp) :=
  if !s.strideOk 256 then .error (tileTrap i 0)
  else
    let lo := s.th.arch.tresume.toNat
    match s.neveKeys 256 64 (s.rowAddrs base lo (32 - lo)) with
    | none => .error (tileTrap i 0)
    | some ks =>
      let r := { s.newRun i with first := lo, readRow := 32, row := lo, mem := mem, memStride := stride }
      if load then .ok (s, { r with writes := ks })
      else
        match s.stage 256 (s.rowAddrs base lo (32 - lo)) with
        | .error e => .error e
        | .ok (s1, rows) =>
          let s2 : State := { s1 with th := { s1.th with tileSectors := if lo = 0 then 0 else s1.th.tileSectors } }
          match s2.allowStore r with
          | .error e => .error e
          | .ok _ => .ok (s2, { r with a := rows })

def execTload (w : BitVec 3) (a b x : BitVec 5) (s : State) : Step :=
  issue (.tload w a b x) s fun s => tileIssue (.tload w a b x) w none (prepareTransfer (.tload w a b x) true (s.g a) (s.g b) (s.g x)) s
def execTstore (w : BitVec 3) (a b x : BitVec 5) (s : State) : Step :=
  issue (.tstore w a b x) s fun s => tileIssue (.tstore w a b x) w none (prepareTransfer (.tstore w a b x) false (s.g a) (s.g b) (s.g x)) s

/-- The current thread with its running TLOAD or TSTORE replaced, or taken away. -/
def State.setTransfer (s : State) (r : Option RunOp) : State :=
  { s with th := { s.th with runs := s.th.runs.flatMap fun x => if isTransfer x.instr then r.toList else [x] } }

/-- What stopping a running multiply, TLOAD or TSTORE at its row boundary restores, so that it is issued again from `tresume`. -/
def Thread.cutRun (t : Thread) (r : RunOp) : Thread :=
  let user := !t.sup.level
  { t with
    arch := { t.arch with pc := r.pc, tresume := BitVec.ofNat 5 r.row, retired := r.before, loops := r.loops }
    position := if user then t.position - 1 else t.position
    calm := if user then t.calm - 1 else t.calm
    mix := if user then t.mix.set 5 (t.mix[5] - 4) else t.mix
    dbg := if user && r.skip then { t.dbg with dctl := t.dbg.dctl ||| 0x80 } else t.dbg
    sliceStop := t.sliceStop.map fun (k, a, m) => (k, a, m - 1)
    promises := r.promised, stepDue := false, runs := [], halted := none, wait := none }

/-- The current thread stopped at the row boundary of its one running instruction, which has not retired. -/
def State.cutRun (s : State) (r : RunOp) : State := ({ s with th := s.th.cutRun r }).bumpCore 0x00 (2 ^ 64 - 1)

/-- A row that cannot be moved: a wait leaves everything, and so does an older T instruction that still runs; anything else stops
the instruction at the row (R247, R248). -/
def State.rowTrouble (s : State) (r : RunOp) (t : Trouble) : Step :=
  match t with
  | .wait (.home l) => .next (s.touchLine l)
  | .wait _ => .next s
  | t => if s.th.runs.length = 1 then conclude r.instr s (.trouble (s.cutRun r) t (some r.row)) else .next s

/-- The log-all items of a row that a TSTORE writes, its sectors numbered from n (R301, R377). -/
def sectorItems (s s1 : State) (sp : List Span) (a : BitVec 64) (n : Nat) : List EventItem :=
  (lSectors sp a).zipIdx.map fun ((q, va), j) =>
    { type := 8, op := 2, elem := n + j, va := va, object := q
      digest := digest (readCells s.mem (48 * q) 48) (readCells s1.mem (48 * q) 48) }

/-- Whether a run is a TLOAD. -/
def RunOp.loads (r : RunOp) : Bool :=
  match r.instr with
  | .tload .. => true
  | _ => false

/-- Runs of cells as spans, and spans as runs of cells. -/
def spansOfRuns (l : List (Nat × Nat × BitVec 64)) : List Span := l.map fun (k, n, x) => { key := k, len := n, leaf := x }
def runsOfSpans (sp : List Span) : List (Nat × Nat × BitVec 64) := sp.map fun x => (x.key, x.len, x.leaf)

/-- Where the rows of a TLOAD or TSTORE from one on lie, if each passes its checks now and cannot diverge. -/
def State.rowsAhead (s : State) (r : RunOp) : Nat → Option (List (List (Nat × Nat × BitVec 64)))
  | 0 => some []
  | n + 1 =>
    let a := r.rowAddr (31 - n)
    match s.checkAccess a 256 r.loads (!r.loads) (!r.skip) (31 - n) with
    | .ok sp => if r.loads || decide (s.actsOn s.th.handle ≠ 2) || s.th.sup.level || (lSectors sp a).isEmpty then (s.rowsAhead r n).map fun l => runsOfSpans sp :: l else none
    | .error _ => none

/-- The current thread's TLOAD or TSTORE lets later instructions issue, for no row of it can fail any more (R243; log 37); none
while one could. -/
def State.openTransfer (s : State) : Option State :=
  match s.th.transferring with
  | none => some s
  | some r =>
    if r.ahead.isSome then some s
    else ((s.setTransfer none).rowsAhead r (32 - r.row)).map fun l => s.setTransfer (some { r with ahead := some l })

/-- The current thread's TLOAD or TSTORE has moved a row. -/
def RunOp.rowMoved (r : RunOp) : RunOp := { r with row := r.row + 1, ahead := r.ahead.map List.tail }

/-- TILE_ROW_TRANSFER (R253): the transfer unit moves the next row of the current thread's TLOAD or TSTORE. Memory that became
poisoned after the row was checked ahead of later instructions passes its poison on (log 37). -/
def execTileRowTransfer (s : State) : Step :=
  match s.th.transferring with
  | none => .next s
  | some r =>
    if 32 ≤ r.row then .next s
    else
      let a := r.rowAddr r.row
      let s0 := s.setTransfer none
      let put (s1 : State) : State := { s1 with th := { s1.th with runs := s.th.runs.map fun x => if x = r then r.rowMoved else x } }
      let sp? : Except Trouble (List Span) := match r.ahead.bind List.head? with
        | some l =>
          match (if r.loads then none else s0.missingLine (spansOfRuns l)) with
          | some k => .error (.wait (.home k))
          | none => .ok (spansOfRuns l)
        | none => s0.checkC a 256 r.loads (!r.loads) (!r.skip) r.row
      match sp? with
      | .error t => s.rowTrouble r t
      | .ok sp =>
        if r.loads then
          let (k, n) := r.writes.getD (r.row - r.first) (0, 0)
          let s1 := (s0.afterUnits .sectors a 256 sp).putNeve r k n (s0.unitsValue .sectors a 256 sp)
          .next (put (if (spanPoison s.poison sp 0).isSome then
              { s1 with poison := (sectorsOf k n).foldl (fun p q => insertNat q p) s1.poison }
            else s1))
        else
          let dup := s.th.debugActs && (s.th.dbg.watch a 256 false true).isSome
          let s1 := s0.putRun r sp dup (leBytes 256 (r.a.getD (r.row - r.first) 0))
          let items := sectorItems s0 s1 sp a s.th.tileSectors
          match s0.allowEvent items true with
          | .error t => s.rowTrouble r t
          | .ok _ =>
            let s2 := s1.commitPart items
            .next (put { s2 with th := { s2.th with tileSectors := s2.th.tileSectors + items.length } })

/-- TDEC: the weights of block i as a row in the destination format (R254). -/
def decodeRow (f : BitVec 4) (block scale : Nat) : Nat :=
  packRow (tileWidth f) ((rimeBlock block scale).map fun v => (v.convert (tileFmt f) .rne true).1)

def prepareDec (i : Instr) (gd gs : BitVec 64) (s : State) : Except Trouble (State × RunOp) :=
  let f := s.th.arch.tfb
  if f ≠ 0 ∧ f ≠ 1 ∧ f ≠ 5 ∧ f ≠ 6 then .error (tileTrap i 0)
  else
    let L := 32 * tileWidth f
    if !s.strideOk L || (s.neveKey gs 2048 64).isNone then .error (tileTrap i 0)
    else
      match s.neveKeys L 64 (s.rowAddrs gd 0 32) with
      | none => .error (tileTrap i 0)
      | some ks =>
        match s.readScales 8 s.th.arch.tsa 0 1 with
        | .error e => .error e
        | .ok (s1, sc) =>
          match s1.stage 64 ((List.range 32).map fun j => gs + BitVec.ofNat 64 (64 * j)) with
          | .error e => .error e
          | .ok (s2, blocks) =>
            .ok (s2, { s.newRun i with writes := ks, vals := (blocks.zip sc).map fun (b, x) => decodeRow f b x })

def execTdec (w : BitVec 3) (a b : BitVec 5) (s : State) : Step :=
  issue (.tdec w a b) s fun s => tileIssue (.tdec w a b) w none (prepareDec (.tdec w a b) (s.g a) (s.g b)) s

/-- An element as a T instruction stores it: the upper two bits of a six-bit element's byte are zero (R70). -/
def storedElem (f : BitVec 4) (e : Nat) : Nat := if f = 2 ∨ f = 3 then e % 64 else e

/-- TTRN: row j of the transposed tile of elements of a format (R255). -/
def transposeRow (f : BitVec 4) (rows : List Nat) (j : Nat) : Nat :=
  packRow (tileWidth f) (rows.map fun r => storedElem f (tileElem r (tileWidth f) j))

def prepareTrn (i : Instr) (gd gs : BitVec 64) (s : State) : Except Trouble (State × RunOp) :=
  if 7 < s.th.arch.tfa.toNat then .error (tileTrap i 0)
  else
    let w := tileWidth s.th.arch.tfa
    let src := s.rowAddrs gs 0 32
    if !s.strideOk (4 * w) || (s.neveKeys (4 * w) 64 src).isNone then .error (tileTrap i 0)
    else
      match s.neveKeys (4 * w) 64 (s.rowAddrs gd 0 32) with
      | none => .error (tileTrap i 0)
      | some ks =>
        match s.stage (4 * w) src with
        | .error e => .error e
        | .ok (s1, rows) => .ok (s1, { s.newRun i with writes := ks, vals := (List.range 32).map (transposeRow s.th.arch.tfa rows) })

def execTtrn (w : BitVec 3) (a b : BitVec 5) (s : State) : Step :=
  issue (.ttrn w a b) s fun s => tileIssue (.ttrn w a b) w none (prepareTrn (.ttrn w a b) (s.g a) (s.g b)) s

/-- The magnitude of a value, by which TCMP ranks (R242). -/
def FVal.magnitude : FVal → FVal
  | .nan s => .nan s
  | .inf _ => .inf false
  | .fin _ m e => .fin false m e

/-- Whether position q of a group ranks above position p. -/
def ranksAbove (vs : List FVal) (q p : Nat) : Bool :=
  let x := (vs.getD q (.fin false 0 0)).magnitude
  let y := (vs.getD p (.fin false 0 0)).magnitude
  if x.isNan then !y.isNan || decide (q < p)
  else if y.isNan then false
  else y.lt x || (!x.lt y && decide (q < p))

/-- The two positions of a group that TCMP keeps, ascending. -/
def keptPositions (vs : List FVal) : List Nat :=
  (List.range 4).filter fun p => decide (((List.range 4).filter fun q => decide (q ≠ p) && ranksAbove vs q p).length < 2)

/-- TCMP of a dense row: the compressed row and its metadata. -/
def compressRow (f : BitVec 4) (row : Nat) : Nat × Nat :=
  let w := tileWidth f
  let groups := (List.range (4096 / w / 4)).map fun g =>
    let els := (List.range 4).map fun p => tileElem row w (4 * g + p)
    let kept := keptPositions (els.map fun e => tileValue f e 0x7F)
    let q0 := kept.getD 0 0
    let q1 := kept.getD 1 0
    (storedElem f (els.getD q0 0), storedElem f (els.getD q1 0), q0 + 4 * q1)
  (packRow w (groups.flatMap fun (a, b, _) => [a, b]), packRow 4 (groups.map fun (_, _, n) => n))

/-- TCMP: its rows, and their metadata at `tma` (R242): where they overlap the metadata stands, written after all rows (DESIGN CHOICE,
log 169). -/
def prepareCmp (i : Instr) (gd gs : BitVec 64) (s : State) : Except Trouble (State × RunOp) :=
  let f := s.th.arch.tfa
  let tma := s.th.arch.tma
  if 7 < f.toNat ∨ tma.toNat % 8 ≠ 0 then .error (tileTrap i 0)
  else
    let n := 512 / tileWidth f
    let half (h : Nat) : List (BitVec 64) := s.rowAddrs gs (32 * h) 32
    if !s.strideOk 256 || (s.neveKeys 256 64 (half 0 ++ half 1)).isNone then .error (tileTrap i 0)
    else
      match s.neveKeys 256 64 (s.rowAddrs gd 0 32),
          s.neveKeys n 1 ((List.range 32).map fun r => va56 tma + BitVec.ofNat 64 (r * n)) with
      | some ks, some ms =>
        match s.stage 256 (half 0) with
        | .error e => .error e
        | .ok (s1, lo) =>
          match s1.stage 256 (half 1) with
          | .error e => .error e
          | .ok (s2, hi) =>
            let outs := (lo.zip hi).map fun (x, y) => compressRow f (x + y * 2 ^ 2048)
            .ok (s2, { s.newRun i with writes := ks ++ ms, vals := outs.map (·.1) ++ outs.map (·.2) })
      | _, _ => .error (tileTrap i 0)

def execTcmp (w : BitVec 3) (a b : BitVec 5) (s : State) : Step :=
  issue (.tcmp w a b) s fun s => tileIssue (.tcmp w a b) w none (prepareCmp (.tcmp w a b) (s.g a) (s.g b)) s

/-! ### Completion and stops (R247, R248) -/

/-- Whether a run has made every access and its unit's time has passed. -/
def State.runOver (s : State) (r : RunOp) : Bool :=
  if isTransfer r.instr then decide (32 ≤ r.row)
  else decide (r.issue + r.busy ≤ s.coreCycle) && (!touchesAcc r.instr || (r.nextAccess none).isNone)

/-- TENSOR_COMPLETE (R247): the oldest T instruction of the current thread that has finished frees its unit. One that
writes the névé at its end writes it now; one that starts from `tresume` clears it. -/
def execTensorComplete (s : State) : Step :=
  match s.th.runs.find? fun r => s.runOver r with
  | none => .next s
  | some r =>
    let t := { s.th with runs := s.th.runs.erase r, halted := s.th.halted.map fun _ => s.coreCycle }
    let s0 := { s with th := if samplesRow r.instr then { t with arch := { t.arch with tresume := 0 } } else t }
    if isTransfer r.instr then
      let s1 := if !r.loads && decide (0 < s.th.tileSectors) then s0.commit [] else s0
      .next { s1 with th := { s1.th with tileSectors := 0 } }
    else .next ((r.writes.zip r.vals).foldl (fun (a : State) ((k, n), v) => a.putNeve r k n v) s0)

/-- Where a pre-emption, migration, partition stop, debug stop or interrupt may stop the current thread among its T
instructions: the thread as it then stands, or none while it must wait (R247). -/
def State.tileStop (s : State) : Option State :=
  match s.th.runs with
  | [] => some { s with th := { s.th with halted := none } }
  | [r] =>
    if s.th.youngest r && decide (r.row < 32) &&
        (isTransfer r.instr ||
          (isMultiply r.instr && r.latch.isEmpty && decide (s.th.halted.getD s.coreCycle < r.readCycle r.row))) then
      some (s.cutRun r)
    else none
  | _ => none

/-- A stop reaches the current thread, and waits for its T instructions (R247); the watchdog runs from the first request (R352). -/
def State.halt (s : State) : State :=
  { s with th := { s.th with
    halted := if s.th.halted.isSome || s.th.runs.isEmpty then s.th.halted else some s.coreCycle
    stopAsked := some (s.th.stopAsked.getD s.lcc) } }

end Sys2Proof.Machine
end

