-- ==== Sys2Proof/Machine/Exchange.lean ====
section
/-! DEFINITION. Group X: frames, the slot table, sends bound to departures, arrivals and fresh bits (R256 to R270). -/

namespace Sys2Proof.Machine

/-! ### Slot-table entries and frames (R256, R259, R261) -/

def slotStart (e : BitVec 128) : Nat := bitsOf e.toNat 0 13
def slotWindow (e : BitVec 128) : Nat := bitsOf e.toNat 13 13
def slotOwn (e : BitVec 128) : Bool := e.getLsbD 26
def slotRecv (e : BitVec 128) : Bool := e.getLsbD 27
def slotOther (e : BitVec 128) : Nat := bitsOf e.toNat 28 13
def slotDest (e : BitVec 128) : Nat := bitsOf e.toNat 41 18
def slotTravel (e : BitVec 128) : Nat := bitsOf e.toNat 64 8

def Thread.slot? (t : Thread) (k : BitVec 8) : BitVec 128 := t.slots[k.toNat]
def Thread.frameLength (t : Thread) : Nat := t.arch.xframe.toNat
def Thread.frameBase (t : Thread) : Nat := t.arch.xbase.toNat

/-- Frame number and position of a link count. -/
def Thread.frameAt (t : Thread) (l : Nat) : Nat × Nat :=
  ((l - t.frameBase) / t.frameLength, (l - t.frameBase) % t.frameLength)

/-- The earliest frame in which the instant xbase + F · xframe + o lies after a link count. -/
def Thread.frameAfter (t : Thread) (o l : Nat) : Nat :=
  if l < t.frameBase + o then 0 else (l - t.frameBase - o) / t.frameLength + 1

/-- The instant of frame F at offset o. -/
def Thread.instant (t : Thread) (f o : Nat) : Nat := t.frameBase + f * t.frameLength + o

/-- The issue instant (R257). -/
def State.issueInstant (s : State) : Nat := s.lcc / 4 * 4

/-- A slot fault (R269); without a plan no frame exists, and the two fields are open (log 20). -/
def State.slotFault (s : State) (k : BitVec 8) (kind at_ : Nat) : Trouble :=
  let (f, phi) :=
    if s.th.frameLength = 0 then ((Config.openField 5 s.tick 0).toNat, (Config.openField 5 s.tick 1).toNat)
    else s.th.frameAt at_
  .trap 0x07 (BitVec.ofNat 64 (k.toNat + kind * 2 ^ 8 + phi % 2 ^ 13 * 2 ^ 12 + f % 2 ^ 39 * 2 ^ 25)) 0

/-- Whether there is no plan, or the slot's entry lacks a field. -/
def Thread.noSlot (t : Thread) (k : BitVec 8) (own : Bool) : Bool :=
  decide (t.frameLength = 0) || !(if own then slotOwn (t.slot? k) else slotRecv (t.slot? k))

/-! ### Issue (R244, R267) -/

/-- The issue of an X instruction: its wait count; the instant of its issue is that of the first, where it then waits. -/
def xIssue (w : BitVec 3) (body : State → Effect) (s : State) : Effect :=
  if !s.waitMet w then .trouble s (.wait .unit) none
  else
    match body { s with th := { s.th with lastTX := some s.coreCycle } } with
    | .next s1 => .next { s1 with th := { s1.th with promises := nextPromises s1.th.promises w none } }
    | e => e

/-- A wait of an X instruction ends: its own effect, and its place among the promises. -/
def xResume (w : BitVec 3) (body : State → Effect) (s : State) : Effect :=
  match body s with
  | .next s1 => .next { s1 with th := { s1.th with promises := nextPromises s1.th.promises w none } }
  | e => e

/-! ### The four forms (R268) -/

/-- XSEND: the source, once no running T instruction writes it, is staged and bound to the departure of the open window. -/
def sendBody (k : BitVec 8) (a : BitVec 64) (s : State) : Effect :=
  let e := s.th.slot? k
  let l := s.issueInstant
  let f := s.th.frameAfter (slotStart e) l
  let dep := s.th.instant f (slotStart e)
  if s.th.noSlot k true then .trouble s (s.slotFault k 4 l) none
  else if l + slotWindow e < dep then .trouble s (s.slotFault k 1 l) none
  else if s.th.departures.any fun d => decide (d.slot = k) && decide (d.frame = f) then .trouble s (s.slotFault k 5 l) none
  else if (s.neveKey a 256 64).isNone then .trouble s (s.slotFault k 6 l) none
  else
    match s.readC a 256 false with
    | .error t => .trouble s t none
    | .ok (v, sp) =>
      let s1 := s.afterRead a 256 sp
      let d : Departure :=
        { slot := k, frame := f, departs := dep, arrives := dep + slotTravel e, sent := false, bad := false, data := BitVec.ofNat 2048 v }
      .next { s1 with th := { s1.th with departures := s1.th.departures ++ [d] } }

/-- Whether a running T instruction of the thread writes the source of an XSEND: its staging waits (R234, R268). -/
def State.sourceBusy (s : State) (a : BitVec 64) : Bool :=
  match s.neveKey a 256 64 with
  | some key => s.th.tileWrites [{ key := key, len := 256, leaf := 0 }] false
  | none => false

def execXsend (w : BitVec 3) (g : BitVec 5) (k : BitVec 8) (s : State) : Step :=
  issue (.xsend w g k) s fun s =>
    if s.sourceBusy (s.g g) then .trouble s (.wait .unit) none else xIssue w (sendBody k (s.g g)) s

/-- The effect of a completed receive: fresh is cleared, and the slot's bytes are seen new from now on (R270). -/
def State.takeFresh (s : State) (k : BitVec 8) : State :=
  let lo := windowBase + s.th.handle.toNat * windowStep + slotDest (s.th.slot? k)
  { s with
    th := { s.th with fresh := s.th.fresh &&& ~~~(1#256 <<< k.toNat) }
    hist := s.hist.map fun e =>
      if e.path = 3 ∧ lo ≤ e.key ∧ e.key < lo + 256 then { e.seenBy s.th.handle .data with received := true } else e }

/-- The arrival that a waiting XRECV of a slot waits for. -/
def Thread.awaited (t : Thread) (k : BitVec 8) : Option Nat :=
  match t.wait with
  | some { kind := .arrival j a, .. } => if j = k then some a else none
  | _ => none

/-- XRECV and XRECV.S. -/
def recvBody (k : BitVec 8) (strict : Bool) (s : State) : Effect :=
  let e := s.th.slot? k
  let l := s.issueInstant
  if s.th.noSlot k false then .trouble s (s.slotFault k 4 l) none
  else if s.th.fresh.getLsbD k.toNat then .next (s.takeFresh k)
  else if strict then .trouble s (s.slotFault k 2 l) none
  else
    match s.th.awaited k with
    | some a => if a ≤ s.lcc then .trouble s (s.slotFault k 3 a) none else .trouble s (.wait (.arrival k a)) none
    | none =>
      let o := slotStart e + slotTravel e
      .trouble s (.wait (.arrival k (s.th.instant (s.th.frameAfter o l) o))) none

def execXrecv (w : BitVec 3) (k : BitVec 8) (s : State) : Step := issue (.xrecv w k) s (xIssue w (recvBody k false))
def execXrecvS (w : BitVec 3) (k : BitVec 8) (s : State) : Step := issue (.xrecvS w k) s (xIssue w (recvBody k true))

/-- XWAIT: until a window of the slot is open; the thread's next instruction then issues ahead of the core's others. -/
def windowBody (k : BitVec 8) (s : State) : Effect :=
  let e := s.th.slot? k
  let l := s.issueInstant
  if s.th.noSlot k true then .trouble s (s.slotFault k 4 l) none
  else
    let dep := s.th.instant (s.th.frameAfter (slotStart e) s.lcc) (slotStart e)
    if dep ≤ s.lcc + slotWindow e then .next { s with th := { s.th with ahead := true } } else .trouble s (.wait (.window (dep - slotWindow e))) none

def execXwait (w : BitVec 3) (k : BitVec 8) (s : State) : Step := issue (.xwait w k) s (xIssue w (windowBody k))

/-- XWAIT_COMPLETE: the next issue window of a waiting XWAIT's slot has opened. -/
def execXwaitComplete (s : State) : Step :=
  match s.th.wait with
  | some { kind := .window a, instr := .xwait w k } =>
    if a ≤ s.lcc then issue (.xwait w k) s (xResume w (windowBody k)) else .next s
  | _ => .next s

/-- XSLOT: frame number and position of the issue instant. -/
def slotBody (g : BitVec 5) (s : State) : Effect :=
  let l := s.issueInstant
  if s.th.frameLength = 0 then .trouble s (s.slotFault 0 4 l) none
  else
    let (f, phi) := s.th.frameAt l
    .next (s.setG g (BitVec.ofNat 64 (f * 2 ^ 13 + phi)))

def execXslot (w : BitVec 3) (g : BitVec 5) (s : State) : Step := issue (.xslot w g) s (xIssue w (slotBody g))

/-! ### Departures and arrivals (R261, R265, R266) -/

/-- SLOT_DEPARTURE: at its departure cycle the bound bytes of a departure of the current thread leave; without bound
bytes the departure is void, and nothing leaves. -/
def execSlotDeparture (s : State) : Step :=
  .next { s with th := { s.th with departures := s.th.departures.map fun d =>
    if d.departs ≤ s.lcc then { d with sent := true } else d } }

/-- The bound delivery of the current thread that arrives next. -/
def nextArrival : List Departure → Option Departure
  | [] => none
  | d :: t =>
    match nextArrival t with
    | some e => if d.arrives ≤ e.arrives then some d else some e
    | none => some d

/-- The receiving thread of a slot of the current thread: itself, or the other thread of its launch on the bound core that the
slot names whose own entry receives from this thread's core (R259). -/
def State.receiver (s : State) (k : BitVec 8) : Option Thread :=
  let e := s.th.slot? k
  if slotRecv e then some s.th
  else s.others.find? fun t =>
    decide (handleLaunch t.handle = handleLaunch s.th.handle) && decide (t.bound.toNat = slotOther e) &&
    slotRecv (t.slot? k) && !slotOwn (t.slot? k) && decide (slotOther (t.slot? k) = s.th.bound.toNat)

/-- A delivery is written to its receiver on path X; fresh is set, in the save area too where the thread is not on a tensor core,
and an overrun counted (R265, R266, R270); uncorrectable flits poison every sector that they touch (R365). -/
def State.deliver (s : State) (d : Departure) : State :=
  let owner := s.th.handle
  let s0 := { s with th := { s.th with departures := s.th.departures.erase d } }
  match s.receiver d.slot with
  | none => s0
  | some r =>
    let sp : Span := { key := windowBase + r.handle.toNat * windowStep + slotDest (r.slot? d.slot), len := 256, leaf := 0 }
    let s1 := s0.put { cls := 7, ident := BitVec.ofNat 32 s.th.core.toNat, handle := owner, dup := false } [sp] (leBytes 256 d.data.toNat)
    let s1 := if d.bad then { s1 with poison := (sectorsOf sp.key 256).foldl (fun l q => insertNat q l) s1.poison } else s1
    let s2 := if r.fresh.getLsbD d.slot.toNat then s1.bump (0x50_0000 + 256 * r.bound.toNat + 0x40) 1 else s1
    let s3 := s2.modThread r.handle fun t => { t with fresh := t.fresh ||| (1#256 <<< d.slot.toNat) }
    if r.place = .resident ∧ r.cls = .tensor then s3 else s3.areaOr r.handle 57856 32 (2 ^ d.slot.toNat)

/-- What an arrival cycle brings the current thread first: a delivery that it has sent, or the end of a waiting XRECV. -/
def State.arrivalDue (s : State) : Option (Nat × Option Departure) :=
  let own := (nextArrival (s.th.departures.filter (·.sent))).bind fun d => if d.arrives ≤ s.lcc then some d else none
  let wait := match s.th.wait with
    | some { kind := .arrival _ a, .. } => if a ≤ s.lcc ∧ s.th.place = .resident then some a else none
    | _ => none
  match own, wait with
  | some d, some a => if d.arrives ≤ a then some (d.arrives, some d) else some (a, none)
  | some d, none => some (d.arrives, some d)
  | none, some a => some (a, none)
  | none, none => none

/-- SLOT_ARRIVAL: at an arrival cycle bound bytes are written to the receiver; a waiting XRECV completes, or meets a void
arrival. -/
def execSlotArrival (s : State) : Step :=
  match s.arrivalDue with
  | some (_, some d) => .next (s.deliver d)
  | some (_, none) =>
    match s.th.wait with
    | some { instr := .xrecv w k, .. } => issue (.xrecv w k) s (xResume w (recvBody k false))
    | _ => .next s
  | none => .next s

end Sys2Proof.Machine
end

