-- ==== Sys2Proof/Machine/System.lean ====
section
/-! DEFINITION. Groups S and P: stops of a thread (R20, R33, R34, R247), TRET and IDLE (R290, R291), interrupts (R292),
and the privileged instructions (R293 to R295, R437). -/

namespace Sys2Proof.Machine

/-! ### Stop points (R20, R33, R34, R168, R247) -/

/-- Whether the thread's instruction must finish before any stop: a proxied one (R23), one whose register transfers
run (R168), one whose trap is due (R247), a SIGWAIT that a WAKE has completed (R161), or a boundary at which a step trap comes first
(R289, R401). -/
def Thread.unstoppable (t : Thread) : Bool :=
  t.transferStarted || t.grant || t.due.isSome || (t.stepDue && t.runs.isEmpty) || (match t.wait with
    | some { kind := .proxy .., .. } | some { kind := .served .., .. } | some { kind := .woken _, .. } => true
    | _ => false)

/-- The current thread at the point where a stop takes effect: at its convoy's head with the convoy discarded, at the
boundary that its T instructions allow, out of its wait; none while it must go on first. -/
def State.atStop (s0 : State) : Option State :=
  if s0.th.place ≠ .resident ∨ s0.th.unstoppable then none
  else
    -- a convoy whose last member has executed completes first
    let s := s0.completeConvoy
    match s.tileStop with
    | none => none
    | some s1 =>
      let s2 := if s1.th.convoy.isSome then ({ s1 with th := s1.th.rollback s1.tick }).bumpCore 0x18 1 else s1
      some { s2 with th := { s2.th with wait := if s2.th.waitsPage then s2.th.wait else none, stalledAt := none, stopAsked := none } }

/-- What an operation on another thread, as the current one, leaves; the current thread is the same again after it. -/
def State.onThread (s : State) (h : Handle) (f : State → State) : State := (f (s.switchTo h)).switchTo s.th.handle

/-- A stop reaches a thread, and waits for its T instructions (R247). -/
def State.haltThread (s : State) (h : Handle) : State := s.onThread h State.halt

/-- Another thread at its stop point. -/
def State.stopOther (s : State) (h : Handle) : Option State :=
  ((s.switchTo h).atStop).map fun s1 => s1.switchTo s.th.handle

/-! ### TRET and IDLE (R290, R291) -/

/-- TRET: the end of the thread, or the level and pc of the trap entry; kind 11 is recorded on a foreign core (R380). -/
def tretBody (s : State) : Effect :=
  let t := s.th
  if t.sup.sstat.getLsbD 4 then
    if !t.runs.isEmpty then .trouble s (.wait .drain) none
    else
      -- the record of a TRET that goes nowhere: its target is open (log 20)
      let s1 := (({ s with th := t.countUnit 1 0 false }).bumpCore 0x00 1).traceBranch true 8 t.arch.pc (Config.openField 24 s.tick 0)
      .done (s1.endThread t.handle)
  else
    let pc := t.arch.pc
    let t1 := t.countUnit 1 0 false
    let t2 := { t1 with arch := { t1.arch with pc := t.sup.tpc }, sup := t.sup.leave, afterTret := true }
    let away := !t2.sup.level && decide (t.core ≠ t.trapCore)
    if away && !s.schedMay t2 11 then .trouble s (.wait .moraine) none
    else
      let s1 := (({ s with th := t2 }).bumpCore 0x00 1).traceBranch true 8 pc t.sup.tpc
      .done (if away then s1.sched s1.th 11 t.core.toNat 0 else s1)

def execTret (s : State) : Step := issue .tret s tretBody

/-- IDLE: until an unmasked line is pending. -/
def idleBody (s : State) : Effect :=
  if s.ipendNow &&& s.th.sup.imask ≠ 0 then .next s else .trouble s (.wait .idle) none

def execIdle (s : State) : Step := issue .idle s idleBody

/-- IDLE_COMPLETE. -/
def execIdleComplete (s : State) : Step :=
  match s.th.wait with
  | some { kind := .idle, .. } => if s.ipendNow &&& s.th.sup.imask ≠ 0 then issue .idle s idleBody else .next s
  | _ => .next s

/-! ### Interrupts (R284, R292) -/

/-- The partition of a thread's device context. -/
def State.partOf (s : State) (h : Handle) : Option PartId := (s.dctx? (handleDctx h)).map (·.part)

/-- The issue cap k of a thread's core: issue is allowed in k of every 16 of its cycles (R335, R426). -/
def State.issueCap (s : State) (t : Thread) : Nat :=
  let d := coreDie t.core.toNat
  min (((s.partOf t.handle).map fun p => (s.part p).cap).getD 16) (if h : d < 10 then (s.mod.heat[d]).getD 16 else 16)

/-- Of the core cycles before number n, those in which issue is capped at `cap` of every 16 (R335). -/
def cappedBefore (cap n : Nat) : Nat := n / 16 * (16 - cap) + (n % 16 - cap)

/-- The counters after a time: for the cores on which a context stands, the core cycles that have ended by then without an issue, and
those in which issue was capped (R335, R411). -/
def State.cycleCounters (s : State) (now : Nat) : List Counter :=
  let here := s.threads.filter fun t => decide (t.place = .resident)
  ((here.map (·.core)).eraseDups).foldl (fun cs c =>
    let r := coreRatio c.toNat
    let off := 0x50_0000 + 256 * c.toNat
    let busy := s.issued.foldl (fun a (x, n) => if x = c then max a (n / r) else a) (s.lcc / r)
    let cap := here.foldl (fun a t => if t.core = c then min a (s.issueCap t) else a) 16
    let idle := now / r - busy
    let capped := cappedBefore cap (now / r) - cappedBefore cap (s.lcc / r)
    let cs1 := if idle = 0 then cs else bumpCounter (off + 0x08) idle cs
    if capped = 0 then cs1 else bumpCounter (off + 0x48) capped cs1)
    s.mod.counters

/-- TIMER_COMPARE_MATCH: `cyc` reaches the current thread's `tcmp`, and line 8 reads pending from then on. -/
def execTimerCompareMatch (s : State) : Step :=
  let now := max s.lcc (2 * s.th.sup.tcmp.toNat)
  .next { s with lcc := now, mod := { s.mod with counters := s.cycleCounters now } }

/-- The lowest pending unmasked line. -/
def lowestLine (x : BitVec 12) : Option Nat := (List.range 12).find? fun n => x.getLsbD n

/-- Whether an interrupt may be taken out of a wait: R292 names the waits in which it is; in others either may be
(log 10). -/
def State.waitYields (s : State) : Bool :=
  match s.th.wait with
  | none => true
  | some w =>
    match w.kind with
    | .barrier .. | .signal | .actions | .window _ | .idle | .snowline => true
    | .drain | .page .. | .proxy .. | .served .. | .woken _ => false
    | _ => Config.pick s.tick 292

/-- The line that the current thread would take at a boundary. -/
def State.interruptLine (s : State) : Option Nat :=
  if s.th.sup.ie && !s.th.sup.tip && s.th.parked.isNone && !s.th.held && s.waitYields then lowestLine (s.ipendNow &&& s.th.sup.imask)
  else none

/-- INTERRUPT: the current thread, at a stop point, takes the lowest pending unmasked line; lines 0 to 7 clear. -/
def execInterrupt (s : State) : Step :=
  match s.interruptLine with
  | none => .next s
  | some n =>
    match s.atStop with
    | none => .next s.halt
    | some s1 =>
      let u := s1.th.sup
      let s2 := { s1 with th := { s1.th with sup := { u with ipend := if n < 8 then u.ipend &&& ~~~(1#12 <<< n) else u.ipend } } }
      .next (s2.trapAt 0x10 s2.th.arch.pc (BitVec.ofNat 64 n) 0 0).advance

/-! ### Targets (R293, R437) -/

/-- The live thread of the issuer's partition that a handle names. -/
def State.target (s : State) (x : BitVec 64) : Option Thread :=
  match s.thread? (x.setWidth 32) with
  | some t => if t.place ≠ .ended ∧ s.partOf t.handle = s.partOf s.th.handle then some t else none
  | none => none

/-- A target that is not the issuing thread, or why it is refused. -/
def State.otherTarget (s : State) (x : BitVec 64) : Except Trouble Thread :=
  match s.target x with
  | none => .error (refusedTrap 1)
  | some t => if t.handle = s.th.handle then .error (refusedTrap 2) else .ok t

/-- The size of a target's image (R340). -/
def State.imageSize (s : State) (t : Thread) : Nat := ((s.launchOf? t.handle).map Launch.saveSize).getD 0

/-- The image of a thread as it is now. -/
def State.imageOf (s : State) (t : Thread) : List (BitVec 8) :=
  match s.launchOf? t.handle, s.partOf t.handle with
  | some l, some p => t.imageBytes l p s.cyc
  | _, _ => []

/-- Writes the image of a held thread over checked spans: its save area as it stands, with its poison (R347), and of a thread that has
not started its initial image (R437). -/
def State.copyImage (s : State) (t : Thread) (sp : List Span) : State :=
  match (if t.place = .unstarted then none else s.areaSpans t.handle 0 (s.imageSize t)) with
  | some src => (s.devicePut sp (s.spanBytes src)).poisonParts (poisonRanges s.poison src 0) sp 0
  | none => (s.devicePut sp (s.imageOf t)).poisonParts t.poison.parts sp 0

/-! ### CTXSAVE and CTXLOAD (R293) -/

/-- CTXSAVE: the target stops as for a pre-emption, becomes held, and its image is written. -/
def ctxsaveBody (x a : BitVec 64) (s : State) : Effect :=
  match s.otherTarget x with
  | .error e => .trouble s e none
  | .ok t =>
    if a.toNat % 192 ≠ 0 then .trouble s (misaligned a) none
    else
      match s.checkAccess a (s.imageSize t) false true false with
      | .error e => .trouble s e none
      | .ok sp =>
        let go (s1 : State) : Effect :=
          match s1.thread? t.handle with
          | some t1 => .next (s1.copyImage t1 sp)
          | none => .next s1
        if t.held then go s
        else if t.place = .transit then .trouble s (.wait .ctxsave) none
        else if t.place = .resident then
          match s.stopOther t.handle with
          | some s1 => go (s1.makeHeld t.handle)
          | none => .trouble (s.haltThread t.handle) (.wait .ctxsave) none
        else go (s.makeHeld t.handle)

def execCtxsave (a b : BitVec 5) (s : State) : Step :=
  issue (.ctxsave a b) s fun s => ctxsaveBody (s.g a) (s.g b) s

/-- CTXSAVE_COMPLETE: a waiting CTXSAVE tries its target's stop again. -/
def execCtxsaveComplete (s : State) : Step :=
  match s.th.wait with
  | some { kind := .ctxsave, instr := .ctxsave a b } => issue (.ctxsave a b) s fun s => ctxsaveBody (s.g a) (s.g b) s
  | _ => .next s

/-- The state that an image gives a held thread. -/
def Thread.loadImage (t : Thread) (bs : List (BitVec 8)) : Thread :=
  let t1 := ((t.loadCommon bs).loadVector (bs.drop 4352)).loadTensor (bs.drop 20992)
  if t.deepHeld then t1.loadDeep (bs.drop 58176) else t1

/-- Places a restored thread, where a context of its class is free, or of the core that a MIGR named; with its record. -/
def State.placeLoaded (s : State) (h : Handle) : Option State :=
  match s.thread? h with
  | none => none
  | some t =>
    if t.placeOn = .none ∨ t.held ∨ t.parked.isSome then none
    else
      let forced := if s.actsOn h = 2 then (s.schedNext t).bind fun (i, bs) =>
          if fieldAt bs 24 1 = 9 ∨ fieldAt bs 24 1 = 0 then some (i, fieldAt bs 26 2 % 8192) else none
        else none
      let pick := match forced, t.migrTo with
        | some (_, c), _ => if s.couldHold t c && s.fits t c then some c else none
        | none, some c => if s.fits t c.toNat then some c.toNat else none
        | none, none =>
          -- replay returns it to the core of its latest placement (R388)
          if s.actsOn h = 2 ∧ t.lastClass = t.placeOn ∧ t.cls = t.placeOn ∧ s.couldHold t t.core.toNat then
            (if s.fits t t.core.toNat then some t.core.toNat else none)
          else s.nearest t fun k => decide (k = t.placeOn)
      match pick with
      | none => none
      | some c =>
        if !s.schedMay t 9 || s.fifoServable then none
        else
          let s0 := match forced with
            | some (i, _) => s.consume h i
            | none => s
          let s1 := s0.sched t 9 c 0
          let slot := s1.freeSlot c
          let lanes := s1.lanesAt t c
          some (s1.modThread h fun t =>
            { t.takeContext c slot lanes with
              place := .transit, since := s.lcc, placeOn := .none, migrTo := none
              migh := if t.migh = coreClass c then .none else t.migh })

/-- The bytes of an image at an address, and the offsets of it that are poisoned: a restore moves poison and never traps (R347). -/
def State.readImageC (s : State) (a : BitVec 64) (n : Nat) : Except Trouble (List (BitVec 8) × List (Nat × Nat) × List Span) :=
  match s.myDctx with
  | none => .error .noContext
  | some d =>
    match s.translate d (s.coreAccess true false) a n with
    | .error e => .error e
    | .ok sp => .ok (leBytes n (s.unitsValue .natural a n sp), poisonRanges s.poison sp 0, sp)

/-- CTXLOAD: the checked image is the target's state, its pending lines included, and the target becomes runnable: a line that was set
while the target was held and that the image does not have is lost (DESIGN CHOICE, log 170). A MIGR that found it held has released its
anchor, which the image may bring again. A poisoned header leaves it held, with a record of kind 0x04 (R347). -/
def ctxloadBody (x a : BitVec 64) (s : State) : Effect :=
  match s.otherTarget x with
  | .error e => .trouble s e none
  | .ok t =>
    if !t.held then .trouble s (refusedTrap 3) none
    else if a.toNat % 192 ≠ 0 then .trouble s (misaligned a) none
    else
      let n := s.imageSize t
      match s.readImageC a n with
      | .error e => .trouble s e none
      | .ok (bs, bad, sp) =>
        let s0 := s.afterRead a n sp
        if bad.any fun (lo, _) => decide (lo < 256) then
          .next ((s0.logPoison (handleDctx t.handle) 9 0 none 0x33 a).queueFault (handleDctx t.handle) (FaultRecord.header t a))
        else if !imageFits t bs then .trouble s (refusedTrap 4) none
        else
          let t1 := t.loadImage bs
          let frees := t.migrTo.isSome && decide (t1.arch.anchor ≠ .none)
          if frees && !s.schedMay t1 4 then .trouble s (.wait .moraine) none
          else
            let cls := if numAt bs 2 1 = 0 then ((s.launchOf? t.handle).map Launch.cls).getD .control else CoreClass.ofCode (numAt bs 2 1)
            let area := ((s.launchOf? t.handle).map fun l => l.saveAddr (handleDense t.handle)).getD 0
            let s1 := match s.dctx? (handleDctx t.handle) with
              | some d => s0.writeRegions d area bad [(0, bs)]
              | none => s0
            let s2 := s1.modThread t.handle fun t =>
              { t1 with
                poison := RegPoison.clear.withArea bad, areaHead := bs.take 64, areaFifo := t.bxq.length, held := false, placeOn := cls
                place := .saved, wait := none, parked := none }
            let s3 := if frees then s2.releaseOf t1 else s2
            .next ((s3.placeLoaded t.handle).getD s3)

def execCtxload (a b : BitVec 5) (s : State) : Step :=
  issue (.ctxload a b) s fun s => ctxloadBody (s.g a) (s.g b) s

/-! ### MIGR and IPI (R294) -/

/-- When the move of a MIGR at which the current thread has waited began. -/
def State.migrBegan (s : State) : Option Nat :=
  match s.th.wait with
  | some { kind := .migr n, .. } => n
  | _ => none

/-- MIGR: the target is moved to the named core, whatever its `migctl` says (DESIGN CHOICE, log 164); it completes when the move, which
began at the link count given, has ended. -/
def migrBody (began : Option Nat) (x y : BitVec 64) (s : State) : Effect :=
  let c := (y.extractLsb' 0 13).toNat
  match began with
  | some n =>
    if (s.thread? (x.setWidth 32)).any fun t => decide (t.place = .transit) && decide (t.since = n) then .trouble s (.wait (.migr began)) none
    else .next s
  | none =>
    match s.otherTarget x with
    | .error e => .trouble s e none
    | .ok t =>
      let anchored := decide (t.arch.anchor ≠ .none)
      let free (s : State) : State := if anchored then s.releaseOf t else s
      let later : Effect := .trouble s (.wait (.migr none)) none
      if s.actsOn t.handle = 2 then .trouble s (refusedTrap 6) none
      else if !s.couldHold t c then .trouble s (refusedTrap 5) none
      else if anchored && !s.schedMay t 4 then .trouble s (.wait .moraine) none
      else if t.held then .next ((free s).modThread t.handle fun t => { t with migrTo := some (BitVec.ofNat 13 c) })
      else if t.place ≠ .resident then later
      else if t.core.toNat = c then .next (free s)
      else if !s.fits t c then .trouble s (refusedTrap 5) none
      else if !s.schedMay t 2 (if anchored then 2 else 1) then .trouble s (.wait .moraine) none
      else if s.fifoServable then later
      else
        match s.stopOther t.handle with
        | none => .trouble (s.haltThread t.handle) (.wait (.migr none)) none
        | some s1 =>
          match (free s1).schedMigrateTo t.handle c with
          | some s2 => .trouble s2 (.wait (.migr (some s.lcc))) none
          | none => later

def execMigr (a b : BitVec 5) (s : State) : Step :=
  issue (.migr a b) s fun s => migrBody s.migrBegan (s.g a) (s.g b) s

/-- IPI: a line of the target, the issuing thread included. -/
def ipiBody (x y : BitVec 64) (s : State) : Effect :=
  match s.target x with
  | none => .trouble s (refusedTrap 1) none
  | some t =>
    if 7 < y.toNat then .trouble s (refusedTrap 8) none
    else .next (s.raiseLines t.handle (1 <<< y.toNat))

def execIpi (a b : BitVec 5) (s : State) : Step :=
  issue (.ipi a b) s fun s => ipiBody (s.g a) (s.g b) s

/-! ### TLBINV (R295, R305, R312) -/

/-- Device contexts of a partition with a PASID, or all of them. -/
def State.dctxsOf (s : State) (p : PartId) (pasid : Option Nat) : List Dctx :=
  s.dctxs.filter fun d => decide (d.part = p) && (match pasid with
    | some n => decide (d.pasid.toNat = n)
    | none => true)

/-- Whether an access of some device contexts that was translated by a link count has not performed yet: a remote element under way,
or rows of a TLOAD or TSTORE that were checked ahead (R305, R312). -/
def State.servedBefore (s : State) (ds : List DctxId) (since : Nat) : Bool :=
  (s.remote.any fun r => ds.contains r.dc && decide (r.left ≤ since)) ||
  s.threads.any fun t => ds.contains (handleDctx t.handle) &&
    t.runs.any fun r => r.ahead.isSome && decide (r.issue * coreRatio t.core.toNat ≤ since)

/-- Whether an earlier write of the current thread has not performed: a block transfer's, or a remote element (R312). -/
def State.ownPending (s : State) : Bool :=
  (s.th.bxq.any fun x => x.ended.isNone) || s.th.transferring.isSome || s.remote.any fun r => decide (r.handle = s.th.handle)

/-- Every earlier write of the current thread has performed at SYSTEM scope. -/
def State.performOwn (s : State) : State :=
  { s with hist := s.hist.map fun e => if e.writer = some s.th.handle then { e with allC := true, allB := true } else e }

/-- Removes the translations of device contexts, all of them or those that f selects: pages and host pages. -/
def State.removeTranslations (s : State) (ds : List Dctx) (page : TlbEntry → Bool) (host : HostPage → Bool) : State :=
  { s with
    tlb := s.tlb.filter fun e => !(ds.any (fun d => decide (e.dc = d.id)) && page e)
    host := s.host.filter fun e => !(ds.any (fun d => decide (e.part = d.part) && decide (e.pasid = d.pasid)) && host e) }

/-- Whether an entry's leaf covers an address. -/
def TlbEntry.covers (e : TlbEntry) (a : BitVec 64) : Bool :=
  decide (e.page.toNat / 8192 ^ e.level = pageNumber a / 8192 ^ e.level)

/-- Whether a host page lies in the leaf that covers an address: the leaf that delegated the page, or one that is still held. -/
def State.hostCovered (s : State) (ds : List Dctx) (h : HostPage) (a : BitVec 64) : Bool :=
  let va := BitVec.ofNat 64 (h.page.toNat * 4096)
  let within (level : Nat) : Bool := decide (pageNumber va / 8192 ^ level = pageNumber a / 8192 ^ level)
  within h.level || s.tlb.any fun e => ds.any (fun d => decide (e.dc = d.id)) && e.covers a && within e.level

/-- Retries the held device accesses of device contexts (R435). -/
def State.retryAll (s : State) (ds : List Dctx) : State := ds.foldl (fun a d => a.retryHeld d.id) s

/-- The removal of translations, once the thread's earlier writes have performed, and its completion (R312): `since` is the link
count of the first removal. -/
def invBody (since : Option Nat) (ds : List Dctx) (page : TlbEntry → Bool) (host : HostPage → Bool) (s : State) : Effect :=
  if since.isNone && s.ownPending then .trouble s (.wait (.tlbinv none)) none
  else
    let s1 := s.performOwn.removeTranslations ds page host
    let at_ := since.getD s.lcc
    if s1.servedBefore (ds.map (·.id)) at_ then .trouble s1 (.wait (.tlbinv (some at_))) none
    else
      match s.partOf s.th.handle with
      | some p => .next (s1.retryAll (s.dctxsOf p none))
      | none => .next s1

/-- What the three forms remove. -/
def tlbinvBody (since : Option Nat) (s : State) : Effect :=
  match s.partOf s.th.handle with
  | some p => invBody since (s.dctxsOf p none) (fun _ => true) (fun _ => true) s
  | none => .next s
def tlbinvPBody (since : Option Nat) (x : BitVec 64) (s : State) : Effect :=
  if 2 ^ 20 ≤ x.toNat then .trouble s (refusedTrap 7) none
  else
    match s.partOf s.th.handle with
    | some p => invBody since (s.dctxsOf p (some x.toNat)) (fun _ => true) (fun _ => true) s
    | none => .next s
def tlbinvPvBody (since : Option Nat) (x a : BitVec 64) (s : State) : Effect :=
  if 2 ^ 20 ≤ x.toNat then .trouble s (refusedTrap 7) none
  else
    match s.partOf s.th.handle with
    | some p =>
      let ds := s.dctxsOf p (some x.toNat)
      invBody since ds (fun e => e.covers a) (fun h => s.hostCovered ds h a) s
    | none => .next s

def execTlbinv (s : State) : Step := issue .tlbinv s (tlbinvBody none)
def execTlbinvP (a : BitVec 5) (s : State) : Step := issue (.tlbinvP a) s fun s => tlbinvPBody none (s.g a) s
def execTlbinvPv (a b : BitVec 5) (s : State) : Step := issue (.tlbinvPv a b) s fun s => tlbinvPvBody none (s.g a) (s.g b) s

/-- TLBINV_COMPLETE: a waiting TLBINV completes once every access translated by a removed entry has performed. -/
def execTlbinvComplete (s : State) : Step :=
  match s.th.wait with
  | some { kind := .tlbinv since, instr := .tlbinv } => issue .tlbinv s (tlbinvBody since)
  | some { kind := .tlbinv since, instr := .tlbinvP a } => issue (.tlbinvP a) s fun s => tlbinvPBody since (s.g a) s
  | some { kind := .tlbinv since, instr := .tlbinvPv a b } => issue (.tlbinvPv a b) s fun s => tlbinvPvBody since (s.g a) (s.g b) s
  | _ => .next s

end Sys2Proof.Machine
end

