-- ==== Sys2Proof/Machine/Motion.lean ====
section
/-! DEFINITION. The rows of moving threads: restoring a thread from its save area (R339, R341, R347), trap and scheduler
migrations, the arbiter's FIFO, anchoring and its release, and proxies (R15 to R26, R336, R388); convoys' completion
(R32) and slice-watch stops (R409). Each acts on the current thread. -/

namespace Sys2Proof.Machine

/-! ### Reading a save area (R339, R341, R347) -/

/-- Whether a header is the one that the device wrote, and the regions that a class holds keep R7. -/
def Thread.headerAgrees (t : Thread) (k : CoreClass) (bs : List (BitVec 8)) : Bool :=
  decide (bs.take 64 = t.areaHead) && imageReservedZero k t.lgG0 bs

/-- The thread as the regions of its save area that a class holds restore it: the others stay in the area (R66, R341). -/
def Thread.fromArea (t : Thread) (k : CoreClass) (bs deep : List (BitVec 8)) (rs : List (Nat × Nat)) : Thread :=
  let t1 := t.loadCommon bs
  let t2 := if k = .vector ∨ k = .tensor then t1.loadVector (bs.drop 4352) else t1
  let t3 := if k = .tensor then t2.loadTensor (bs.drop 20992) else t2
  { (if k = .vector ∧ t.deepHeld then t3.loadDeep deep else t3) with barHalf := t.barHalf, poison := RegPoison.clear.withArea rs }

/-- Restores a thread on a core of a class from its save area, or holds it with a fault record: a poisoned header is kind 0x04 (R347),
an altered one kind 0x07 (R339). The answer says whether it may run. -/
def State.restoreArea (s : State) (h : Handle) (k : CoreClass) : State × Bool :=
  match s.thread? h, s.launchOf? h, s.dctx? (handleDctx h) with
  | some t, some l, some d =>
    let a := l.saveAddr (handleDense h)
    match s.saveSpans d a k.areaBytes, s.saveSpans d (a + 58176) (if k = .vector ∧ t.deepHeld then 49152 else 0) with
    | .ok sp, .ok sd =>
      let bs := s.spanBytes sp
      let rs := poisonRanges s.poison sp 0 ++ poisonRanges s.poison sd 58176
      if rs.any fun (lo, _) => decide (lo < 256) then
        (((s.logPoison d.id 9 0 none 0x33 a).queueFault d.id (FaultRecord.header t a)).makeHeld h, false)
      else if !t.headerAgrees k bs then
        ((s.queueFault d.id (FaultRecord.plain 0x07 0x0F 0x31 h a)).makeHeld h, false)
      else (s.modThread h fun t => t.fromArea k bs (s.spanBytes sd) rs, true)
    | _, _ => (s, true)
  | _, _, _ => (s, true)

/-! ### Boundaries -/

/-- Whether the current thread stands between two units on its core, with nothing that keeps it there. -/
def State.boundary (s : State) : Bool :=
  decide (s.th.place = .resident) && s.th.wait.isNone && s.th.parked.isNone && !s.th.held && s.th.convoy.isNone && !s.th.grant &&
  !s.th.stepDue

/-- The instruction at the current thread's pc, where it can be read. -/
def State.instrHere (s : State) : Option Instr :=
  if s.th.arch.pc.toNat % 4 ≠ 0 then none
  else
    match s.fetchWord s.th.arch.pc with
    | .ok w => match decode w with
      | .ok i => some i
      | .error _ => none
    | .error _ => none

/-! ### Trap migrations, the FIFO and arrival (R15, R18, R336) -/

/-- TRAP_MIGRATION: the current thread stands at an instruction of a group that its class lacks; the checks of that
instruction decide (R13, R15 to R18). -/
def execTrapMigration (s : State) : Step :=
  if !s.boundary then .next s
  else
    match s.instrHere with
    | some i => if s.th.cls.implements (groupOf i) then .next s else issue i s fun s => .done s
    | none => .next s

/-- Whether no earlier waiter of the arbiter could take the core that a waiting thread would be given. -/
def State.firstWaiter (s : State) (t : Thread) (c : Nat) : Bool :=
  s.threads.all fun u =>
    match u.place with
    | .fifo g =>
      decide (t.since ≤ u.since) || decide (u.handle = t.handle) || !(coreClass c).implements g || !s.couldHold u c || !s.fits u c ||
      u.migrTo.any fun m => decide (m.toNat ≠ c)
    | _ => true

/-- ARBITER_FIFO_GRANT (R336): a freed context goes to the earliest waiter whose mask contains it. The thread's state
comes from its save area. -/
def execArbiterFifoGrant (s : State) : Step :=
  match s.fifoPick s.th with
  | none => .next s
  | some c =>
    if s.th.held || !s.firstWaiter s.th c || !s.fifoMay s.th c then .next s
    else
      let (s1, ok) := s.restoreArea s.th.handle (coreClass c)
      .next (if ok then s1.fifoGrant s.th.handle else s1)

/-- MIGRATION_ARRIVE (R336). -/
def execMigrationArrive (s : State) : Step :=
  .next (if (s.partOf s.th.handle).any fun p => s.mod.linksDown &&& (s.part p).spokes ≠ 0 then s else s.arrive s.th.handle)

/-! ### Scheduler migrations (R17, R18, R22, R24, R176, R388) -/

/-- Releases the anchor of the current thread, with its record (kind 4); none while the record has no room. -/
def State.release (s : State) : Option State :=
  if s.schedMay s.th 4 then some (s.releaseOf s.th) else none

/-- Whether the current thread, on a trip away from its anchor class, stands at an instruction that the anchor class implements
(R24). -/
def State.homeward (s : State) : Bool :=
  let t := s.th
  t.away && !t.sup.level && decide (t.arch.anchor ≠ t.cls) && (match s.instrHere with
    | some i => t.arch.anchor.implements (groupOf i)
    | none => false)

/-- The class to which the instruction-mix scheduler or MIGH would move the current thread now. -/
def State.wanted (s : State) : CoreClass :=
  let t := s.th
  if !t.sup.level && (t.arch.migctl.getLsbD 0 || decide (s.actsOn t.handle = 2)) then .none
  else if t.migh ≠ .none then t.migh
  else if s.homeward then t.arch.anchor
  else .none

/-- A scheduler migration of the current thread to a class, at a boundary where a context is free. A granted MIGH that
names another class than the anchor releases the anchor. -/
def State.grantMove (s : State) (k : CoreClass) : Option State :=
  match s.nearest s.th fun x => decide (x = k) with
  | none => none
  | some c =>
    match s.atStop with
    | none => none
    | some s1 =>
      let s2 := if s1.th.migh = k ∧ s1.th.arch.anchor ≠ .none ∧ s1.th.arch.anchor ≠ k then s1.release else some s1
      s2.bind fun s2 => s2.schedMigrateTo s2.th.handle c

/-- Whether the move that MIGH, R22 or R24 asks for could be made at this boundary but for its record, for which the thread then waits
(R383). -/
def State.moveStalls (s : State) : Bool :=
  decide (s.wanted ≠ .none) && decide (s.wanted ≠ s.th.cls) && (s.grantMove s.wanted).isNone && !s.fifoServable && s.atStop.isSome &&
  !s.schedMay s.th 2 (if s.th.migh = s.wanted ∧ s.th.arch.anchor ≠ .none ∧ s.th.arch.anchor ≠ s.wanted then 2 else 1) &&
  (s.nearest s.th fun x => decide (x = s.wanted)).isSome

/-- The divergence fault of kind 5 of the current thread at a boundary (R388, R389). -/
def State.schedDiverged (s : State) : Step :=
  .next (s.trapAt 0x0B s.th.arch.pc (divergenceDetail 5 0x11 0x11 0 s.th.arch.mevents) 0 0).advance

/-- What an enforced record of a replaying thread brings at a boundary at user level (R388): a placement, an anchor or its
release; none where there is nothing to enforce yet. -/
def State.enforce (s : State) : Option Step :=
  if s.th.sup.level then none
  else
    match s.schedNext s.th with
    | none => none
    | some (i, bs) =>
      let kind := fieldAt bs 24 1
      let c := fieldAt bs 26 2 % 8192
      let foreign : Bool := match s.instrHere with
        | some j => !s.th.cls.implements (groupOf j)
        | none => false
      let used := s.consume s.th.handle i
      if kind = 3 then
        some (.next (used.modThread s.th.handle fun t => { t.clearMix with arch := { t.arch with anchor := CoreClass.ofCode (fieldAt bs 28 4) }, calm := 0, away := false }))
      else if kind = 4 then some (.next (used.modThread s.th.handle (·.releaseAnchor)))
      else if kind = 5 ∨ (kind = 1 ∧ foreign) then none
      else if c = s.th.core.toNat then some (.next used)
      else if !s.couldHold s.th c then some s.schedDiverged
      else
        match used.atStop with
        | none => none
        | some s1 =>
          if s1.fits s1.th c then (s1.schedMigrateTo s1.th.handle c).map .next
          else some (.next (({ s1 with th := { s1.th with migrTo := some (BitVec.ofNat 13 c) } }).enterFifo s1.th.handle .b))

/-- SCHEDULER_MIGRATION (R18): at a boundary of the current thread, the move that a scheduling record enforces, or that
MIGH, R22 or R24 asks for; a request whose class is reached lapses (R176). -/
def execSchedulerMigration (s : State) : Step :=
  if !s.boundary then .next s
  else if s.actsOn s.th.handle = 2 ∧ !s.th.sup.level then (s.enforce).getD (.next s)
  else
    let k := s.wanted
    if k = .none then .next s
    else if k = s.th.cls then .next { s with th := { s.th with migh := .none } }
    else if s.moveStalls then .next (s.waitFor .moraine (s.instrHere.getD .nop)).advance
    else .next ((s.grantMove k).getD s)

/-- Whether the anchor of the current thread is to be released (R24); in replay a record decides. -/
def State.releaseDue (s : State) : Bool :=
  decide (s.th.arch.anchor ≠ .none) && decide (s.th.arch.mighold.toNat ≤ s.th.calm) && !s.th.sup.level &&
  decide (s.actsOn s.th.handle ≠ 2) && decide (s.th.place = .resident)

/-- ANCHOR_RELEASE (R24): `mighold` instructions without a proxy or a trap migration. -/
def execAnchorRelease (s : State) : Step := .next (if s.releaseDue then s.release.getD s else s)

/-! ### Proxies (R23, R25, R337) -/

/-- Whether the current thread's request is the oldest at its server, whose one proxy slot is free. -/
def State.servedNext (s : State) (server : BitVec 13) : Bool :=
  let mine := match s.th.wait with
    | some { kind := .proxy _ n, .. } => n
    | _ => 0
  s.others.all fun t =>
    match t.wait with
    | some { kind := .proxy x n, .. } => decide (x ≠ server) || decide (mine ≤ n)
    | some { kind := .served x, .. } => decide (x ≠ server)
    | _ => true

/-- PROXY_SERVICE (R25): the server takes the current thread's request in arrival order, and counts it. -/
def execProxyService (s : State) : Step :=
  match s.th.wait with
  | some { kind := .proxy c _, instr := i } =>
    if s.servedNext c then
      .next ({ s with th := { s.th with wait := some { kind := .served c, instr := i } } }.bump (0x50_0000 + 256 * c.toNat + 0x28) 1)
    else .next s
  | _ => .next s

/-- PROXY_RESULT (R23): the result returns; the instruction completes on the thread's own core with its full effect,
before anything else of the thread. -/
def execProxyResult (s : State) : Step :=
  match s.th.wait with
  | some { kind := .served _, .. } => .next { s with th := { s.th with wait := none, grant := true } }
  | _ => .next s

/-! ### Convoys and slice-watch stops (R32, R409) -/

/-- CONVOY_COMPLETE (R32). -/
def execConvoyComplete (s : State) : Step := .next s.completeConvoy

/-- Instructions that the thread's next unit may count. -/
def Thread.unitMost (t : Thread) : Nat := if t.cls = .vector then 8 else 1

/-- Whether the current thread takes its slice-watch stop now (R409): at user level, at a boundary of the device's choice
within the skid of 64, or as soon as it waits or is parked. -/
def State.sliceStopNow (s : State) : Bool :=
  match s.th.sliceStop with
  | none => false
  | some (_, _, n) =>
    !s.th.sup.level && !s.th.held && decide (s.th.place = .resident) &&
    ((s.th.parked.isSome || (s.th.wait.isSome && s.waitYields)) ||
      (s.boundary && (decide (64 < n + s.th.unitMost) || Config.pick s.tick 409)))

/-- SLICE_WATCH_STOP (R409): cause 0x0C with 0x100 + k, `taddr` the watched address. -/
def execSliceWatchStop (s : State) : Step :=
  match s.th.sliceStop with
  | some (k, a, _) =>
    if s.sliceStopNow then
      match s.atStop with
      | none => .next s.halt
      | some s1 =>
        let s2 := (s1.modDctx (handleDctx s1.th.handle) (·.withdraw s1.th.handle))
        let s3 := { s2 with th := { s2.th with sliceStop := none, parked := none } }
        .next (s3.trapAt 0x0C s3.th.arch.pc (BitVec.ofNat 64 (0x100 + k.toNat)) (va56 a) 0).advance
    else .next s
  | none => .next s

end Sys2Proof.Machine
end

