-- ==== Sys2Proof/Machine/Errors.lean ====
section
/-! DEFINITION. Detected errors and what they escalate to (R342 to R347, R350), partition resets with their abort and
status-3 records (R351 to R355), and the records that the rows of the command processor share (R320). -/

namespace Sys2Proof.Machine

/-! ### Detected errors (R342 to R347) -/

/-- A poisoned sector more. -/
def State.poisonSector (s : State) (q : Nat) : State := { s with poison := insertNat q s.poison }

/-- Puts a partition's reset on the agenda. -/
def State.askReset (s : State) (p : PartId) (reason : BitVec 8) : State :=
  { s with agenda := s.agenda ++ [.event .partitionReset (.reset p reason)] }

/-- Partitions. -/
def allParts : List PartId := [0, 1, 2, 3]

/-- The partition that a die's spoke belongs to. -/
def State.spokePart (s : State) (d : Nat) : Option PartId := allParts.find? fun p => (s.part p).spokes.getLsbD d

/-- The partition of a physical address, 0xFF where there is none. -/
def State.addrPart (s : State) (k : Nat) : Nat := ((allParts.find? fun p => s.installed p k).map (·.toNat)).getD 0xFF

/-- Resets partitions, and for a module-fatal error the module after them (R342). -/
def State.escalate (s : State) (ps : List PartId) (reason : BitVec 8) (module : Bool) : State :=
  let s1 := ps.foldl (fun (a : State) p => a.askReset p reason) s
  if module then { s1 with agenda := s1.agenda ++ [.event .moduleReset .none] } else s1

/-- The protection row, die, partition, unit and address of a unit in which an error lies (R356). -/
def State.unitPlace (s : State) (u : EccUnit) : Nat × Nat × Nat × Nat × BitVec 64 :=
  let ofThread (h : Handle) (row addr : Nat) : Nat × Nat × Nat × Nat × BitVec 64 :=
    match s.thread? h with
    | some t =>
      let c := t.core.toNat
      (row, coreDie c, s.partCode (handleDctx h), c - dieFirstCore (coreDie c), BitVec.ofNat 64 addr)
    | none => (row, 0, 0xFF, 0, BitVec.ofNat 64 addr)
  match u with
  | .memorySector q bank => ((s.cellPlace (48 * q)).1, (s.homeDie (48 * q)).getD 8, s.addrPart (48 * q), bank, (s.cellPlace (48 * q)).2)
  | .l2Sector d q slice => (2, d.toNat, ((s.spokePart d.toNat).map (·.toNat)).getD 0xFF, slice, BitVec.ofNat 64 (48 * q))
  | .cxlDirectory l bank => (1, 8, ((s.windowAt (192 * l)).map fun (_, w) => w.part.toNat).getD 0xFF, bank, BitVec.ofNat 64 (192 * l))
  | .exchangeFlit h k => ofThread h 9 k.toNat
  | .neveSector h q => ofThread h 4 (48 * q)
  | .gReg h r => ofThread h 5 r.toNat
  | .vWord h r w => ofThread h 5 (r.toNat + 64 * w.toNat)
  | .pReg h r => ofThread h 5 r.toNat
  | .deepWord h e w => ofThread h 5 (e.toNat + 256 * w.toNat)
  | .accElem h t e => ofThread h 6 (t.toNat * 1024 + e.toNat)
  | .saveHeader h => ofThread h 7 0
  | .l1Line c a => (3, coreDie c.toNat, ((s.spokePart (coreDie c.toNat)).map (·.toNat)).getD 0xFF, c.toNat - dieFirstCore (coreDie c.toNat), a)
  | .walkCache n => (8, 9, 0xFF, 0, BitVec.ofNat 64 n)
  | .directory d bank a => (1, d.toNat, ((s.spokePart d.toNat).map (·.toNat)).getD 0xFF, bank, a)
  | .cirqueQueue n => (8, 9, 0xFF, 0, BitVec.ofNat 64 n)

/-- An uncorrectable error in a save-area header holds a thread whose state lies there, with its record (R347). -/
def State.holdForHeader (s : State) (h : Handle) : State :=
  match s.thread? h, s.launchOf? h with
  | some t, some l =>
    if !t.inArea ∨ t.held then s
    else (s.queueFault (handleDctx h) (FaultRecord.header t (l.saveAddr (handleDense h)))).makeHeld h
  | _, _ => s

/-- An uncorrectable error in the header of a thread's save area. -/
def State.headerError (s : State) (h : Handle) : State :=
  match s.areaSpans h 0 48 with
  | some sp => ((sp.flatMap fun x => sectorsOf x.key x.len).foldl (fun (b : State) q => b.poisonSector q) s).holdForHeader h
  | none => s

/-- An uncorrectable error in a sector of memory: poison, and what R347 adds where it lies in a save-area header. -/
def State.sectorError (s : State) (q : Nat) : State :=
  match s.areaAt (48 * q) with
  | some (h, o) => if o < 256 then (s.poisonSector q).holdForHeader h else s.poisonSector q
  | none => s.poisonSector q

/-- The flits of the departure of a slot that is on its way arrive uncorrectable (R365). -/
def spoilDeparture (k : BitVec 8) : List Departure → List Departure
  | [] => []
  | d :: t => if d.slot = k ∧ d.sent then { d with bad := true } :: t else d :: spoilDeparture k t

/-- What an uncorrectable error does to its unit (R342, R344, R345). -/
def State.spoil (s : State) (u : EccUnit) : State :=
  -- the value that a stopped convoy restores is marked as well
  let mark (h : Handle) (f : RegPoison → RegPoison) : State := s.modThread h fun t =>
    { t with poison := f t.poison, convoy := t.convoy.map fun c => { c with savedPoison := f c.savedPoison } }
  match u with
  | .memorySector q _ | .l2Sector _ q _ => s.sectorError q
  | .neveSector h q => s.poisonSector ((windowBase + h.toNat * windowStep) / 48 + q)
  | .gReg h r => if r = 0 then s else mark h fun p => { p with g := p.g ||| (1 <<< r.toNat) }
  | .vWord h r w => mark h fun p => { p with v := p.v.set r.toNat (p.v[r.toNat] ||| (1 <<< w.toNat)) }
  | .pReg h r => if r = 0 then s else mark h fun p => { p with p := p.p ||| (1 <<< r.toNat) }
  | .deepWord h e w => mark h fun p =>
      if h : e.toNat < 192 then { p with deep := p.deep.set e.toNat (p.deep[e.toNat] ||| (1 <<< w.toNat)) } else p
  | .accElem h t e => mark h fun p => { p with acc := p.acc.set t.toNat (p.acc[t.toNat] ||| (1 <<< e.toNat)) }
  | .saveHeader h => s.headerError h
  | .l1Line .. => s
  | .walkCache n => { s with tlb := s.tlb.eraseIdx n }
  | .directory d .. =>
    match s.spokePart d.toNat with
    | some p => s.escalate [p] 0x02 false
    | none => s
  | .cxlDirectory l _ =>
    match s.windowAt (192 * l) with
    | some (_, w) => s.escalate [w.part] 0x02 false
    | none => s
  | .exchangeFlit h k => s.modThread h fun t => { t with departures := spoilDeparture k t.departures }
  | .cirqueQueue _ => s.escalate allParts 0x04 true

/-- The class of an uncorrectable error in a unit. -/
def uncorrectedClass (u : EccUnit) : Nat :=
  match u with
  | .l1Line .. | .walkCache _ => 1
  | .directory .. | .cxlDirectory .. => 4
  | .cirqueQueue _ => 5
  | _ => 2

/-- ECC_ERROR (R342): corrected and logged, or poisoning its unit, or escalating by its class. -/
def execEccError (s : State) : Step :=
  match s.ev with
  | .ecc u ok =>
    let (row, die, part, unit, addr) := s.unitPlace u
    let s1 := s.logError (if ok then 1 else uncorrectedClass u) die part row unit addr 0
    .next (if ok then s1 else s1.spoil u)
  | _ => .next s

/-- Link cycles since a spoke's link was keyed. -/
def State.sinceKeyed (s : State) (d : Nat) : Nat := s.lcc - (if h : d < 10 then s.mod.keyedAt[d] else 0)

/-- Tag groups that have left each end of a spoke's link since it was keyed: one in every 17 link cycles (R364). -/
def State.tagGroups (s : State) (d : Nat) : Nat := s.sinceKeyed d / 17

/-- Flits that have left each end of a spoke's link since it was keyed: 16 in every 17 link cycles (R364). -/
def State.flits (s : State) (d : Nat) : Nat := 16 * s.tagGroups d + min 16 (s.sinceKeyed d % 17)

/-- The GCM nonce of a tag group (R364): die, direction (0 toward the hub), and the number of groups sent before it. -/
def gcmNonce (die : BitVec 8) (toDie : Bool) (group : BitVec 64) : BitVec 96 := die ++ BitVec.ofBool toDie ++ 0#23 ++ group

/-- Logs an error of a die's link: its partition, flit number and tag group (R356). -/
def State.logLink (s : State) (cls d part : Nat) : State :=
  s.logWith cls d part 9 0 (BitVec.ofNat 64 (s.flits d)) 0 (BitVec.ofNat 64 (s.tagGroups d))

/-- LINK_CRC_RETRY (R350): the flit is sent again; a corrected error. -/
def execLinkCrcRetry (s : State) : Step :=
  match s.ev with
  | .die d => .next (s.logLink 1 d.toNat (((s.spokePart d.toNat).map (·.toNat)).getD 0xFF))
  | _ => .next s

/-- Agents whose messages pass a die's link: the host's port is the M-die's (R363, R369). -/
def linkAgents (d : Nat) : List AgentId := if d = 8 then [8, 9] else [BitVec.ofNat 4 d]

/-- Whether a departure of a thread crosses the link of a die. -/
def State.crossesLink (s : State) (t : Thread) (x : Departure) (d : Nat) : Bool :=
  match (s.switchTo t.handle).receiver x.slot with
  | some r =>
    decide (coreDie t.core.toNat ≠ coreDie r.bound.toNat) && (decide (coreDie t.core.toNat = d) || decide (coreDie r.bound.toNat = d))
  | none => false

/-- Nothing that a failed link still carries takes effect, nor what comes to it until it is keyed again (R364): messages, requests and
exchange data are lost; remote elements, and threads on their way, stay where they are. -/
def State.cutLink (s : State) (d : Nat) : State :=
  let lost (x : Departure) (t : Thread) : Bool := x.sent && s.crossesLink t x d
  let s1 := s.mapThreads fun t => { t with departures := t.departures.filter fun x => !lost x t }
  { s1 with
    mod := { s1.mod with linksDown := s1.mod.linksDown ||| (1 <<< d) }
    fab := { s.fab with
      toDie := s.fab.toDie.filter fun x => !(linkAgents d).contains x.1
      toHub := s.fab.toHub.filter fun x => !(linkAgents d).contains x.1
      asks := s.fab.asks.filter fun x => !(linkAgents d).contains x.agent } }

/-- LINK_INTEGRITY_FAILURE (R350): a spoke's link is fatal to its partition, the M-die's to every partition, and to the module where
no partition has an abort ring to report by (R342; log 141). -/
def execLinkIntegrityFailure (s : State) : Step :=
  match s.ev with
  | .die d =>
    if d = 8 then
      let mute := allParts.all fun p => (s.part p).abortRing.isNone
      let s1 := (s.logLink (if mute then 5 else 4) 8 0xFF).cutLink 8
      .next (s1.escalate allParts (if mute then 0x04 else 0x03) mute)
    else
      match s.spokePart d.toNat with
      | some p => .next (((s.logLink 4 d.toNat p.toNat).cutLink d.toNat).escalate [p] 0x03 false)
      | none => .next s
  | _ => .next s

/-- Link cycles in a millisecond (R360). -/
def linkMillisecond : Nat := 4400000

/-- Whether a stop request to a thread has not been honoured within 1 ms. -/
def State.lateStop (s : State) (t : Thread) : Bool := t.stopAsked.any fun at_ => decide (at_ + linkMillisecond ≤ s.lcc)

/-- The threads of a partition with such a request. -/
def State.lateStops (s : State) (p : PartId) : List Thread :=
  s.threads.filter fun t => s.lateStop t && decide (s.partOf t.handle = some p)

/-- STOP_WATCHDOG_EXPIRY (R352): a stop request not honoured within 1 ms resets its partition, reason 0x05. Its log entry (R356) names
no structure: row 8, that of no memory, and die 9 (DESIGN CHOICE, log 171). -/
def execStopWatchdogExpiry (s : State) : Step :=
  match s.ev with
  | .part p =>
    if (s.lateStops p).isEmpty then .next s
    else
      .next (((s.logError 4 9 p.toNat 8 0 0 0).mapThreads fun t =>
        if s.partOf t.handle = some p then { t with stopAsked := none } else t).escalate [p] 0x05 false)
  | _ => .next s

/-! ### Records of the command processor (R320) -/

/-- A launch completion record. -/
def launchRecord (status code : BitVec 8) (tag : BitVec 16) (ring : RingId) (dc : DctxId) (bad : Bool) (threads started cyc : Nat) :
    List (BitVec 8) :=
  [status, code] ++ leBytes 2 tag.toNat ++
  [if ring.toNat < 64 then BitVec.ofNat 8 ring.toNat else 0x3F, BitVec.ofNat 8 dc.toNat, if bad then 1 else 0, 1] ++
  leBytes 8 threads ++ leBytes 8 started ++ leBytes 8 cyc

/-! ### Partition reset (R351 to R355) -/

/-- An item of R351 without a report: kind, device context, handle, progress and object. -/
structure AbortItem where
  kind     : Nat
  dc       : Nat
  handle   : Nat
  progress : Nat
  object   : Nat
  deriving DecidableEq, Repr

/-- The abort record (R354). -/
def AbortItem.bytes (x : AbortItem) (reason : BitVec 8) (time : Nat) : List (BitVec 8) :=
  [BitVec.ofNat 8 x.kind, 1, BitVec.ofNat 8 x.dc, reason] ++ leBytes 4 x.handle ++ leBytes 8 x.progress ++ leBytes 8 x.object ++
  leBytes 8 time

def insertItem (x : AbortItem) : List AbortItem → List AbortItem
  | [] => [x]
  | y :: t => if x.handle < y.handle then x :: y :: t else y :: insertItem x t

/-- Items of one kind in ascending handle order. -/
def sortItems (xs : List AbortItem) : List AbortItem := xs.foldl (fun acc x => insertItem x acc) []

/-- Threads of device contexts. -/
def State.threadsOf (s : State) (ds : List Dctx) : List Thread :=
  s.threads.filter fun t => t.exists && ds.any fun d => decide (d.id = handleDctx t.handle)

/-- Launches of device contexts: those whose record has not been posted. -/
def State.launchesOf (s : State) (ds : List Dctx) : List Launch :=
  s.launches.filter fun l => ds.any fun d => decide (d.id = l.dc)

/-- A launch or copy in flight: its device context, completion ring and counter, its status-3 record, and its item. -/
structure InFlight where
  dc     : DctxId
  ring   : BitVec 64
  csig   : BitVec 64
  record : Bool → List (BitVec 8)
  item   : AbortItem

/-- The launches and copies of device contexts without a report (R351): launches, packets refused whose record waits, and requests. -/
def State.inFlight (s : State) (ds : List Dctx) : List InFlight :=
  ((s.launchesOf ds).map fun l =>
    { dc := l.dc, ring := l.cring, csig := l.csig
      record := fun bad => launchRecord 3 0 l.tag l.ring l.dc bad l.ended (l.started.getD 0) s.cyc
      item := { kind := 1, dc := l.dc.toNat, handle := l.slot.toNat * 2 ^ 22, progress := l.ended, object := l.header.toNat } }) ++
  (ds.flatMap fun d => d.heldItems.filterMap fun x => match x with
    | .packetRecord bytes cring csig (some header) _ =>
      some
        { dc := d.id, ring := cring, csig := csig
          record := fun bad => [3, 0] ++ ((bytes.drop 2).take 4) ++ [if bad then 1 else 0] ++ ((bytes.drop 7).take 17) ++ leBytes 8 s.cyc
          item := { kind := 1, dc := d.id.toNat, handle := 0, progress := 0, object := header.toNat } }
    | _ => none) ++
  ((s.threadsOf ds).flatMap fun t => t.bxq.map fun x =>
    { dc := handleDctx t.handle, ring := x.w3, csig := 0, record := fun bad => x.record 3 0 bad s.cyc
      item := { kind := 2, dc := (handleDctx t.handle).toNat, handle := t.handle.toNat, progress := x.done, object := x.w2.toNat } })

/-- Whether a record ring of a device context lies in host memory. -/
def State.inHost (s : State) (d : Dctx) (desc : BitVec 64) : Bool :=
  decide (desc ≠ 0) &&
  match s.readDesc d desc with
  | .ok (some r) =>
    match s.deviceSpans d (r.base + BitVec.ofNat 64 (32 * (r.wr.toNat % 2 ^ r.lg))) 32 false with
    | .ok sp => decide (hostBase ≤ firstKey sp) && decide (firstKey sp < windowBase)
    | .error _ => false
  | _ => false

/-- Posts the status-3 record of an item whose completion ring lies in host memory, with its counter's add; none where it lies
elsewhere or cannot take the record. A failure of the M-die's link does not keep it from the host (R352; DESIGN CHOICE, log 172). -/
def State.postAborted (s : State) (x : InFlight) : Option State :=
  match s.dctx? x.dc with
  | none => none
  | some d =>
    if !s.inHost d x.ring then none
    else
      let refused := decide (x.csig ≠ 0) && !(s.counterSpans d x.csig).isOk
      match s.postRing d x.ring 1 fun bad => x.record (bad || refused) with
      | .posted a => some (if x.csig = 0 then a else a.deviceAdd d x.csig 1)
      | _ => none

/-- Of items in flight, in their order, those that post a status-3 record, and those that get abort records. -/
def State.splitAborted (s : State) : List InFlight → List InFlight × List InFlight
  | [] => ([], [])
  | x :: t =>
    match s.postAborted x with
    | some a => let r := a.splitAborted t; (x :: r.1, r.2)
    | none => let r := s.splitAborted t; (r.1, x :: r.2)

/-- One remote element for each instruction that has some under way. -/
def firstOfEach : List RemoteElem → List RemoteElem
  | [] => []
  | e :: t =>
    let r := firstOfEach t
    if r.any fun x => decide (x.handle = e.handle) && decide (x.left = e.left) then r else e :: r

/-- The thread that waits for a page. -/
def State.pageWaiter (s : State) (dc : DctxId) (page : BitVec 64) : Nat :=
  let waits (t : Thread) : Bool :=
    decide (handleDctx t.handle = dc) &&
    ((match t.wait with
      | some { kind := .page va .., .. } => decide (va.toNat / 4096 = page.toNat)
      | _ => false) || t.bxq.any fun x => x.waitPage.any fun a => decide (a.toNat / 4096 = page.toNat))
  ((s.threads.find? waits).map fun t => t.handle.toNat).getD 0

/-- The items of fault records of a kind that have not been posted: an abort record stands for each (R351). -/
def Dctx.unposted (d : Dctx) (record : BitVec 8) (kind : Nat) : List AbortItem :=
  d.fqWait.filterMap fun r => if r.kind = record then r.item.map fun (h, p, o) =>
    { kind := kind, dc := d.id.toNat, handle := h, progress := p, object := o } else none

/-- The items of R351 of a partition's device contexts that get abort records, in the order of R354; some of its launches and copies
are given. -/
def State.abortItems (s : State) (ds : List Dctx) (work : List InFlight) : List AbortItem :=
  let ts := s.threadsOf ds
  let dcOf (h : Handle) : Nat := (handleDctx h).toNat
  let given (k : Nat) : List AbortItem := (work.map (·.item)).filter fun x => decide (x.kind = k)
  sortItems (given 1) ++ sortItems (given 2) ++
  sortItems (((firstOfEach (s.remote.filter fun e => ds.any fun d => decide (d.id = e.dc))).map fun e =>
    let left := (s.remote.filter fun x => decide (x.handle = e.handle) && decide (x.left = e.left)).length
    { kind := 3, dc := e.dc.toNat, handle := e.handle.toNat, progress := e.issued - left
      object := ((e.tag.map (·.toNat)).getD 0) + e.issued % 2 ^ 16 * 2 ^ 32 }) ++ ds.flatMap fun d => d.unposted 0x05 3) ++
  sortItems (ts.flatMap fun t => t.departures.map fun x =>
    { kind := 4, dc := dcOf t.handle, handle := t.handle.toNat, progress := x.frame, object := x.slot.toNat }) ++
  sortItems (ds.flatMap fun d => ((d.actions ++ d.firing.map (·.1)).map fun a =>
    { kind := 5, dc := d.id.toNat, handle := a.handle.toNat, progress := 0, object := a.counter.toNat }) ++ d.unposted 0x02 5) ++
  sortItems (ds.flatMap fun d => (d.pages.filter fun q => q.pri && !q.failed).map fun q =>
    { kind := 6, dc := d.id.toNat, handle := s.pageWaiter d.id q.page, progress := 0, object := q.page.toNat * 4096 })

/-- Bytes of host memory at a host I/O address (R354). -/
def State.hostBytes (s : State) (a : BitVec 64) (n : Nat) : List (BitVec 8) := readCells s.mem (hostBase + a.toNat) n
def State.hostPut (s : State) (a : BitVec 64) (bs : List (BitVec 8)) : State :=
  s.devicePut [{ key := hostBase + a.toNat, len := bs.length, leaf := 0 }] bs

/-- Posts one record to an abort ring by R163; a record that does not fit is counted in its descriptor. The answer counts
records written and dropped. -/
def State.postAbort (s : State) (desc : BitVec 64) (bytes : List (BitVec 8)) : State × Nat × Nat :=
  match ringDesc (s.hostBytes desc 48) with
  | none => (s, 0, 1)
  | some r =>
    if 2 ^ r.lg ≤ r.used then (s.hostPut (desc + 32) (leBytes 8 (r.dropped.toNat + 1)), 0, 1)
    else
      let s1 := s.hostPut (r.base + BitVec.ofNat 64 (32 * (r.wr.toNat % 2 ^ r.lg))) bytes
      let s2 := s1.hostPut (desc + 16) (leBytes 8 (r.wr.toNat + 1))
      if r.sig = 0 then (s2, 1, 0)
      else
        let old := leNat (s2.hostBytes r.sig 8)
        let new := (old + 1) % 2 ^ 64
        ((s2.hostPut r.sig (leBytes 8 new)).crossActions (hostBase + r.sig.toNat) old new, 1, 0)

/-- The abort records of a list, numbered upward; the host answers the requests for record n with an error where f holds (R354). -/
def State.postAborts (s : State) (desc : BitVec 64) (reason : BitVec 8) (f : Nat → Bool) : Nat → List AbortItem → State × Nat × Nat × Bool
  | _, [] => (s, 0, 0, true)
  | n, x :: t =>
    if f n then (s, 0, t.length + 1, false)
    else
      let (s1, w, d) := s.postAbort desc (x.bytes reason s.cyc)
      let (s2, w2, d2, ok) := s1.postAborts desc reason f (n + 1) t
      (s2, w + w2, d + d2, ok)

/-- The abort records, then the summary, in the partition's abort ring; or the summary's counts alone where R354 sends them
to the log. -/
def State.writeAborts (s : State) (p : PartId) (reason : BitVec 8) (f : Nat → Bool) (items : List AbortItem) : State × Nat × Nat :=
  match (if s.mod.linksDown.getLsbD 8 then none else (s.part p).abortRing) with
  | none => (s, 0, items.length)
  | some desc =>
    let (s1, w, n, ok) := s.postAborts desc reason f 0 items
    let last : AbortItem := { kind := 0x7F, dc := 0xFF, handle := p.toNat, progress := w, object := n }
    (if ok && !f items.length then (s1.postAbort desc (last.bytes reason s.cyc)).1 else s1, w, n)

/-- What is left of the module without a partition's device contexts (R353 step 5): no thread of theirs, launch, tag,
delivery or posting remains, nor their névé. -/
def State.destroy (s : State) (ds : List Dctx) : State :=
  let dead (dc : DctxId) : Bool := ds.any fun d => decide (d.id = dc)
  let deadKey (k : Nat) : Bool :=
    decide (windowBase ≤ k) && decide (k < parkBase) && dead (handleDctx (BitVec.ofNat 32 ((k - windowBase) / windowStep)))
  { s with
    th := if s.th.exists && dead (handleDctx s.th.handle) then Thread.start else s.th
    others := s.others.filter fun t => !dead (handleDctx t.handle)
    dctxs := s.dctxs.filter fun d => !dead d.id
    launches := s.launches.filter fun l => !dead l.dc
    remote := s.remote.filter fun e => !dead e.dc
    tags := s.tags.filter fun t => !dead (t.launch.extractLsb' 5 5)
    order := (s.order.map fun c => { c with users := c.users.filter fun u => !dead (u.extractLsb' 5 5) }).filter fun c => !c.users.isEmpty
    tlb := s.tlb.filter fun e => !dead e.dc
    host := s.host.filter fun h => s.dctxs.any fun d => !dead d.id && decide (d.part = h.part) && decide (d.pasid = h.pasid)
    mem := s.mem.filter fun c => !deadKey c.1
    hist := (s.hist.filter fun e => !deadKey e.key).map fun e => e.forget fun h => dead (handleDctx h)
    poison := s.poison.filter fun q => !deadKey (48 * q)
    outbox := s.outbox.filter fun x => match x with
      | .trace dc _ _ | .watch dc _ _ | .fire dc _ _ _ => !dead dc }

/-- The reset point and steps 1 to 5 of R353: reports of every item in flight, then nothing of the partition is left but
its memory; holdings that SET_PARTITION has chosen stand from now on. The log entry of the reset has row 0 and die 9 (R357; DESIGN
CHOICE, log 171). -/
def State.resetPoint (s : State) (p : PartId) (reason : BitVec 8) : State :=
  let ds := s.dctxsOf p none
  let s0 := s.modPart p fun x => { x with resetting := some (reason, s.cyc), resetAsked := none }
  let (hosted, rest) := s0.splitAborted (s0.inFlight ds)
  -- whether the host answers a request with an error is the host's (R354)
  let (s1, w, n) := s0.writeAborts p reason (fun k => Config.pick s.tick (35400 + k)) (s.abortItems ds rest)
  let s2 := hosted.foldl (fun (a : State) x => (a.postAborted x).getD a) s1
  let s3 := s2.logError 6 9 p.toNat 0 0 0 (BitVec.ofNat 64 (w % 2 ^ 32 + n % 2 ^ 32 * 2 ^ 32))
  (s3.destroy ds).modPart p fun x => match x.assign with
    | some (spokes, windows, ports, channels) => { x with spokes := spokes, windows := windows, ports := ports, channels := channels, assign := none }
    | none => x

/-- The host page that the status-3 record of an item of a partition needs, and that the host has not yet been asked for or has not
answered for: the record is posted to host memory (R352). A page request is not waited for. -/
def State.resetPage (s : State) (p : PartId) : Option (DctxId × BitVec 64 × Bool × Bool) :=
  (s.inFlight (s.dctxsOf p none)).findSome? fun (x : InFlight) =>
    (s.dctx? x.dc).bind fun d =>
      if x.ring = 0#64 then none
      else
        let needs : Option Trouble := match s.postRing d x.ring 1 fun bad => x.record bad with
          | .failed e => waitsPage (.error e : Except Trouble Unit)
          | _ => if x.csig = 0#64 then none else waitsPage (s.counterSpans d x.csig)
        match needs with
        | some (.page a w f) =>
          if d.pages.any fun q => decide (q.page.toNat = a.toNat / 4096) && (q.pri || q.failed) then none else some (x.dc, a, w, f)
        | _ => none

/-- Such a page that the host has still to be asked for, of a partition whose reset waits. -/
def State.resetAsks (s : State) : Option (DctxId × BitVec 64 × Bool × Bool) :=
  allParts.findSome? fun p =>
    if (s.part p).resetAsked.isNone then none
    else (s.resetPage p).bind fun (dc, a, w, f) =>
      if (s.dctx? dc).any fun d => d.pages.any fun q => decide (q.page.toNat = a.toNat / 4096) then none else some (dc, a, w, f)

/-- Whether a thread of a partition is on its way between two cores, and will arrive. -/
def State.inTransit (s : State) (p : PartId) : Bool :=
  (s.mod.linksDown &&& (s.part p).spokes = 0) && s.threads.any fun t => decide (t.place = .transit) && decide (s.partOf t.handle = some p)

/-- Whether the reset point of a partition has still to come: a thread of it is in transit (R20), or the translation of a host page that a
status-3 record needs (R352). -/
def State.resetHeld (s : State) (p : PartId) : Bool := s.inTransit p || (s.resetPage p).isSome

/-- A partition is to be reset: at once, or once nothing holds its reset point up; one under reset is already. -/
def State.requestReset (s : State) (p : PartId) (reason : BitVec 8) : State :=
  if (s.part p).resetting.isSome ∨ (s.part p).resetAsked.isSome then s
  else if s.resetHeld p then s.modPart p fun x => { x with resetAsked := some reason }
  else s.resetPoint p reason

/-- The first reset that has waited and need wait no longer. -/
def State.waitingReset (s : State) : Option (PartId × BitVec 8) :=
  allParts.findSome? fun p => if s.resetHeld p then none else (s.part p).resetAsked.map fun r => (p, r)

/-- A management command has ended: its return code and output stand in the registers where the CXL path ran it, and go out by I3C where
that one did; the next command of that path has its turn (R424). -/
def State.mbFinish (s : State) (op rc : Nat) (out : MbOutput := .none) (bytes : List (BitVec 8) := []) : State :=
  let m := s.mod
  let after : Module := { m with mbOut := out, mbWait := none, mbRun := none, mbHeld := none, mbQueue := m.mbQueue.tail }
  { s with
    agenda := (m.mbQueue.head?.map fun (i, x) => Turn.event i x).toList ++ s.agenda
    mod := if m.mbRun = some { i3c := false, op := BitVec.ofNat 16 op } then
        { after with mbGo := false, mbRc := BitVec.ofNat 16 rc, mbOlen := BitVec.ofNat 16 bytes.length, mbData := bytes ++ m.mbData.drop bytes.length }
      else { after with mbI3c := some (BitVec.ofNat 16 op, BitVec.ofNat 16 rc, bytes) } }

/-- A command of an opcode begins, or, while another runs, waits for it to end (R424): what it strikes stands in `ev`. -/
def State.command (s : State) (i : Instr) (op : Nat) (body : State → Step) : Step :=
  let m := s.mod
  if (m.mbRun.any fun r => decide (r.op.toNat ≠ op)) || m.mbWait.isSome || (m.mbHeld.any fun x => decide (x ≠ s.ev)) then
    .next { s with mod := { m with mbQueue := m.mbQueue ++ [(i, s.ev)] } }
  else body s

/-- A command goes on running: that of the CXL path, or, where none of its runs, one of the I3C path. -/
def Module.running (m : Module) (op : Nat) : Module :=
  { m with mbRun := some (m.mbRun.getD { i3c := true, op := BitVec.ofNat 16 op }) }

/-- Steps 6 to 8 of R353: the scrub, the keys of its spokes, of which a link may fail and leave its die absent (R366), the
carve-out chosen by SET_CARVEOUT (R368), ready. -/
def State.resetEnd (s : State) (p : PartId) : State :=
  let x := s.part p
  let clean : State := { s with
    mem := s.mem.filter fun c => !(decide (c.1 < hostBase) && s.installed p c.1)
    frames := s.frames.filter fun x => !s.installed p (196608 * x.1)
    hist := s.hist.filter fun e => !(decide (e.key < hostBase) && s.installed p e.key)
    poison := s.poison.filter fun q => !(decide (48 * q < hostBase) && s.installed p (48 * q))
    fab := { s.fab with
      dir := s.fab.dir.filter fun l => !s.installed p (192 * l.line)
      agents := s.fab.agents.filter fun l => !s.installed p (192 * l.line)
      toDie := s.fab.toDie.filter fun (_, l, _) => !s.installed p (192 * l)
      toHub := s.fab.toHub.filter fun (_, l, _) => !s.installed p (192 * l)
      asks := s.fab.asks.filter fun x => !s.installed p (192 * x.line) } }
  let m := clean.mod
  { clean with mod := { m with
      keyings := m.keyings.mapIdx fun i k => if x.spokes.getLsbD i then k + 1 else k
      keyedAt := m.keyedAt.mapIdx fun i k => if x.spokes.getLsbD i then s.lcc else k
      linksDown := m.linksDown &&& ~~~x.spokes
      present := m.present &&& ~~~(x.spokes &&& (Config.openField 21 s.tick 0).setWidth 10)
      carve := m.carve.mapIdx fun i c => if x.spokes.getLsbD i then m.carveNext else c } }.modPart p fun x => { x with resetting := none, images := [], cap := 16, metered := 0 }

/-- The partition is ready: the mailbox command that reset it returns (R424). -/
def State.resetReady (s : State) (p : PartId) : State :=
  let s1 := s.resetEnd p
  if s1.mod.mbWait = some p then s1.mbFinish ((s1.mod.mbRun.map fun r => r.op.toNat).getD 0x11) 0 else s1

/-- PARTITION_RESET (R353), in two steps: up to the destruction of the device contexts, for the reason given, and from the
scrub on, for a partition under reset. -/
def execPartitionReset (s : State) : Step :=
  match s.ev with
  | .reset p reason => .next (s.requestReset p reason)
  | .part p => .next (if (s.part p).resetting.isSome then s.resetReady p else s)
  | _ => .next s

end Sys2Proof.Machine
end

