-- ==== Sys2Proof/Machine/Answers.lean ====
section
/-! DEFINITION. The host's answers about translations (R303 to R305, R310), the fault queue (R309), firings of armed
actions (R110, R161), the postings of trace and slice-watch records (R402, R407), and threads that wait for moraine space
or for their turn (R383, R386). -/

namespace Sys2Proof.Machine

/-! ### The host's answers (R303 to R305, R310) -/

/-- The threads of a device context that wait for a page re-execute their instructions (R304). -/
def State.wakePage (s : State) (dc : DctxId) (page : BitVec 64) : State :=
  s.mapThreads fun t => if handleDctx t.handle = dc ∧ t.waitsFor page then { t with wait := none } else t

/-- The level of the leaf that delegates an address: of a translation still held, or of the tables. -/
def State.delegatedAt (s : State) (d : Dctx) (va : BitVec 64) : Nat :=
  match s.heldLeaves d va with
  | e :: _ => e.level
  | [] =>
    match s.walk d.part (pageNumber va) 2 d.ptroot.toNat with
    | .ok (_, level) => level
    | .error _ => 0

/-- ATS_COMPLETION (R303, R304): the host's translation of a page, with what it grants, or none where it grants nothing. A request
that it satisfies is over; one that it does not satisfy becomes a page request, or fails where page requests are not enabled. -/
def execAtsCompletion (s : State) : Step :=
  match s.ev with
  | .page dc va hpa r w x =>
    match s.dctx? dc with
    | none => .next s
    | some d =>
      let page := BitVec.ofNat 64 (va.toNat / 4096)
      let entry : HostPage := { part := d.part, pasid := d.pasid, page := page, hpa := hpa, r := r, w := w, x := x, level := s.delegatedAt d va }
      let others := s.host.filter fun e => !(decide (e.part = d.part) && decide (e.pasid = d.pasid) && decide (e.page = page))
      let s1 := { s with host := others ++ (if r || w || x then [entry] else []) }
      let granted (q : PageRequest) : Bool :=
        !q.failed && decide (q.page = page) && (if q.write then w else if q.fetch then x else r)
      let asked (q : PageRequest) : Bool := !q.failed && !q.pri && decide (q.page = page)
      if d.pages.any granted then
        .next ((s1.modDctx dc fun d => { d with pages := d.pages.filter fun q => !granted q }).wakePage dc page)
      else if !d.pages.any asked then .next s1
      else if s.mod.pri then
        .next (s1.modDctx dc fun d => { d with pages := d.pages.map fun q => if asked q then { q with pri := true, asked := s.nextAsked } else q })
      else .next ((s1.refusePage dc page).wakePage dc page)
  | _ => .next s

/-- PRI_RESPONSE (R304): Success retries the translation, for which the host is asked again; any other answer fails the access with reason 0x06 or 0x14. -/
def execPriResponse (s : State) : Step :=
  match s.ev with
  | .answer dc va a =>
    match s.dctx? dc with
    | none => .next s
    | some d =>
      let page := BitVec.ofNat 64 (va.toNat / 4096)
      let mine (q : PageRequest) : Bool := decide (q.page = page) && s.outstanding d q
      if !d.pages.any mine then .next s
      else
        let retried : State := { s.modDctx dc fun d => { d with pages := d.pages.filter fun q => !mine q } with
          host := s.host.filter fun e => !(decide (e.part = d.part) && decide (e.pasid = d.pasid) && decide (e.page = page)) }
        .next ((if a = .success then retried else s.refusePage dc page).wakePage dc page)
  | _ => .next s

/-- An invalidation by the host, whose completion is sent once every access that the removed translations served has performed. -/
def State.owesInvalidation (s : State) (dc : DctxId) (ds : List Dctx) (retry : Bool) : State :=
  s.modDctx dc fun d => { d with invals := d.invals ++ [{ dctxs := ds.map (·.id), since := s.lcc, retry := retry }] }

/-- ATS_INVALIDATION (R305): the host's pages in the range are gone from every structure of the partition. -/
def execAtsInvalidation (s : State) : Step :=
  match s.ev with
  | .pages dc va count =>
    match s.dctx? dc with
    | none => .next s
    | some d =>
      let ds := s.dctxsOf d.part (some d.pasid.toNat)
      let lo := va.toNat / 4096
      .next ((s.removeTranslations ds (fun _ => false) fun h => decide (lo ≤ h.page.toNat) && decide (h.page.toNat < lo + count)).owesInvalidation
        dc ds false)
  | _ => .next s

/-- HOST_INVALIDATION_REQUEST (R310): the effect of TLBINV, of all translations of the partition or of the leaf that
covers an address. -/
def execHostInvalidationRequest (s : State) : Step :=
  match s.ev with
  | .invalidate dc va =>
    match s.dctx? dc with
    | none => .next s
    | some d =>
      match va with
      | none =>
        let ds := s.dctxsOf d.part none
        .next ((s.removeTranslations ds (fun _ => true) fun _ => true).owesInvalidation dc ds true)
      | some a =>
        let ds := s.dctxsOf d.part (some d.pasid.toNat)
        .next ((s.removeTranslations ds (fun e => e.covers a) fun h => s.hostCovered ds h a).owesInvalidation dc ds true)
  | _ => .next s

/-- The first invalidation by the host of a device context whose completion can be sent. -/
def State.invalidationDue (s : State) (d : Dctx) : Option Invalidation :=
  d.invals.find? fun x => !s.servedBefore x.dctxs x.since

/-- Its completion is sent, and held device accesses are tried again where it has TLBINV's effect (R305, R310, R435). -/
def State.sendInvalidation (s : State) (d : Dctx) (x : Invalidation) : State :=
  let s1 := s.modDctx d.id fun d => { d with invals := d.invals.erase x, invalsSent := d.invalsSent + 1 }
  if x.retry then s1.retryAll (s.dctxsOf d.part none) else s1

/-! ### The fault queue (R309) -/

/-- FAULT_RECORD_POST (R309): the first waiting record of a device context is posted, or has waited; a thread whose record
of kind 0x06 has been posted ends (R390). -/
def execFaultRecordPost (s : State) : Step :=
  match s.ev with
  | .dctx dc =>
    match (s.dctx? dc).bind fun d => d.fqWait.head? with
    | none => .next s
    | some r =>
      let s1 := s.faultRecordPost dc
      let posted := match (s.dctx? dc).map fun d => s.postFault d r with
        | some (.posted _) => true
        | _ => false
      .next (if posted && decide (r.kind = 0x06) then s1.endNow r.handle else s1)
  | _ => .next s

/-! ### Firings (R110, R161, R162, R377) -/

/-- The post record (R163). -/
def postRecord (dc : DctxId) (a : Action) (value : BitVec 64) : List (BitVec 8) :=
  [0x80, 0x01] ++ leBytes 2 dc.toNat ++ zeros 4 ++ leBytes 8 a.counter.toNat ++ leBytes 8 a.threshold.toNat ++ leBytes 8 value.toNat

/-- The block-transfer requests of whose completion a cell reports (R101). -/
def State.reportedAt (s : State) (key : Nat) : List Nat :=
  (s.reports.filter fun r => decide (r.key ≤ key) && decide (key < r.key + r.len)).map (·.request)

/-- A record that an action at a counter posts reports of what the counter reports of (R100, R101). -/
def State.passReport (s : State) (key : Nat) (cells : List (Nat × Nat)) : State :=
  { s with reports := s.reports ++ (s.reportedAt key).flatMap fun q => cells.map fun (k, n) => { request := q, key := k, len := n } }

/-- Threads waiting in SIGWAIT on a counter complete, whatever their thresholds (R161); they have waited on what it reports of (R101). -/
def State.wakeWaiters (s : State) (key : Nat) : State :=
  let on (t : Thread) : Bool :=
    match t.wait with
    | some { kind := .signal, instr := .sigwait _ a _ } =>
      match s.dctx? (handleDctx t.handle) with
      | some d => s.keyOf d t.handle t.arch.g[a.toNat] = some key
      | none => false
    | _ => false
  s.mapThreads fun t => if on t then { t with told := t.told ++ s.reportedAt key, wait := t.wait.map fun w => { w with kind := .woken key } } else t

/-- The effect of a firing, or why it cannot be had now (R161). -/
def State.fireEffect (s : State) (d : Dctx) (a : Action) (value : BitVec 64) : Except Trouble State :=
  match a.kind with
  | 0 => .ok (s.wakeWaiters a.key)
  | 1 =>
    match s.postRing d a.arg 1 fun _ => postRecord d.id a value with
    | .posted s1 => .ok (s1.passReport a.key (s.reportCells d a.arg))
    | .full => .ok (s.countDropped d a.arg)
    | .invalid => .error (.fail ((Config.openField 7 s.tick 0).setWidth 8) a.arg false false false)
    | .failed e => .error e
  | _ =>
    match s.deviceRead d a.arg 64 with
    | .error e => .error e
    | .ok (bs, _) =>
      .ok (s.modDctx d.id fun d =>
        { d with submitted := d.submitted ++ [{ bytes := bs, prio := min (fieldAt bs 2 1) d.pmax, atHead := none }] })

/-- The record of a firing at its SIGARM's thread (R377, R378). -/
def firingRecord (event : BitVec 64) (bs : List (BitVec 8)) : Bool :=
  decide (recordType bs = 5) && decide (fieldAt bs 8 8 = event.toNat)

/-- The item of a firing. Its digest, which no rule computes, is a free function of the action and the counter's value (log 20). -/
def Action.item (a : Action) (value : BitVec 64) (order : Option (BitVec 32)) : EventItem :=
  { type := 5, op := a.kind, elem := 0, va := a.counter, object := a.key / 48
    digest := (Config.openField 9 (a.counter.toNat + 2 ^ 64 * a.threshold.toNat) value.toNat).setWidth 32
    order := some (order.getD ((Config.openField 8 (a.counter.toNat + 2 ^ 64 * a.threshold.toNat) value.toNat).setWidth 32)) }

def State.logFiring (s : State) (a : Action) (value : BitVec 64) (order : Option (BitVec 32)) : State :=
  match a.event with
  | none => s
  | some e => s.deviceLog a.handle e (a.item value order) (firingRecord e)

/-- A fault of a firing discards the action, with its record of kind 0x02 and, for poison, a contained error (R161). -/
def State.firingFault (s : State) (d : Dctx) (e : Trouble) (item : Option (Nat × Nat × Nat) := none) : State :=
  match e with
  | .fail reason addr w f ats =>
    let r : FaultRecord := { FaultRecord.plain 0x02 (reasonCause reason) reason 0 addr with
      flags := BitVec.ofNat 8 ((if w then 1 else 0) + (if f then 2 else 0) + (if ats then 4 else 0)), item := item }
    let x := s.cellPlace (s.poisonCell d none reason addr)
    let s1 := if reason = 0x33 then s.logError 2 9 d.part.toNat x.1 0 x.2 0 else s.logPoison d.id 9 0 none reason addr
    (s1.modDctx d.id (·.dropPage addr)).actionFault d.id r
  | _ => s

/-- Whether a firing's moraine record may be made now (R383), or its turn has come in replay (R438). -/
def State.firingMay (s : State) (a : Action) : Bool :=
  match a.event with
  | none => true
  | some e => s.deviceMay a.handle (firingRecord e) (a.key / 48)

/-- An action fires: its effect and record, its discarding, or a wait in the device context's list. -/
def State.fire (s : State) (dc : DctxId) (a : Action) (value : BitVec 64) (order : Option (BitVec 32)) : State :=
  match s.dctx? dc with
  | none => s
  | some d =>
    let later (s : State) : State := s.modDctx dc fun d => { d with firing := d.firing ++ [(a, value, order)] }
    if !s.firingMay a then later s
    else
      match s.fireEffect d a value with
      | .ok s1 => s1.logFiring a value order
      | .error (.page va w f) => later (s.askPage dc va w f)
      -- a post record whose posting fails is counted where it can be (R435)
      | .error e => (if a.kind = 1 then s.countDropped d a.arg else s).firingFault d e (some (a.handle.toNat, 0, a.counter.toNat))

/-- Tries the firings that wait in a device context again, each once. -/
def State.refire (s : State) (dc : DctxId) : State :=
  match s.dctx? dc with
  | none => s
  | some d => d.firing.foldl (fun (a : State) (x, v, o) => a.fire dc x v o) (s.modDctx dc fun d => { d with firing := [] })

/-- Whether a waiting firing of a device context could go on. -/
def State.refireMay (s : State) (d : Dctx) : Bool :=
  d.firing.any fun (a, v, _) => s.firingMay a && (match s.fireEffect d a v with
    | .error (.page va _ _) => !d.pages.any fun q => decide (q.page.toNat = va.toNat / 4096) && !q.failed
    | _ => true)

/-! ### Postings in their order (R402, R407, R408) -/

/-- Whether a posting waits for the host's answer to a page request that its ring needs (R304). -/
def State.postingWaits (s : State) (x : Posting) : Bool :=
  let blocked (dc : DctxId) (desc : BitVec 56) (bytes : List (BitVec 8)) : Bool :=
    match s.dctx? dc with
    | some d =>
      match s.postRing d (va56 desc) (bytes.length / 32) fun _ => bytes with
      | .failed (.page a _ _) => d.pages.any fun q => decide (q.page.toNat = a.toNat / 4096) && !q.failed
      | _ => false
    | none => false
  match x with
  | .trace dc desc bytes => blocked dc desc bytes
  | .watch dc bytes _ => ((s.dctx? dc).map fun d => blocked dc d.dwdesc bytes).getD false
  | .fire .. => false

/-- Makes one posting. A slice-watch record that comes more than 96 hub cycles after its time is discarded; one that is
posted sets line 11. A posting whose ring needs a host page asks for it and stays. -/
def State.makePosting (s : State) (x : Posting) : State :=
  let post (d : Dctx) (desc : BitVec 56) (bytes : List (BitVec 8)) : State × Bool :=
    match s.postRing d (va56 desc) (bytes.length / 32) fun _ => bytes with
    | .failed (.page a w f) => ({ s.askPage d.id a w f with outbox := x :: s.outbox }, false)
    | _ => s.postOrDrop d (va56 desc) (bytes.length / 32) bytes
  match x with
  | .trace dc desc bytes =>
    match s.dctx? dc with
    | some d => (post d desc bytes).1
    | none => s
  | .watch dc bytes time =>
    match s.dctx? dc with
    | some d =>
      if d.dwdesc = 0 ∨ time + 96 < s.cyc then s
      else
        let (s1, ok) := post d d.dwdesc bytes
        if ok then s1.raiseLine dc 11 else s1
    | none => s
  | .fire dc a value order => s.fire dc a value order

/-- The ring of a posting, by its device context and descriptor: its records are posted in their order (R403, R408). -/
def State.postingRing (s : State) (x : Posting) : Option (DctxId × BitVec 56) :=
  match x with
  | .trace dc desc _ => some (dc, desc)
  | .watch dc _ _ => (s.dctx? dc).map fun d => (dc, d.dwdesc)
  | .fire .. => none

/-- The first posting of a list that waits neither for a page nor behind one that does. -/
def State.firstPosting (s : State) : List (Option (DctxId × BitVec 56)) → List Posting → Option Posting
  | _, [] => none
  | held, x :: t =>
    let ring := s.postingRing x
    if ring.isSome && held.contains ring then s.firstPosting held t
    else if s.postingWaits x then s.firstPosting (ring :: held) t
    else some x

/-- The first posting of the list that waits for nothing, and the others. -/
def State.nextPosting (s : State) : Option (Posting × List Posting) :=
  (s.firstPosting [] s.outbox).map fun x => (x, s.outbox.erase x)

/-- Makes that posting. -/
def State.deliverPosting (s : State) : State :=
  match s.nextPosting with
  | some (x, t) => { s with outbox := t }.makePosting x
  | none => s

/-! ### Moraine space and turns (R383, R386) -/

/-- Posts records that a thread still owes, while there is room. -/
def State.payDebt (s : State) (h : Handle) : Nat → State
  | 0 => s
  | n + 1 =>
    match (s.thread? h).bind fun t => t.moraineDebt.head? with
    | none => s
    | some bytes =>
      match s.postMoraine (handleDctx h) bytes with
      | some s1 => (s1.modThread h fun t => { t with moraineDebt := t.moraineDebt.drop 1 }).payDebt h n
      | none => s

def Thread.waitsKind (t : Thread) (k : WaitKind) : Bool :=
  match t.wait with
  | some w => decide (w.kind = k)
  | none => false

/-- MORAINE_RING_SPACE (R383): once the ring of a device context has room, what its threads owe is posted, and threads
that wait for space execute their instructions again. -/
def execMoraineRingSpace (s : State) : Step :=
  match s.ev with
  | .dctx dc =>
    match s.dctx? dc with
    | none => .next s
    | some d =>
      if !s.ringRoom d 1 then .next s
      else
        let mine (t : Thread) : Bool := decide (handleDctx t.handle = dc)
        let s1 := (s.threads.filter fun t => mine t && !t.moraineDebt.isEmpty).foldl
          (fun (a : State) t => a.payDebt t.handle t.moraineDebt.length) s
        .next (if s1.owes dc then s1 else s1.mapThreads fun t => if mine t && t.waitsKind .moraine then { t with wait := none } else t)
  | _ => .next s

/-- REPLAY_TURN (R386, R391): the current thread, waiting for its turn at an object, tries its access again. -/
def execReplayTurn (s : State) : Step :=
  .next (if s.th.waitsKind .replay && (decide (s.actsOn s.th.handle = 2) || s.replayNext) then { s with th := { s.th with wait := none } } else s)

end Sys2Proof.Machine
end

