-- ==== Sys2Proof/Machine/Branch.lean ====
section
/-! DEFINITION. Branches, jumps and hardware loops (R144, R145, R146). -/

namespace Sys2Proof.Machine

/-- A conditional branch by a 16-bit word offset (R144). -/
def branch (i : Instr) (d a : BitVec 5) (o : BitVec 16) (f : BitVec 64 → BitVec 64 → Bool) (s : State) : Step :=
  issue i s fun s => if f (s.g d) (s.g a) then .jump s (s.th.arch.pc + (o.signExtend 64 <<< 2)) else .next s

def execBeq (d a : BitVec 5) (o : BitVec 16) (s : State) : Step := branch (.beq d a o) d a o (fun x y => decide (x = y)) s
def execBne (d a : BitVec 5) (o : BitVec 16) (s : State) : Step := branch (.bne d a o) d a o (fun x y => decide (x ≠ y)) s
def execBlt (d a : BitVec 5) (o : BitVec 16) (s : State) : Step := branch (.blt d a o) d a o (fun x y => x.slt y) s
def execBge (d a : BitVec 5) (o : BitVec 16) (s : State) : Step := branch (.bge d a o) d a o (fun x y => !x.slt y) s
def execBltn (d a : BitVec 5) (o : BitVec 16) (s : State) : Step := branch (.bltn d a o) d a o (fun x y => x.ult y) s
def execBgen (d a : BitVec 5) (o : BitVec 16) (s : State) : Step := branch (.bgen d a o) d a o (fun x y => !x.ult y) s

def execJmp (d : BitVec 5) (o : BitVec 21) (s : State) : Step :=
  issue (.jmp d o) s fun s => .jump (s.setG d (s.th.arch.pc + 4)) (s.th.arch.pc + (o.signExtend 64 <<< 2))

def execJr (d a : BitVec 5) (o : BitVec 16) (s : State) : Step :=
  issue (.jr d a o) s fun s =>
    let t := s.g a + o.signExtend 64
    if t.toNat % 4 ≠ 0 then .trouble s (misaligned t) none else .jump (s.setG d (s.th.arch.pc + 4)) t

/-- LP with count n and end offset o (R146); a body skipped is a transfer of control. -/
def openLoop (i : Instr) (n : BitVec 32) (o : BitVec 15) (s : State) : Effect :=
  let pc := s.th.arch.pc
  let last := pc + (o.setWidth 64 <<< 2)
  if n = 0 then .jump s (last + 4)
  else if 6 ≤ s.th.arch.loops.length then .trouble s (illegalTrap i) none
  else .next { s with th := { s.th with arch :=
    { s.th.arch with loops := { start := pc + 4, last := last, count := n } :: s.th.arch.loops } } }

def execLp (a : BitVec 5) (o : BitVec 15) (s : State) : Step :=
  issue (.lp a o) s fun s => openLoop (.lp a o) ((s.g a).setWidth 32) o s
def execLpImmediate (n : BitVec 5) (o : BitVec 15) (s : State) : Step :=
  issue (.lpImmediate n o) s fun s => openLoop (.lpImmediate n o) (n.setWidth 32) o s

end Sys2Proof.Machine
end

