-- ==== Sys2Proof/Machine/Header.lean ====
section
/-! DEFINITION. What the command processor reads of a launch: header, floe image and tables (R133 to R137, R321, R324,
R433), the judgement of the tree (R35 to R47), and its binding (R27, R41, R42, R329). -/

namespace Sys2Proof.Machine

/-! ### Reads (R304, R324) -/

/-- Why a launch's fetch stops: a refusal, with the reason and the address of a read that failed, or a wait. -/
inductive FetchStop where
  | refuse (code : BitVec 8) (failed : Option (BitVec 8 × BitVec 64))
  | wait (t : Trouble)

/-- n bytes at an address through the device context, or the refusal code of a failed read. -/
def State.fetchBytes (s : State) (d : Dctx) (a : BitVec 64) (n : Nat) (code : BitVec 8) : Except FetchStop (List (BitVec 8)) :=
  if n = 0 then .ok []
  else
    match s.deviceRead d a n with
    | .ok (bs, _) => .ok bs
    | .error (.fail r x _ _ _) => .error (.refuse code (some (r, x)))
    | .error e => .error (.wait e)

/-- Refuses with a code unless a condition holds. -/
def require (ok : Bool) (code : BitVec 8) : Except FetchStop Unit := if ok then .ok () else .error (.refuse code none)

def zeroBytes (bs : List (BitVec 8)) : Bool := bs.all fun b => decide (b = 0)

/-! ### Tables (R135, R433) -/

/-- A tree-table entry: fan-out, whether it is `vl`, physical code, domains on the level. -/
structure TreeRow where
  fanout  : Nat
  vl      : Bool
  phys    : Nat
  domains : Nat
  bad     : Bool

def treeRow (bs : List (BitVec 8)) : TreeRow :=
  let f := fieldAt bs 0 4
  let p := fieldAt bs 4 1
  { fanout := if f = 0xFFFF_FFFF then 0 else f, vl := decide (f = 0xFFFF_FFFF), phys := p, domains := fieldAt bs 5 1
    bad := decide (fieldAt bs 6 2 ≠ 0) || (decide (7 < p) && decide (p ≠ 0xFF)) }

/-- A domain-table entry. -/
structure DomainRow where
  level  : Nat
  number : Nat
  map    : BitVec 64
  bad    : Bool

def domainRow (bs : List (BitVec 8)) : DomainRow :=
  { level := fieldAt bs 0 1, number := fieldAt bs 1 1, map := BitVec.ofNat 64 (fieldAt bs 8 8), bad := !zeroBytes ((bs.take 8).drop 2) }

/-- A slot-table entry of a plan, and whether a reserved byte is non-zero. -/
def slotRow (bs : List (BitVec 8)) : PlanSlot × Bool :=
  ({ k := fieldAt bs 0 1, start := fieldAt bs 2 2, window := fieldAt bs 4 2, owner := fieldAt bs 8 2, peer := fieldAt bs 10 2
     dest := fieldAt bs 12 4 }, decide (fieldAt bs 1 1 ≠ 0) || decide (fieldAt bs 6 2 ≠ 0))

/-- The tables that a launch takes, and whether the plan has a reserved byte set. -/
structure Tables where
  tree    : List TreeRow
  domains : List DomainRow
  frame   : Nat
  slots   : List PlanSlot
  slotBad : Bool

def rowsOf {α : Type} (f : List (BitVec 8) → α) (size : Nat) (bs : List (BitVec 8)) : List α := (chunks size (bs.length + 1) bs).map f

/-! ### The header (R321, R324) -/

/-- The fields of R321 that stand alone, checked as far as step 1 of R324 needs only the header. -/
structure LaunchHeader where
  bytes : List (BitVec 8)

def LaunchHeader.at (h : LaunchHeader) (off n : Nat) : Nat := fieldAt h.bytes off n
def LaunchHeader.mode (h : LaunchHeader) : Nat := h.at 4 4 % 4
def LaunchHeader.treeHere (h : LaunchHeader) : Bool := (h.at 4 4).testBit 2
def LaunchHeader.slotsHere (h : LaunchHeader) : Bool := (h.at 4 4).testBit 3
def LaunchHeader.addr (h : LaunchHeader) (off : Nat) : BitVec 64 := BitVec.ofNat 64 (h.at off 8)
/-- Dependences with a counter (R326). -/
def LaunchHeader.deps (h : LaunchHeader) : List (BitVec 64 × BitVec 64) :=
  ((List.range 4).map fun i => (h.addr (0x80 + 16 * i), h.addr (0x88 + 16 * i))).filter fun x => decide (x.1 ≠ 0)

/-- Greatest névé window (R134). -/
def neveMost : Nat := 261888

/-- Whether a header's own fields are sound (R324 step 1); log 40: a later minor is read as minor 0 is. -/
def LaunchHeader.sound (h : LaunchHeader) : Bool :=
  let vl (x : Nat) : Bool := decide (x = 0) || (decide (7 ≤ x) && decide (x ≤ 11))
  decide (h.at 0 2 = 1) && decide (h.mode ≠ 3) && decide (h.at 4 4 < 16) && decide (h.at 0x5A 2 = 0) && decide (h.at 0x79 1 = 0) &&
  decide (0 < h.at 0x58 2) && decide (h.at 0x58 2 < 1024) && vl (h.at 0x12 1) && vl (h.at 0x13 1) &&
  decide (h.at 0x20 8 % 192 = 0) && decide (h.at 0x28 8 % 192 = 0) && decide (h.at 0x48 8 % 192 = 0) &&
  decide (h.at 0x14 4 % 192 = 0) && decide (h.at 0x14 4 ≤ neveMost) &&
  (h.deps.all fun (a, _) => decide (a.toNat % 8 = 0)) &&
  !(h.slotsHere && decide (h.at 0x7E 2 = 0) && decide (h.at 0x7C 2 ≠ 0))

/-- A recording launch must find a valid `mrdesc` (R382). -/
def State.canRecord (s : State) (d : Dctx) : Except FetchStop Unit :=
  if d.mrdesc = 0 then .error (.refuse 0x0A none)
  else
    match s.readDesc d (va56 d.mrdesc) with
    | .ok (some _) => .ok ()
    | .error (.page a w f) => .error (.wait (.page a w f))
    | _ => .error (.refuse 0x0A none)

/-- The header at an address, with the tables it names (R324 step 1). -/
def State.readHeader (s : State) (d : Dctx) (a : BitVec 64) :
    Except FetchStop (LaunchHeader × Option (List TreeRow × List DomainRow) × Option (Nat × List (PlanSlot × Bool))) := do
  let bs ← s.fetchBytes d a 192 0x0A
  let h : LaunchHeader := { bytes := bs }
  require h.sound 0x0A
  (if h.mode = 1 then s.canRecord d else .ok ())
  let tree ←
    if h.treeHere then do
      let t ← s.fetchBytes d (h.addr 0x60) (8 * h.at 0x78 1) 0x0A
      let m ← s.fetchBytes d (h.addr 0x68) (16 * h.at 0x7A 2) 0x0A
      let rows := rowsOf treeRow 8 t
      let doms := rowsOf domainRow 16 m
      require (rows.all (fun r => !r.bad) && doms.all fun r => !r.bad) 0x0A
      .ok (some (rows, doms))
    else .ok none
  let slots ←
    if h.slotsHere then do
      let b ← s.fetchBytes d (h.addr 0x70) (16 * h.at 0x7C 2) 0x0A
      .ok (some (h.at 0x7E 2, rowsOf slotRow 16 b))
    else .ok none
  .ok (h, tree, slots)

/-! ### The image (R135, R136) -/

/-- What a launch takes of an image. -/
structure ImageInfo where
  groups : BitVec 8
  vlmin  : Nat
  vlmax  : Nat
  deep   : Bool
  sfixed : Nat
  svl    : Nat
  pvl    : Nat
  neve   : Nat
  entry  : BitVec 64
  tables : Tables

/-- Whether a table of n entries lies within an image at a multiple of 8. -/
def tableFits (off n size whole : Nat) : Bool := decide (off % 8 = 0) && decide (off + n * size ≤ whole)

/-- The image header's own checks. -/
def imageSound (b : List (BitVec 8)) (entry : Nat) : Bool :=
  let f (off n : Nat) : Nat := fieldAt b off n
  let whole := f 0x3C 4
  decide (f 0 4 = 0x454F_4C46) && decide (f 4 2 = 1) && decide (f 8 4 = 0) && zeroBytes (b.drop 0x40) && decide (f 0x10 1 < 2) &&
  decide (f 0x0D 1 = 0) && (f 0x0C 1).testBit 0 && !(f 0x0C 1).testBit 1 && !(f 0x0C 1).testBit 7 &&
  decide (7 ≤ f 0x0E 1) && decide (f 0x0E 1 ≤ f 0x0F 1) && decide (f 0x0F 1 ≤ 11) && decide (f 0x1C 4 % 192 = 0) &&
  decide (f 0x1C 4 ≤ neveMost) &&
  tableFits (f 0x24 4) (f 0x11 1) 8 whole && tableFits (f 0x28 4) (f 0x12 2) 16 whole && tableFits (f 0x2C 4) (f 0x22 2) 16 whole &&
  tableFits (f 0x30 4) (f 0x34 2) 16 whole && tableFits (f 0x38 4) (f 0x36 2) 24 whole && decide (entry < f 0x34 2)

/-- Whether a section entry keeps R135: a known kind, an alignment that divides 196,608, and a file offset that is a multiple
of 8 and 0 for the kind zero. A bad alignment is refused like a bad offset (DESIGN CHOICE, log 145). -/
def sectionSound (x : List (BitVec 8)) : Bool :=
  decide (fieldAt x 0 4 ≤ 4) && decide (196608 % fieldAt x 4 4 = 0) && decide (fieldAt x 8 4 % 8 = 0) &&
  (decide (fieldAt x 0 4 ≠ 3) || decide (fieldAt x 8 4 = 0))

/-- Whether an entry of the entry table keeps R135 for a text section: its offset is a multiple of 4 within the section. -/
def entrySound (text e : List (BitVec 8)) : Bool := decide (fieldAt e 0 8 % 4 = 0) && decide (fieldAt e 0 8 < fieldAt text 12 4)

/-- The image at an address, with the tables that the header does not bring (R136, R137). Its load base is its own address,
so the first text section starts at its offset from there, and an image whose frame is 0 while its nslot is not is
refused where the slot plan is taken from it, not where the tree alone is (DESIGN CHOICE, log 145). -/
def State.readImage (s : State) (d : Dctx) (a : BitVec 64) (entry : Nat) (tree : Option (List TreeRow × List DomainRow))
    (slots : Option (Nat × List (PlanSlot × Bool))) : Except FetchStop ImageInfo := do
  let b ← s.fetchBytes d a 96 0x09
  require (imageSound b entry) 0x09
  let f (off n : Nat) : Nat := fieldAt b off n
  let at_ (off : Nat) : BitVec 64 := a + BitVec.ofNat 64 off
  let es ← s.fetchBytes d (at_ (f 0x30 4)) (16 * f 0x34 2) 0x09
  let ss ← s.fetchBytes d (at_ (f 0x38 4)) (24 * f 0x36 2) 0x09
  let e := (es.drop (16 * entry)).take 16
  let sections := chunks 24 (ss.length + 1) ss
  require (sections.all sectionSound &&
    ((chunks 16 (es.length + 1) es).all fun x => decide (fieldAt x 12 4 = 0))) 0x09
  match sections.find? fun x => decide (fieldAt x 0 4 = 0) with
  | none => .error (.refuse 0x09 none)
  | some text =>
    require (entrySound text e) 0x09
    let (rows, doms) ←
      match tree with
      | some t => .ok t
      | none => do
        let t ← s.fetchBytes d (at_ (f 0x24 4)) (8 * f 0x11 1) 0x09
        let m ← s.fetchBytes d (at_ (f 0x28 4)) (16 * f 0x12 2) 0x09
        let rows := rowsOf treeRow 8 t
        let doms := rowsOf domainRow 16 m
        require (rows.all (fun r => !r.bad) && doms.all fun r => !r.bad) 0x09
        .ok (rows, doms)
    let (frame, plan) ←
      match slots with
      | some x => .ok x
      | none => do
        require (decide (f 0x20 2 ≠ 0) || decide (f 0x22 2 = 0)) 0x09
        let p ← s.fetchBytes d (at_ (f 0x2C 4)) (16 * f 0x22 2) 0x09
        .ok (f 0x20 2, rowsOf slotRow 16 p)
    .ok { groups := BitVec.ofNat 8 (f 0x0C 1), vlmin := f 0x0E 1, vlmax := f 0x0F 1, deep := decide (f 0x10 1 = 1)
          sfixed := f 0x14 4, svl := f 0x18 2, pvl := f 0x1A 2, neve := f 0x1C 4
          entry := at_ (fieldAt text 16 8 + fieldAt e 0 8)
          tables := { tree := rows, domains := doms, frame := frame, slots := plan.map (·.1), slotBad := plan.any (·.2) } }

/-! ### Judging the tree (R35 to R47, R433) -/

/-- Whether the domain table agrees with the tree table (R433). -/
def domainsAgree (rows : List TreeRow) (doms : List DomainRow) : Bool :=
  (doms.all fun x => decide (x.level < rows.length)) &&
  (rows.reverse.zipIdx.all fun (r, i) =>
    let mine := doms.filter fun x => decide (x.level = i)
    decide (mine.length = r.domains) && decide (r.domains ≤ 8) &&
    (List.range r.domains).all fun k => mine.any fun x => decide (x.number = k))

/-- The levels, leaf first, with their domains by number; `bound` is filled in at binding. -/
def levelsOf (rows : List TreeRow) (doms : List DomainRow) : List Level :=
  rows.reverse.zipIdx.map fun (r, i) =>
    { vl := r.vl, fanout := r.fanout, bound := 0
      declared := if r.phys = 0xFF then (if r.vl ∧ i = 0 then some 0 else none) else some (BitVec.ofNat 3 r.phys)
      domains := (List.range r.domains).map fun k =>
        ((doms.find? fun x => decide (x.level = i) && decide (x.number = k)).map (·.map)).getD 0 }

/-- Whether declared bindings do not fall from leaf to root (R39). Two declared levels that fall across an undeclared one between
them are out of order, with code 0x02, although no level directly above the other falls (DESIGN CHOICE, log 153). -/
def risingFrom : Nat → List Level → Bool
  | _, [] => true
  | p, l :: t =>
    match l.declared with
    | some q => decide (p ≤ q.toNat) && risingFrom q.toNat t
    | none => risingFrom p t

/-- The launch-fault code of a tree, 0 when it is sound: 0x01 to 0x03 (R47). -/
def treeFault (t : List Level) (agree : Bool) : BitVec 8 :=
  if t.isEmpty ∨ 64 < t.length ∨ (t.any fun l => !l.vl && decide (l.fanout = 0)) ∨
      64 < (t.map Level.width).foldl (· + ·) 0 then 0x01
  else if !risingFrom 0 t || (t.zipIdx.any fun (l, i) =>
      match l.declared with
      | some p => (decide (p = 0) && (decide (i ≠ 0) || !l.vl)) || (l.vl && decide (p ≠ 0))
      | none => false) then 0x02
  else if !agree || (t.any fun l => !l.domains.isEmpty && (l.vl || decide (64 < l.fanout) || decide (l.declared = some 0) ||
      l.domains.any fun m => decide (m = 0) || decide (m.toNat >>> l.fanout ≠ 0))) then 0x03
  else 0

/-! ### Binding (R27, R41, R42, R329) -/

/-- Whether level i passes R41 under bindings that reach it. -/
def fitsAt (cap : Nat → Nat) (counts phys : List Nat) (i : Nat) : Bool :=
  let p := phys.getD i 0
  let (q, lo) := match (List.range i).reverse.find? fun j => decide (phys.getD j 0 < p) with
    | some j => (phys.getD j 0, j)
    | none => (1, 0)
  decide (product ((counts.take i).drop lo) ≤ product (((List.range (p + 1)).drop (q + 1)).map cap))

/-- Binds levels from the leaf upward (R42): each undeclared one to the lowest level that R39 and R41 allow. -/
def bindUp (cap : Nat → Nat) (counts : List Nat) : List Nat → List Level → Option (List Nat)
  | done, [] => some done
  | done, l :: rest =>
    match l.declared with
    | some p => if fitsAt cap counts (done ++ [p.toNat]) done.length then bindUp cap counts (done ++ [p.toNat]) rest else none
    | none =>
      if l.vl then none
      else
        let lo := max 1 (done.getLast?.getD 0)
        let hi := ((rest.findSome? fun x => x.declared).map (·.toNat)).getD 7
        match ((List.range (hi + 1)).drop lo).find? fun p => fitsAt cap counts (done ++ [p]) done.length with
        | some p => bindUp cap counts (done ++ [p]) rest
        | none => none

/-- The largest grant of a range at which the tree binds, with the bindings (R27, R329); nothing in the capacities
of the control class depends on the grant. -/
def State.bindTree (s : State) (p : PartId) (affin : BitVec 16) (c : CoreClass) (deep : Bool) (lo hi : Nat) (t : List Level) :
    Option (Nat × List Nat) :=
  let try_ (lg : Nat) : Option (Nat × List Nat) :=
    (bindUp (s.stepCapacity p affin c lg deep) (t.map Level.count) [] t).map fun b => (lg, b)
  ([11, 10, 9, 8, 7].filter fun lg => decide (lo ≤ lg) && decide (lg ≤ hi) && decide (0 < contextsAt c lg deep)).findSome? try_

/-- Whether a névé window lies in the range of addresses (R86, R324; log 140). -/
def windowFits (a : BitVec 64) (n : Nat) : Bool :=
  decide (n = 0) || (decide (a.toNat + n ≤ 2 ^ 64) && canonical a && canonical (a + BitVec.ofNat 64 (n - 1)))

/-- The plan level: the lowest level bound to CORE. -/
def planLevel (t : List Level) : Option Nat := t.findIdx? fun l => decide (l.bound = 2)

/-- Whether a plan keeps what R258 asks of it whatever its placement. -/
def planKeeps (t : List Level) (plan : List PlanSlot) (frame neve : Nat) : Bool :=
  match planLevel t with
  | none => false
  | some i =>
    let f := ((t[i]?).map Level.count).getD 1
    decide (membersAt t i = 1) &&
    (plan.all fun x =>
      decide (x.start < frame) && decide (8 ≤ x.window) && decide (x.window ≤ frame) && decide (x.owner < f) &&
      decide (x.peer < f) && decide (x.dest % 64 = 0) && decide (x.dest + 256 ≤ neve)) &&
    decide ((plan.map (·.k)).eraseDups.length = plan.length)

/-- The launch that a packet's header and image describe, judged as far as R324 can before its placement; its code, if it
is to be refused for a later condition, waits in `refusal` where a plan or replay is judged first. -/
def State.describe (s : State) (d : Dctx) (header : BitVec 64) : Except FetchStop (LaunchInfo × Nat × Nat × BitVec 8) := do
  let (h, tree, slots) ← s.readHeader d header
  let im ← s.readImage d (h.addr 8) (h.at 0x10 2) tree slots
  let lo := max im.vlmin (h.at 0x12 1)
  let hi := if h.at 0x13 1 = 0 then im.vlmax else min im.vlmax (h.at 0x13 1)
  require (decide (lo ≤ hi) && (decide (h.at 0x14 4 = 0) || decide (im.neve ≤ h.at 0x14 4))) 0x0A
  let t := levelsOf im.tables.tree im.tables.domains
  let code := treeFault t (domainsAgree im.tables.tree im.tables.domains)
  require (decide (code = 0)) code
  let cls := initialClass im.groups
  let affin := BitVec.ofNat 16 (h.at 0x58 2)
  require (!(decide (cls = .control) && laneLeaf t) && (decide (cls ≠ .tensor) || (decide (lo ≤ 9) && decide (9 ≤ hi))) &&
    !(s.classDies d.part 0xFFFF cls).isEmpty) 0x04
  require (!(s.classDies d.part affin cls).isEmpty) 0x05
  match s.bindTree d.part affin cls (im.deep && decide (cls = .vector)) lo hi t with
  | none => .error (.refuse 0x06 none)
  | some (lg, bound) =>
    let t := (t.zip bound).map fun (l, b) => { l with bound := BitVec.ofNat 3 b }
    let n := membersAt t t.length
    let neve := if h.at 0x14 4 = 0 then im.neve else h.at 0x14 4
    let stack := im.sfixed + im.svl * 2 ^ lg / 8
    let spill := im.pvl * 2 ^ lg / 8
    let region := (stack + spill + 191) / 192 * 192
    let z := if im.deep then 107328 else 58176
    -- a plan that cannot be bound whatever the placement (R258): its code comes before that of a replay source (R47)
    let planBad := im.tables.slotBad || decide (4096 < im.tables.frame) || (decide (im.tables.frame = 0) && !im.tables.slots.isEmpty) ||
      (decide (im.tables.frame ≠ 0) && !planKeeps t im.tables.slots im.tables.frame neve)
    require (!planBad) 0x07
    let late : BitVec 8 :=
      if 2 ^ 22 < n then 0x0D
      else if h.at 0x40 8 < syncBytes t ∨ h.at 0x38 8 % 192 ≠ 0 ∨ h.at 0x30 8 < n * region ∨ h.at 0x50 8 < n * z ∨
          !windowFits (h.addr 0x20) neve then 0x0C
      else if (s.part d.part).budget < h.at 0x5C 4 then 0x0B
      else 0
    let planned := im.tables.frame ≠ 0 ∨ !im.tables.slots.isEmpty ∨ h.mode = 2
    require (decide (late = 0) || decide planned) late
    let info : LaunchInfo :=
      { mode := BitVec.ofNat 2 h.mode, image := h.addr 8, entry := im.entry, groups := im.groups, deep := im.deep, vlmin := lo, vlmax := hi
        neve := neve, args := h.addr 0x18, nwin := h.addr 0x20, stack := h.addr 0x28, stackn := h.addr 0x30, sync := h.addr 0x38
        syncn := h.addr 0x40, save := h.addr 0x48, saven := h.addr 0x50, affin := affin, energy := h.at 0x5C 4, deps := h.deps
        stackBytes := stack, spillBytes := spill, tree := t, frame := im.tables.frame, plan := im.tables.slots }
    .ok (info, lg, n, late)

end Sys2Proof.Machine
end

