-- ==== Sys2Proof/Machine/Gangs.lean ====
section
/-! DEFINITION. Gangs: their places (R330, R331, R385), the binding of a plan (R258 to R263), dispatch and resumption
(R322, R339, R341), time slicing and pre-emption (R50, R332, R338), and the energy account (R334, R335). -/

namespace Sys2Proof.Machine

/-! ### Gangs of a launch (R43, R330) -/

/-- Levels bound at CORE or below. -/
def coreLevels (t : List Level) : Nat := (t.takeWhile fun l => decide (l.bound.toNat ≤ 2)).length

/-- The level whose nodes are the gangs: the highest one bound at CORE or below; without one a gang is a thread. -/
def gangLevel (t : List Level) : Nat := coreLevels t - 1
def gangSize (t : List Level) : Nat := membersAt t (gangLevel t)

/-- Dense numbers of a gang's threads. -/
def Launch.gangMembers (l : Launch) (g : Nat) : List Nat := (List.range l.gang).map fun i => g * l.gang + i
def Launch.handle (l : Launch) (n : Nat) : Handle := handleOf l.dc l.slot n

/-- Whether a thread is on this package (R41, R422; log 22). -/
def State.isHere (s : State) (p : PartId) (l : Launch) (n : Nat) : Bool := (s.endpointOf p l (indicesOf l.info.tree n)).isNone

/-- Halves of clusters that a thread of the launch holds on a vector core (R27). -/
def Launch.halves (l : Launch) : Nat :=
  if l.lgG0 = 11 then 8 else if l.lgG0 = 10 then 4 else if l.info.deep && decide (l.cls = .vector) then 2 else 1

/-- Whether a thread waits to be placed with its gang: not started, or pre-empted. -/
def Thread.awaits (t : Thread) : Bool :=
  (decide (t.place = .unstarted) || decide (t.place = .saved)) && !t.held && decide (t.placeOn = .none)

/-- Threads of a gang that need a context now; all of them before the launch runs. -/
def State.gangNeeds (s : State) (l : Launch) (g : Nat) : List Nat :=
  if l.started.isNone then l.gangMembers g
  else (l.gangMembers g).filter fun n => (s.thread? (l.handle n)).any Thread.awaits

/-! ### Instances (R41, R330 step 1) -/

/-- Where a gang may go: the die and pod that its ancestors name, the instances chosen so far, the level last named. -/
structure Site where
  die    : Option Nat
  pod    : Option Nat
  chosen : List (Nat × Nat × Nat)
  above  : Nat

/-- The highest level of those above level j that share one binding: one instance of that binding holds each of its nodes, and the
nodes of level j beneath it lie in distinct instances of theirs (R41). -/
def sharedLevel (t : List Level) (j : Nat) : Nat :=
  j + (((t.drop (j + 1)).takeWhile fun v => decide (some v.bound = (t[j + 1]?).map fun v => v.bound)).length)

/-- The instance of one ancestor level of gang g: the one chosen before, that of a node above with the same binding, or the
lowest-numbered one that holds the node and that no sibling has. -/
def State.siteStep (s : State) (p : PartId) (l : Launch) (g j : Nat) (x : Site) : Option Site :=
  let t := l.info.tree
  let b := (t[j]?.map fun v => v.bound.toNat).getD 0
  if b < 3 ∨ 5 < b then some x
  else
    let node := g * l.gang / membersAt t j
    let put (i : Nat) (new : Bool) : Option Site :=
      some { x with
        die := if b = 4 then some i else x.die, pod := if b = 3 then some i else x.pod
        chosen := if new then x.chosen ++ [(j, node, i)] else x.chosen, above := b }
    match x.chosen.find? fun (k, n, _) => decide (k = j) && decide (n = node) with
    | some (_, _, i) => put i false
    | none =>
      if x.above = b then some x
      else
        let dies := s.classDies p l.info.affin l.cls
        let holds (d : Nat) : Bool :=
          fitsAt (fun k => if k = 4 then s.podsOn d else s.stepCapacity p l.info.affin l.cls l.lgG0 l.info.deep k)
            (t.map Level.count) (t.map fun v => v.bound.toNat) j
        let options :=
          if b = 4 then dies.filter holds
          else if b = 3 then (match x.die with
            | some d => [d]
            | none => dies).flatMap fun d =>
              (List.range (dieCores d / 16)).filterMap fun q =>
                if s.coreOn p (dieFirstCore d + 16 * q) then some (corePod (dieFirstCore d) + q) else none
          else [0]
        let m := sharedLevel t j
        let taken := if m = j then []
          else
            (x.chosen.filter fun (k, n, _) => decide (k = j) &&
              decide (n * membersAt t j / membersAt t m = node * membersAt t j / membersAt t m)).map fun (_, _, i) => i
        match options.find? fun i => !taken.contains i with
        | some i => put i true
        | none => none

/-- The site of gang g: its ancestors' instances, root first. -/
def State.site (s : State) (p : PartId) (l : Launch) (g : Nat) : Option Site :=
  let t := l.info.tree
  (((List.range t.length).drop (coreLevels t)).reverse).foldl (fun (acc : Option Site) j => acc.bind (s.siteStep p l g j))
    (some { die := none, pod := none, chosen := l.instances, above := 8 })

/-- Cores of a site on the launch's class, ascending, but for those that sibling gangs bound to CORE hold. -/
def State.siteCores (s : State) (p : PartId) (l : Launch) (g : Nat) (x : Site) (held : List (Nat × Nat)) : List Nat :=
  let t := l.info.tree
  let m := sharedLevel t (gangLevel t)
  let siblings := if gangLevel t < m ∧ (t[gangLevel t]?.map fun v => v.bound) = some 2 then
      (held.filter fun (k, _) => decide (k * l.gang / membersAt t m = g * l.gang / membersAt t m) && decide (k ≠ g)).map (·.2)
    else []
  let cores := match x.pod, x.die with
    | some q, _ => (List.range 16).map fun i => 16 * q + i
    | none, some d => (List.range (dieCores d)).map fun i => dieFirstCore d + i
    | none, none => (s.classDies p l.info.affin l.cls).flatMap fun d => (List.range (dieCores d)).map fun i => dieFirstCore d + i
  cores.filter fun c => s.coreOn p c && l.info.affin.getLsbD (coreDie c) && decide (coreClass c = l.cls) && !siblings.contains c

/-- Whether a launch has a plan to bind. -/
def Launch.planned (l : Launch) : Bool := decide (l.info.frame ≠ 0) || !l.info.plan.isEmpty

/-- Cores that a gang could use, and the instances that taking one chooses. In a launch with a plan or in enforced replay it is
the core that the binding names (R263, R385, R391). -/
def State.gangCores (s : State) (p : PartId) (l : Launch) (g : Nat) : Option (List Nat × List (Nat × Nat × Nat)) :=
  match (if l.planned || decide (l.acts = 2) then l.cores[g]? else none) with
  | some c => some ([c.toNat], l.instances)
  | none =>
    (s.site p l g).map fun x => (s.siteCores p l g x (l.resident.map fun (k, c, _) => (k, c.toNat)), x.chosen)

/-- The core of one thread of a gang that is placed on a core: in enforced replay a thread that resumes returns to the core of its own
latest placement (R388). -/
def State.memberCore (s : State) (l : Launch) (c n : Nat) : Nat :=
  if l.acts ≠ 2 then c
  else
    match s.thread? (l.handle n) with
    | some t => if t.place = .saved then t.core.toNat else c
    | none => c

/-- The cores of the members of a gang that need a context, where the gang is placed on a core. -/
def State.memberCores (s : State) (l : Launch) (g c : Nat) : List Nat := (s.gangNeeds l g).map (s.memberCore l c)

/-- Every core that a waiting gang could use. -/
def State.gangWants (s : State) (p : PartId) (l : Launch) (g : Nat) : List Nat :=
  match s.gangCores p l g with
  | none => []
  | some (cs, _) => if l.acts = 2 then (cs.flatMap fun c => s.memberCores l g c).eraseDups else cs

/-- The core on which a gang can be placed now (R330 step 2) among those that f allows, and the instances chosen. -/
def State.placeGang (s : State) (p : PartId) (l : Launch) (g : Nat) (f : Nat → Bool) : Option (Nat × List (Nat × Nat × Nat)) :=
  match s.gangCores p l g with
  | none => none
  | some (cs, chosen) =>
    let room (c : Nat) : Bool :=
      let on := s.memberCores l g c
      on.eraseDups.all fun x => f x && decide ((on.filter fun y => decide (y = x)).length ≤ s.contextsFree x l.halves)
    (cs.find? room).map fun c => (c, chosen)

/-! ### Binding a plan (R258 to R263) -/

/-- The core that the binding names for a thread. -/
def Launch.coreOf (l : Launch) (n : Nat) : Nat := ((l.cores[n / max 1 l.gang]?).map (·.toNat)).getD 0

/-- A slot of a plan in one node of the level above: slot, owner's and peer's dense numbers. -/
def Launch.planUses (l : Launch) : List (PlanSlot × Nat × Nat) :=
  match planLevel l.info.tree with
  | none => []
  | some i =>
    let f := ((l.info.tree[i]?).map Level.count).getD 1
    (List.range (l.threads / f)).flatMap fun q => l.info.plan.map fun x => (x, q * f + x.owner, q * f + x.peer)

/-- Whether a launch's plan keeps R258. -/
def Launch.planSound (l : Launch) : Bool := planKeeps l.info.tree l.info.plan l.info.frame l.info.neve

/-- Reservations of a bound plan: resource (0 send port, 1 receive port, 2 channel), its names, and the start (R262). -/
def Launch.reservations (l : Launch) : List ((Nat × Nat × Nat) × Nat) :=
  l.planUses.flatMap fun (x, a, b) =>
    let ca := l.coreOf a
    let cb := l.coreOf b
    [((0, ca, 0), x.start), ((1, cb, 0), (x.start + travelTime ca cb) % max 1 l.info.frame)] ++
    (if coreDie ca ≠ coreDie cb then [((2, coreDie ca, coreDie cb), x.start)] else [])

/-- Whether two intervals of 8 link cycles overlap modulo a frame. -/
def overlapIn (f a b : Nat) : Bool := decide ((b + f - a) % f < 8) || decide ((a + f - b) % f < 8)

/-- Whether no two reservations of one resource overlap. -/
def noOverlap (f : Nat) : List ((Nat × Nat × Nat) × Nat) → Bool
  | [] => true
  | (r, a) :: t => (t.all fun (q, b) => decide (q ≠ r) || !overlapIn f a b) && noOverlap f t

/-- Ordered die pairs that a bound plan uses. -/
def Launch.diePairs (l : Launch) : List (BitVec 4 × BitVec 4) :=
  (l.reservations.filterMap fun ((k, a, b), _) => if k = 2 then some (BitVec.ofNat 4 a, BitVec.ofNat 4 b) else none).eraseDups

/-- Whether a launch is between its admission and its end. -/
def Launch.bound (l : Launch) : Bool := decide (l.state = .binding) || decide (l.state = .running)

/-- Whether a bound plan can live beside the others (R263). -/
def State.planFits (s : State) (p : PartId) (l : Launch) : Bool :=
  let mine := l.reservations
  let ports := mine.filterMap fun (r, _) => if r.1 < 2 then some r else none
  let others := s.launches.filter fun x => x.bound && decide (x.info.frame ≠ 0) && !(decide (x.dc = l.dc) && decide (x.slot = l.slot))
  let used := ((others.filter fun x => s.partOf (x.handle 0) = some p).map fun x => x.channels.length).foldl (· + ·) 0
  l.planSound && noOverlap (max 1 l.info.frame) mine &&
  (others.all fun x => x.reservations.all fun (r, _) => !ports.contains r) && decide (used + l.diePairs.length ≤ (s.part p).channels)

/-- The cores that binding names for every gang, in order (R330): where they are free, and else where they would be were the
other launches away. -/
def State.planCores (s : State) (p : PartId) (l : Launch) : List (BitVec 13) × List (Nat × Nat × Nat) :=
  let k := l.gang
  (List.range (l.threads / max 1 k)).foldl (fun (acc : List (BitVec 13) × List (Nat × Nat × Nat)) g =>
    let l' := { l with instances := acc.2 }
    match s.site p l' g with
    | none => (acc.1 ++ [0], acc.2)
    | some x =>
      let held := acc.1.zipIdx.map fun (c, i) => (i, c.toNat)
      let own (c : Nat) : Nat := (acc.1.filter fun y => decide (y.toNat = c)).length * k
      let cs := s.siteCores p l' g x held
      match (cs.find? fun c => decide (own c + k ≤ s.contextsFree c l.halves)).orElse fun _ =>
          cs.find? fun c => decide (own c + k ≤ (coreClass c).contexts l.halves) with
      | some c => (acc.1 ++ [BitVec.ofNat 13 c], x.chosen)
      | none => (acc.1 ++ [BitVec.ofNat 13 ((cs.head?).getD 0)], x.chosen)) ([], l.instances)

/-- Entry k of the slot table of thread n (R259). -/
def Launch.slotEntry (l : Launch) (n k : Nat) : BitVec 128 :=
  let mine := l.planUses.filter fun (x, a, b) => decide (x.k = k) && (decide (a = n) || decide (b = n))
  mine.foldl (fun (e : BitVec 128) (x, a, b) =>
    let other := if a = n then l.coreOf b else l.coreOf a
    e ||| BitVec.ofNat 128 (x.start + x.window * 2 ^ 13 + (if a = n then 2 ^ 26 else 0) + (if b = n then 2 ^ 27 else 0) +
      other * 2 ^ 28 + x.dest * 2 ^ 41 + travelTime (l.coreOf a) (l.coreOf b) * 2 ^ 64)) 0

/-! ### Dispatch and resumption (R52, R284, R320, R322, R330, R339, R341) -/

/-- The bytes of a thread's stack and spill region. -/
def Launch.region (l : Launch) : Nat := (l.info.stackBytes + l.info.spillBytes + 191) / 192 * 192

/-- Thread n of a launch, not yet started. -/
def Launch.newThread (l : Launch) (d : Dctx) (n : Nat) : Thread :=
  let t := Thread.start
  let cls := l.cls
  let top := l.info.stack + BitVec.ofNat 64 (n * l.region + l.info.stackBytes)
  { t with
    handle := l.handle n, wid := BitVec.ofNat 64 (widOf l.info.tree (indicesOf l.info.tree n)), place := .unstarted
    bound := BitVec.ofNat 13 (l.coreOf n), lgG0 := l.lgG0, lgG := l.lgG0, deepHeld := l.info.deep && decide (cls = .vector)
    arch := ({ t.arch with
      pc := l.info.entry, g := (t.arch.g.set 1 l.info.args).set 30 top
      vdeep := if l.info.deep && decide (cls = .vector) then 192 else 0
      xframe := BitVec.ofNat 13 l.info.frame, xbase := BitVec.ofNat 64 l.xbase } : Arch).setVcount
        (grantCount l.lgG0 (formWidth 0x2))
    sup := { t.sup with tvec := d.sentry.extractLsb' 2 54 }
    slots := if l.info.frame = 0 then t.slots else Vector.ofFn fun k : Fin 256 => l.slotEntry n k.val }

/-- Writes zero over an area of a device context, page by page where it translates (R114, R339). -/
def State.zeroArea (s : State) (d : Dctx) : Nat → BitVec 64 → Nat → State
  | 0, _, _ => s
  | fuel + 1, a, n =>
    if n = 0 then s
    else
      let k := min n (196608 - pageOffset a)
      let s1 := match s.saveSpans d a k with
        | .ok sp => sp.foldl (fun (b : State) (x : Span) => { b with
            mem := b.mem.filter fun c => !(decide (x.key ≤ c.1) && decide (c.1 < x.key + x.len))
            hist := b.hist.filter fun e => !(decide (x.key ≤ e.key) && decide (e.key < x.key + x.len))
            poison := b.poison.filter fun q => !(sectorsWithin x.key x.len).contains q }) s
        | .error _ => s
      s1.zeroArea d fuel (a + BitVec.ofNat 64 k) (n - k)

/-- The launch enters running: its first dispatch. Its threads are live, each with a header of state 4 in a save area that is zero
otherwise (R114, R256, R320, R339, R437). -/
def State.startLaunch (s : State) (d : Dctx) (l : Launch) : State :=
  let l1 := { l with state := .running, started := some s.cyc, xbase := if l.info.frame = 0 then 0 else s.lcc / 4 * 4 }
  let sync := syncBytes l.info.tree
  let save := l.threads * l.saveSize
  let s1 := (s.zeroArea d (sync / 196608 + 2) l.info.sync sync).zeroArea d (save / 196608 + 2) l.info.save save
  let ts := (List.range l.threads).filterMap fun n => if s.isHere d.part l n then some (l1.newThread d n) else none
  ts.foldl (fun (a : State) t => a.writeArea t.handle fun t _ => [(0, t.header)])
    { (s1.modLaunch l.dc l.slot fun _ => l1) with others := s1.others ++ ts }

/-- Puts a thread of a gang on a core: its start, with no slot fresh (R265), its header, the slot table, and the control registers that its class does not
hold; or its resumption from the save area. -/
def State.settle (s : State) (h : Handle) (c : Nat) : State :=
  match s.thread? h, s.launchOf? h, s.dctx? (handleDctx h) with
  | some t, some l, some d =>
    let slot := s.freeSlot c
    let lanes := s.lanesAt t c
    let put (t : Thread) : Thread :=
      { t.takeContext c slot lanes with
        place := .resident, since := s.lcc, fresh := if t.place = .unstarted then 0 else t.fresh, migh := if t.migh = coreClass c then .none else t.migh
        arch := if coreClass c = .vector then { t.arch with vresume := 0 } else t.arch }
    if t.place = .unstarted then
      let s0 := match (if l.acts = 2 then s.schedNext t else none) with
        | some (i, bs) => if fieldAt bs 24 1 = 0 then s.consume h i else s
        | none => s
      let s1 := (s0.sched t 0 c 0).modThread h fun t => { put t with bound := if l.planned then t.bound else BitVec.ofNat 13 c }
      let s2 := if coreClass c = .tensor then s1
        else s1.writeRegions d (l.saveAddr (handleDense h)) [] [(savedCrsAt, t.arch.savedCrBytes)]
      s2.writeArea h fun t _ => (0, t.header) :: if l.info.frame = 0 then [] else [(53760, t.slotBytes), (57856, zeros 32)]
    else
      let (s1, ok) := s.restoreArea h (coreClass c)
      if ok then (match s1.thread? h with
        | some t1 => (s1.sched t1 7 c 0).modThread h put
        | none => s1)
      else s1
  | _, _, _ => s

/-- Whether records of a gang's placement have room (R383): those at supervisor level are informational (R380). -/
def State.gangRecords (s : State) (d : Dctx) (l : Launch) (g : Nat) : Bool :=
  let k := ((s.gangNeeds l g).filter fun n => (s.thread? (l.handle n)).all fun t => !t.sup.level).length
  decide (l.acts ≠ 1) || decide (k = 0) || s.moraineRoom d k

/-- Generations of barrier words that resident threads of a launch wait for; none unless all of them do: R50's resident
threads are taken to be those of the whole launch, not those of one node of the level (DESIGN CHOICE, log 154). -/
def State.awaited (s : State) (l : Launch) : List (BitVec 64 × BitVec 64) :=
  let res := s.threads.filter fun t => t.exists && decide (handleLaunch t.handle = handleLaunch (l.handle 0)) && decide (t.place = .resident)
  let on := res.filterMap fun t => match t.wait with
    | some { kind := .barrier a g, .. } => some (a, g)
    | _ => none
  if on.length = res.length then on.eraseDups else []

/-- Whether a thread waits in the arbiter's FIFO, where it is not resident (R18). -/
def Thread.inFifo (t : Thread) : Bool :=
  match t.place with
  | .fifo _ => true
  | _ => false

/-- Whether a thread waits for a context alone: in the arbiter's FIFO, or made runnable by a CTXLOAD (R18, R293). -/
def Thread.lacksCore (t : Thread) : Bool := t.inFifo || (decide (t.place = .saved) && !t.held && decide (t.placeOn ≠ .none))

/-- Whether a thread that needs a context is a member of an awaited barrier and has not arrived at it. -/
def Thread.missedBy (t : Thread) (l : Launch) (on : List (BitVec 64 × BitVec 64)) : Bool :=
  (t.awaits || t.lacksCore) && on.any fun (a, g) => !t.arrivals.contains (a, g) &&
    (barriersOf l.info.tree (widFields l.info.tree t.wid.toNat)).any fun (off, _) => decide (l.info.sync + BitVec.ofNat 64 off = a)

/-- Whether every resident thread of a launch waits on a barrier that members which are not resident have not reached
(R50). -/
def State.barrierBlocked (s : State) (l : Launch) : Bool :=
  match s.awaited l with
  | [] => false
  | on => s.threads.any fun t => t.exists && decide (handleLaunch t.handle = handleLaunch (l.handle 0)) && t.missedBy l on

/-- Waiting gangs of a launch in the order in which they are placed: under R50, those that have not arrived first. -/
def State.gangOrder (s : State) (l : Launch) : List Nat :=
  match s.awaited l with
  | [] => l.waiting
  | on =>
    let fresh (g : Nat) : Bool := (l.gangMembers g).any fun n => (s.thread? (l.handle n)).any fun t => t.missedBy l on
    l.waiting.filter fresh ++ l.waiting.filter fun g => !fresh g

/-- The next gang of a launch that is to be placed: nothing to place leaves the list at once. -/
def State.nextGang (s : State) (l : Launch) : Option Nat := (s.gangOrder l).head?

/-- Whether another launch of a device context replays (R385). -/
def State.replaying (s : State) (l : Launch) : Bool :=
  s.launches.any fun x => decide (x.dc = l.dc) && decide (x.slot ≠ l.slot) && decide (x.info.mode = 2) && x.bound

/-- Whether admission by energy is open to a launch (R334). -/
def State.energyFor (s : State) (p : PartId) (l : Launch) : Bool :=
  let c := ((s.launches.filter fun x => x.bound && s.partOf (x.handle 0) = some p).map fun x => x.info.energy).foldl (· + ·) 0
  decide (max (s.part p).metered c + l.info.energy ≤ (s.part p).budget)

/-- Gangs that wait for room: the next of each bound launch, and the first of one that waits to be admitted for want of
capacity alone. -/
def State.waiters (s : State) : List (Launch × Nat) :=
  s.launches.filterMap fun l =>
    if l.bound then (s.nextGang l).map fun g => (l, g)
    else if l.state = .admitting ∧ l.refusal = 0 ∧ ((s.dctx? l.dc).any fun d => s.energyFor d.part l &&
        !(decide (l.info.mode = 2) && s.replaying l) && (decide (l.info.mode ≠ 1) || s.moraineRoom d 1)) then some (l, 0)
    else none

/-- When a waiting gang began to wait. -/
def Launch.waitsSince (l : Launch) (g : Nat) : Nat := ((l.left.find? fun (k, _) => decide (k = g)).map (·.2)).getD l.fetched

/-- Whether a pre-empted gang leaves a core to a waiting gang that has waited longer or has a higher priority (R332: the
freed cores go to the waiting gang, and pre-empted gangs join behind). -/
def State.givesWay (s : State) (p : PartId) (l : Launch) (g c : Nat) : Bool :=
  match l.left.find? fun (k, _) => decide (k = g) with
  | none => false
  | some (_, since) => s.waiters.any fun (w, k) =>
      !(decide (w.dc = l.dc) && decide (w.slot = l.slot)) &&
      (decide (l.prio < w.prio) || (decide (w.prio = l.prio) && decide (w.waitsSince k < since))) &&
      s.partOf (w.handle 0) = some p && (s.gangWants p w k).contains c

/-- Whether a core has been freed for a waiting gang that comes before a gang of a launch (R332: the freed cores go to the waiting gang):
one of a higher priority; at the same priority one that has waited longer, or any where the gang has no promise of its own. -/
def State.promisedAway (s : State) (l : Launch) (g c : Nat) : Bool :=
  s.waiters.any fun (w, k) =>
    (w.promised.any fun (k', c') => decide (k' = k) && decide (c'.toNat = c)) && !(decide (w.dc = l.dc) && decide (w.slot = l.slot)) &&
    (decide (l.prio < w.prio) || (decide (w.prio = l.prio) &&
      (decide (w.waitsSince k < l.waitsSince g) || !l.promised.any fun (k', c') => decide (k' = g) && decide (c'.toNat = c))))

/-- The core on which a gang can be placed now and that is not promised to another. -/
def State.placeFree (s : State) (p : PartId) (l : Launch) (g : Nat) : Option (Nat × List (Nat × Nat × Nat)) :=
  s.placeGang p l g fun c => !s.promisedAway l g c

/-- Whether a thread of a launch that a CTXLOAD has made runnable could be placed now: a gang that was pre-empted waits behind it (R50). -/
def State.restoredWaits (s : State) (l : Launch) : Bool :=
  decide (l.acts ≠ 2) && s.threads.any fun t =>
    decide (handleLaunch t.handle = handleLaunch (l.handle 0)) && decide (t.place = .saved) && !t.held && t.parked.isNone &&
    decide (t.placeOn ≠ .none) && (s.nearest t fun k => decide (k = t.placeOn)).isSome

/-- Whether a gang of a launch may be placed now, and where (R330 to R332, R336). -/
def State.mayDispatch (s : State) (l : Launch) (g : Nat) : Option (Nat × List (Nat × Nat × Nat)) :=
  match s.dctx? l.dc with
  | none => none
  | some d =>
    if !l.bound || s.nextGang l ≠ some g || s.fifoServable || !s.gangRecords d l g ||
        (s.restoredWaits l && l.left.any fun (k, _) => decide (k = g)) then none
    else
      match s.placeFree d.part l g with
      | none => none
      | some x =>
        -- a waiting gang of a higher priority that could be placed comes first
        if s.launches.any fun m => decide (l.prio < m.prio) && m.bound && s.partOf (m.handle 0) = some d.part &&
            (match s.nextGang m with
             | some k => (s.placeFree d.part m k).isSome
             | none => false) then none
        else if s.givesWay d.part l g x.1 then none
        else some x

/-- Threads of a gang that a CTXLOAD has made runnable are placed one by one (R293). -/
def State.placeRestored (s : State) (l : Launch) (g : Nat) : State :=
  (l.gangMembers g).foldl (fun (a : State) n => (a.placeLoaded (l.handle n)).getD a) s

/-- GANG_DISPATCH (R330): a waiting gang is placed whole and made resident. -/
def execGangDispatch (s : State) : Step :=
  match s.ev with
  | .gang dc slot g =>
    match s.launch? dc slot, s.dctx? dc with
    | some l, some d =>
      if !l.waiting.contains g then .next (if s.fifoServable then s else s.placeRestored l g)
      else if (s.gangNeeds l g).isEmpty then .next (s.modLaunch dc slot fun l => { l with waiting := l.waiting.erase g })
      else if !s.isHere d.part l (g * l.gang) then .next (s.modLaunch dc slot fun l => { l with waiting := l.waiting.erase g })
      else
        match s.mayDispatch l g with
        | none => .next s
        | some (c, chosen) =>
          let s1 := if l.started.isNone then s.startLaunch d l else s
          let s2 := s1.modLaunch dc slot fun l =>
            { l with waiting := l.waiting.erase g, resident := l.resident ++ [(g, BitVec.ofNat 13 c, s.lcc)]
                     left := l.left.filter fun (k, _) => decide (k ≠ g), instances := chosen
                     promised := l.promised.filter fun (k, _) => decide (k ≠ g) }
          .next ((s.gangNeeds l g).foldl (fun (a : State) n => a.settle (l.handle n) (s.memberCore l c n)) s2)
    | _, _ => .next s
  | _ => .next s

/-! ### Time slicing and pre-emption (R50, R332, R338) -/

/-- Resident threads of a gang. -/
def State.gangResident (s : State) (l : Launch) (g : Nat) : List Thread :=
  (l.gangMembers g).filterMap fun n => (s.thread? (l.handle n)).bind fun t => if t.place = .resident then some t else none

/-- Whether a member of a gang is being moved (R20). -/
def State.gangMoving (s : State) (l : Launch) (g : Nat) : Bool :=
  (l.gangMembers g).any fun n => (s.thread? (l.handle n)).any fun t => decide (t.place = .transit)

/-- Link cycles of a device context's slice. -/
def State.sliceCycles (s : State) (dc : DctxId) : Nat := ((s.dctx? dc).map fun d => d.slice * 4400).getD 0

/-- Resident gangs with a thread on one of some cores, of launches that f selects: launch, gang, since. -/
def State.gangsOn (s : State) (cores : List Nat) (f : Launch → Bool) : List (Launch × Nat × Nat) :=
  (s.launches.filter f).flatMap fun l => l.resident.filterMap fun (g, _, since) =>
    if !s.gangMoving l g && (s.gangResident l g).any fun t => cores.contains t.core.toNat then some (l, g, since) else none

/-- The gang of lowest priority, and among equals the one resident longest. -/
def pickVictim : List (Launch × Nat × Nat) → Option (Launch × Nat × Nat)
  | [] => none
  | x :: t =>
    match pickVictim t with
    | none => some x
    | some y => if y.1.prio < x.1.prio ∨ (y.1.prio = x.1.prio ∧ y.2.2 < x.2.2) then some y else some x

/-- The gang that is to make room for a waiting gang now (R332, R50). -/
def State.victimFor (s : State) (l : Launch) (g : Nat) : Option (Launch × Nat) :=
  match s.dctx? l.dc with
  | none => none
  | some d =>
    if (s.placeFree d.part l g).isSome then none
    else
      match s.gangWants d.part l g with
      | [] => none
      | cores =>
        let same (x : Launch) : Bool := decide (x.dc = l.dc) && decide (x.slot = l.slot)
        let low := s.gangsOn cores fun x => decide (x.prio < l.prio)
        let due := (s.gangsOn cores fun x => decide (x.prio = l.prio)).filter fun (x, _, since) => decide (since + s.sliceCycles x.dc ≤ s.lcc)
        let blocked := if s.barrierBlocked l then s.gangsOn cores same else []
        (pickVictim (if !low.isEmpty then low else if !blocked.isEmpty then blocked else due)).map fun (x, g, _) => (x, g)

/-- Whether a core is of a class on which a thread that waits for a context alone goes on. -/
def Thread.goesTo (t : Thread) (c : Nat) : Bool :=
  match t.place with
  | .fifo gr => (coreClass c).implements gr
  | _ => decide (coreClass c = t.placeOn)

/-- The gang of a launch that is to make room for a thread of it that waits for a context alone, for whose arrival every resident thread
of the launch waits (R18, R50). -/
def State.fifoVictim (s : State) (l : Launch) : Option (Launch × Nat) :=
  match s.awaited l with
  | [] => none
  | on =>
    s.threads.findSome? fun t =>
      if handleLaunch t.handle ≠ handleLaunch (l.handle 0) ∨ !t.lacksCore ∨ !t.missedBy l on ∨ s.fifoServable ∨ s.restoredWaits l then none
      else
        let cores := allCores.filter fun c => t.goesTo c && s.couldHold t c
        (pickVictim (s.gangsOn cores fun x => decide (x.dc = l.dc) && decide (x.slot = l.slot))).map fun (x, g, _) => (x, g)

/-- The waiting gang, of a launch that f selects, for which a gang is the one that makes room. -/
def State.makesRoomFor (s : State) (l : Launch) (g : Nat) (f : Launch → Bool) : Option (Launch × Nat) :=
  s.waiters.find? fun (w, k) => f w && (match s.victimFor w k with
    | some (x, v) => decide (x.dc = l.dc) && decide (x.slot = l.slot) && decide (v = g)
    | none => false)

/-- Whether a gang is the one that makes room for some waiting gang that f selects. -/
def State.mustLeave (s : State) (l : Launch) (g : Nat) (f : Launch → Bool) : Bool := (s.makesRoomFor l g f).isSome

/-- The cores of a gang's resident threads are promised to the waiting gang for which it makes room (R332). -/
def State.promise (s : State) (l : Launch) (g : Nat) (w : Option (Launch × Nat)) : State :=
  match w with
  | none => s
  | some (w, k) =>
    let cores := ((s.gangResident l g).map (·.core)).eraseDups.filter fun c => !w.promised.contains (k, c)
    s.modLaunch w.dc w.slot fun w => { w with promised := w.promised ++ cores.map fun c => (k, c) }

/-- Stops every thread of a list, or none while one of them must go on first. -/
def State.stopAll (s : State) : List Thread → Option State
  | [] => some s
  | t :: rest => ((if t.handle = s.th.handle then s.atStop else s.stopOther t.handle)).bind fun s1 => s1.stopAll rest

/-- A stopped thread leaves its core for its save area (R338). -/
def State.saveThread (s : State) (h : Handle) : State :=
  match s.thread? h with
  | some t => ((s.sched t 6 t.core.toNat 0).modThread h fun t => { t.leaveCore with place := .saved }).writeSave h t.cls
  | none => s

/-- Pre-empts a gang for a waiting one: every thread stops at a permitted point and is saved; while one cannot stop, the request stands
(R352). -/
def State.preempt (s : State) (l : Launch) (g : Nat) (w : Option (Launch × Nat)) : State :=
  match s.stopAll (s.gangResident l g) with
  | none => (s.gangResident l g).foldl (fun (a : State) t => a.haltThread t.handle) s
  | some s1 =>
    let s2 := (s.gangResident l g).foldl (fun (a : State) t => a.saveThread t.handle) (s1.promise l g w)
    s2.modLaunch l.dc l.slot fun l =>
      { l with resident := l.resident.filter (fun (k, _) => decide (k ≠ g)), waiting := l.waiting ++ [g], left := l.left ++ [(g, s.lcc)] }

/-- PREEMPTION (R332, R338): a gang makes room for a waiting gang. -/
def execPreemption (s : State) : Step :=
  match s.ev with
  | .gang dc slot g =>
    match s.launch? dc slot with
    | some l =>
      .next (match s.makesRoomFor l g fun _ => true with
        | some w => s.preempt l g (some w)
        | none => if (s.fifoVictim l).any fun (_, v) => decide (v = g) then s.preempt l g none else s)
    | none => .next s
  | _ => .next s

/-- SLICE_EXPIRY (R332): a gang that has been resident for its slice gives way to a waiting gang of its priority. -/
def execSliceExpiry (s : State) : Step :=
  match s.ev with
  | .gang dc slot g =>
    match s.launch? dc slot with
    | some l =>
      if (l.resident.any fun (k, _, since) => decide (k = g) && decide (since + s.sliceCycles dc ≤ s.lcc)) &&
          s.mustLeave l g (fun w => decide (w.prio = l.prio)) then
        .next { s with agenda := .event .preemption (.gang dc slot g) :: s.agenda }
      else .next s
    | none => .next s
  | _ => .next s

/-! ### The energy account (R334, R335) -/

/-- ENERGY_METER_UPDATE (R335): the last window's energy, and the issue cap that keeps the projection within the budget. -/
def execEnergyMeterUpdate (s : State) : Step :=
  match s.ev with
  | .meter p window projected =>
    .next (s.modPart p fun x =>
      { x with
        metered := window
        cap := if x.budget < projected then max 1 (x.cap - 1) else if projected * 16 < 15 * x.budget then min 16 (x.cap + 1) else x.cap })
  | _ => .next s

end Sys2Proof.Machine
end

