-- ==== Sys2Proof/Machine/Launching.lean ====
section
/-! DEFINITION. The command processor's rings and launches: kicks (R316, R317), packets (R318, R319), ring selection
(R327), dependences (R326), admission and binding (R329, R331, R334, R385), completion (R320), and held accesses (R435). -/

namespace Sys2Proof.Machine

/-! ### Rings (R316, R317, R327) -/

/-- Whether a ring number is that of a virtual ring, and its priority. -/
def isVirtual (r : RingId) : Bool := decide (64 ≤ r.toNat)
def virtualPrio (r : RingId) : Nat := r.toNat - 64

/-- Changes a real ring of a device context. -/
def State.modRing (s : State) (dc : DctxId) (r : RingId) (f : Ring → Ring) : State :=
  s.modDctx dc fun d => { d with rings := d.rings.zipIdx.map fun (x, i) => if i = r.toNat then f x else x }

/-- KICK_WRITE (R317): the tail of an enabled ring moves, or the write is counted as an error. -/
def execKickWrite (s : State) : Step :=
  match s.ev with
  | .kick dc r tail =>
    .next (s.modRing dc (r.setWidth 7) fun x =>
      if x.enabled ∧ x.tail.toNat ≤ tail.toNat ∧ tail.toNat - x.head.toNat ≤ 2 ^ x.lg then { x with tail := tail }
      else { x with errors := x.errors + 1 })
  | _ => .next s

/-- The first packet of a virtual ring. -/
def Dctx.submittedHead (d : Dctx) (r : RingId) : Option Submitted := d.submitted.find? fun x => decide (x.prio = virtualPrio r)

/-- The LAUNCH that stands at a ring's head, fetched and not yet binding. -/
def Dctx.headLaunch (d : Dctx) (r : RingId) : Option LaunchSlot :=
  if isVirtual r then (d.submittedHead r).bind fun x => x.atHead else (d.rings[r.toNat]?).bind fun x => x.atHead

/-- The next packet of a ring that is to be fetched (R316, R318), none when there is none now. -/
def State.packetAt (s : State) (d : Dctx) (r : RingId) : Except Trouble (Option (List (BitVec 8))) :=
  if (d.headLaunch r).isSome then .ok none
  else if isVirtual r then .ok ((d.submittedHead r).map fun x => x.bytes)
  else
    match d.rings[r.toNat]? with
    | none => .ok none
    | some x =>
      if !x.enabled || decide (x.head = x.tail) then .ok none
      else
        match s.deviceRead d (x.base + BitVec.ofNat 64 (64 * (x.head.toNat % 2 ^ x.lg))) 64 with
        | .ok (bs, _) => .ok (some bs)
        | .error e => .error e

/-- Priority of a ring. -/
def Dctx.ringPrio (d : Dctx) (r : RingId) : Nat :=
  if isVirtual r then virtualPrio r else ((d.rings[r.toNat]?).map fun x => x.prio).getD 0

/-- The head of a ring is consumed: the index moves on and is written to headw (log 41: a headw that cannot be written
is not). -/
def State.passHead (s : State) (dc : DctxId) (r : RingId) : State :=
  match s.dctx? dc with
  | none => s
  | some d =>
    if isVirtual r then
      match d.submittedHead r with
      | some x => s.modDctx dc fun d => { d with submitted := d.submitted.erase x }
      | none => s
    else
      let s1 := (s.modRing dc r fun x => { x with head := x.head + 1, atHead := none }).unhold dc (.packet r)
      match d.rings[r.toNat]? with
      | none => s1
      | some x =>
        match s.deviceSpans d x.headw 8 false with
        | .ok sp => s1.devicePut sp (leBytes 8 (x.head.toNat + 1))
        | .error e => s1.counted dc (.error e : Except Trouble Unit)

/-- Marks the LAUNCH at a ring's head as fetched. -/
def State.setAtHead (s : State) (dc : DctxId) (r : RingId) (slot : LaunchSlot) : State :=
  if isVirtual r then
    s.modDctx dc fun d =>
      match d.submittedHead r with
      | some x => { d with submitted := d.submitted.map fun y => if y = x then { y with atHead := some slot } else y }
      | none => d
  else s.modRing dc r fun x => { x with atHead := some slot }

/-! ### Packets (R319) -/

def packetKind (bs : List (BitVec 8)) : Nat := fieldAt bs 0 1
def packetTarget (bs : List (BitVec 8)) : BitVec 64 := BitVec.ofNat 64 (fieldAt bs 8 8)
/-- The ring and counter of the completion record: a refused packet's misaligned ones are not used. -/
def packetCring (bs : List (BitVec 8)) : BitVec 64 := let a := fieldAt bs 16 8; if a % 48 = 0 then BitVec.ofNat 64 a else 0
def packetCsig (bs : List (BitVec 8)) : BitVec 64 := let a := fieldAt bs 24 8; if a % 8 = 0 then BitVec.ofNat 64 a else 0
def packetTag (bs : List (BitVec 8)) : BitVec 16 := BitVec.ofNat 16 (fieldAt bs 4 2)

/-- Whether a packet is refused for what it holds. -/
def packetBad (bs : List (BitVec 8)) : Bool :=
  decide (2 < packetKind bs) || decide (fieldAt bs 1 1 ≠ 1) || decide (fieldAt bs 3 1 ≠ 0) || decide (fieldAt bs 6 2 ≠ 0) ||
  !zeroBytes (bs.drop 40) || (decide (packetKind bs = 1) && decide (fieldAt bs 8 8 % 64 ≠ 0)) ||
  (decide (packetKind bs = 2) && decide (fieldAt bs 8 8 % 8 ≠ 0)) || decide (fieldAt bs 16 8 % 48 ≠ 0) ||
  decide (fieldAt bs 24 8 % 8 ≠ 0)

/-! ### Completion records (R320, R434, R435) -/

/-- Posts a completion record, whose csig add follows it; without a ring only the add is made. -/
def State.reportTo (s : State) (d : Dctx) (cring csig : BitVec 64) (record : Bool → List (BitVec 8)) : Post :=
  let c := s.counterSpans d csig
  match (if csig = 0 then none else waitsPage c) with
  | some e => .failed e
  | none =>
    let bad := decide (csig ≠ 0) && !c.isOk
    let add (a : State) : State := if csig = 0 then a else if bad then a.counted d.id c else a.deviceAdd d csig 1
    if cring = 0 then .posted (add s)
    else
      match s.postRing d cring 1 fun _ => record bad with
      | .posted s1 => .posted (add s1)
      | x => x

/-- A kept record at its posting: flags[0] and the time filled in. -/
def stamp (bytes : List (BitVec 8)) (bad : Bool) (cyc : Nat) : List (BitVec 8) :=
  bytes.take 6 ++ [if bad then 1 else BitVec.ofNat 8 (fieldAt bytes 6 1)] ++ (bytes.drop 7).take 17 ++ leBytes 8 cyc

/-- Tries to post a packet's record; one that cannot be posted is kept, with one fault record when it is held. -/
def State.tryRecord (s : State) (dc : DctxId) (bytes : List (BitVec 8)) (cring csig : BitVec 64) (header : Option (BitVec 64)) (told : Bool) : State :=
  match s.dctx? dc with
  | none => s
  | some d =>
    let keep (s : State) (told : Bool) : State :=
      s.modDctx dc fun d => { d with heldItems := d.heldItems ++ [.packetRecord bytes cring csig header told] }
    match s.reportTo d cring csig fun bad => stamp bytes bad s.cyc with
    | .posted s1 => s1
    | .failed (.page a w f) => keep (s.askPage dc a w f) told
    | .failed e =>
      let x : Except Trouble Unit := .error e
      keep (if told then s.dropped dc x else (s.counted dc x).queueFault dc (heldRecord 0 e)) true
    | _ => keep s told

/-- The record of a packet that needs no launch: its status and code (R319, R324). -/
def State.reportPacket (s : State) (d : Dctx) (r : RingId) (bs : List (BitVec 8)) (status code : BitVec 8) (bad : Bool) : State :=
  s.tryRecord d.id (launchRecord status code (packetTag bs) r d.id bad 0 0 0) (packetCring bs) (packetCsig bs)
    (if packetKind bs = 1 then some (packetTarget bs) else none) false

/-! ### Ring selection (R327) -/

/-- The estimates of a device context's running launches, in 1/256 W. -/
def State.runningEnergy (s : State) (d : Dctx) : Nat :=
  256 * ((s.launches.filter fun l => decide (l.dc = d.id) && decide (l.state = .running)).map fun l => l.info.energy).foldl (· + ·) 0

/-- Whether a launch of a device context comes after those below their share, and whether the context is below its share (R334): at its
share it is neither. -/
def State.overShare (s : State) (d : Dctx) : Bool := decide (d.share * (s.part d.part).budget < s.runningEnergy d)
def State.underShare (s : State) (d : Dctx) : Bool := decide (s.runningEnergy d < d.share * (s.part d.part).budget)

/-- log2 of G0 in a launch record, 0 on the control class (R380). -/
def Launch.loggedGrant (l : Launch) : Nat := if l.cls = .control then 0 else l.lgG0

/-- The dispatch records of a launch's replay source from record i on, n more of them: dense number and core; or the failure of a
read before the last (R385). -/
def State.dispatchRecords (s : State) (d : Dctx) (l : Launch) : Nat → Nat → Nat → Except Trouble (List (Nat × Nat))
  | 0, _, _ => .ok []
  | _, _, 0 => .ok []
  | fuel + 1, i, n + 1 =>
    match s.deviceRead d (l.recordAddr i) 32 with
    | .error e => .error e
    | .ok (bs, _) =>
      if recordType bs = 0x11 ∧ fieldAt bs 24 1 = 0 then
        (s.dispatchRecords d l fuel (i + 1) n).map fun r => (fieldAt bs 4 4 % 2 ^ 22, fieldAt bs 26 2 % 2 ^ 13) :: r
      else s.dispatchRecords d l fuel (i + 1) (n + 1)

/-- A core number that no core has: a gang that the source does not dispatch is not placed while replay is enforced. -/
def noCore : Nat := 0x1FFF

/-- The cores that the replay source records for the gangs of a launch, and whether binding can use it (R385). The source's
records of a gang's threads name one core; the first of them counts. -/
def State.replayCores (s : State) (d : Dctx) (l : Launch) : Except Trouble (List (BitVec 13) × Bool) :=
  match s.deviceRead d (l.recordAddr 0) 32 with
  | .error (.fail _ a w f t) => if l.rpCount = 0 then .ok ([], false) else .error (.fail 0 a w f t)
  | .error e => if l.rpCount = 0 then .ok ([], false) else .error e
  | .ok (first, _) =>
    let good := decide (0 < l.rpCount) && decide (recordType first = 0x10) && decide (fieldAt first 16 4 = l.threads) &&
      decide (fieldAt first 20 1 = l.loggedGrant) && decide (fieldAt first 21 1 = l.info.tree.length)
    if !good then .ok ([], false)
    else
      (s.dispatchRecords d l (l.rpCount - 1) 1 l.threads).map fun dispatches =>
        let sound (c : Nat) : Bool := s.coreOn d.part c && l.info.affin.getLsbD (coreDie c) && decide (coreClass c = l.cls)
        ((List.range (l.threads / max 1 l.gang)).map fun g =>
          BitVec.ofNat 13 (((dispatches.find? fun (n, _) => decide (n / max 1 l.gang = g)).map (·.2)).getD noCore),
          dispatches.all fun (_, c) => sound c)

/-- A launch with its replay source sampled (R385). -/
def Launch.sampled (l : Launch) (d : Dctx) : Launch :=
  if l.info.mode = 2 then { l with rpBase := d.mpbase, rpCount := d.mpcnt.toNat, enforced := true } else l

/-- Whether capacity admits a launch: its first gang can be placed (R331), in replay on its recorded core. -/
def State.capacityFor (s : State) (d : Dctx) (l : Launch) : Bool :=
  if l.info.mode = 2 then
    match s.replayCores d (l.sampled d) with
    | .ok (cs, true) => (s.placeFree d.part { l.sampled d with cores := cs } 0).isSome
    | .error (.page a _ _) => !d.pageAsked (some a)
    | _ => true
  else (s.placeFree d.part l 0).isSome

/-- Whether a launch may leave admitting (R331, R334, R381, R385): one that is to be refused need not wait. -/
def State.mayAdmit (s : State) (d : Dctx) (l : Launch) : Bool :=
  decide (l.state = .admitting) &&
  (decide (l.refusal ≠ 0) ||
   (s.energyFor d.part l && s.capacityFor d l && !(decide (l.info.mode = 2) && s.replaying l) &&
    (decide (l.info.mode ≠ 1) || s.moraineRoom d 1) &&
    !(s.overShare d && s.launches.any fun x => decide (x.state = .admitting) &&
        (s.dctx? x.dc).any fun e => decide (e.part = d.part) && s.underShare e)))

/-- The head of a ring: its priority, deficit, quantum, cost, and whether it can advance. -/
structure Head where
  dc      : DctxId
  ring    : RingId
  prio    : Nat
  deficit : Nat
  quantum : Nat
  cost    : Nat
  deriving DecidableEq, Repr

/-- A free launch slot of a device context (R323). -/
def State.freeLaunchSlot (s : State) (dc : DctxId) : Option LaunchSlot :=
  ((List.range 32).map (BitVec.ofNat 5)).find? fun k => (s.launch? dc k).isNone

/-- What a ring's head costs when it can advance (R325, R327): a launch that is admitted now its threads; a LAUNCH that can be
fetched now nothing; any other packet, and a LAUNCH that is refused, 1. A head whose counter or source page the host has been asked for
cannot advance. -/
def State.headCost (s : State) (d : Dctx) (r : RingId) : Option Nat :=
  match d.headLaunch r with
  | some slot => (s.launch? d.id slot).bind fun l => if s.mayAdmit d l then some l.threads else none
  | none =>
    match s.packetAt d r with
    | .ok (some bs) =>
      if packetKind bs = 2 ∧ !packetBad bs then
        match waitsPage (s.counterSpans d (packetTarget bs)) with
        | some (.page a _ _) => if d.pageAsked (some a) then none else some 1
        | _ => some 1
      else if packetKind bs ≠ 1 ∨ packetBad bs then some 1
      else if (s.freeLaunchSlot d.id).isNone then none
      else
        match s.describe d (packetTarget bs) with
        | .error (.refuse ..) => some 1
        | .error (.wait _) => none
        | .ok _ => some 0
    | _ => none

/-- The rings of a device context whose heads can advance. -/
def State.headsOf (s : State) (d : Dctx) : List Head :=
  ((List.range 72).map (BitVec.ofNat 7)).filterMap fun r => (s.headCost d r).map fun c =>
    match d.rings[r.toNat]? with
    | some x => { dc := d.id, ring := r, prio := d.ringPrio r, deficit := x.deficit, quantum := max 1 x.quantum, cost := c }
    | none => { dc := d.id, ring := r, prio := d.ringPrio r, deficit := 0, quantum := 2 ^ 24, cost := c }

/-- Rounds until a head's deficit covers its cost. -/
def Head.rounds (h : Head) : Nat := if h.cost ≤ h.deficit then 0 else (h.cost - h.deficit + h.quantum - 1) / h.quantum

/-- Whether a device context's turn comes before another's at one priority: the partitions take turns, and the device contexts of a
partition (R327; log 42). -/
def State.turnBefore (s : State) (a b : Dctx) : Bool :=
  let pa := (s.part a.part).served
  let pb := (s.part b.part).served
  if a.part = b.part then decide (a.served < b.served) || (decide (a.served = b.served) && decide (a.id.toNat < b.id.toNat))
  else decide (pa < pb) || (decide (pa = pb) && decide (a.part.toNat < b.part.toNat))

/-- The device context whose turn it is among some. -/
def State.firstTurn (s : State) : List Dctx → Option Dctx
  | [] => none
  | d :: t =>
    match s.firstTurn t with
    | none => some d
    | some e => if s.turnBefore d e then some d else some e

/-- The heads of the highest priority, of the device context whose turn it is, its virtual rings first. -/
def State.contenders (s : State) : List Head :=
  let hs := s.dctxs.flatMap s.headsOf
  let top := (hs.map (·.prio)).foldl max 0
  let first := hs.filter fun h => decide (h.prio = top)
  match s.firstTurn (s.dctxs.filter fun d => first.any fun h => decide (h.dc = d.id)) with
  | none => []
  | some d =>
    let mine := first.filter fun h => decide (h.dc = d.id)
    let virt := mine.filter fun h => isVirtual h.ring
    if virt.isEmpty then mine else virt

/-- Takes a ring's head by the order of R327, with the deficits and turns after it; none while another ring goes first. Among heads
that need as many rounds the order is free (log 42). -/
def State.takeTurn (s : State) (dc : DctxId) (r : RingId) : Option State :=
  let peers := s.contenders
  match peers.find? fun h => decide (h.dc = dc) && decide (h.ring = r) with
  | none => none
  | some h =>
    if peers.any fun x => decide (x.rounds < h.rounds) then none
    else
      let gained := peers.foldl (fun (a : State) x =>
        a.modRing x.dc x.ring fun y => { y with deficit := y.deficit + h.rounds * x.quantum }) s
      let s1 := (gained.modRing dc r fun y => { y with deficit := y.deficit - h.cost }).modDctx dc fun d => { d with served := s.tick }
      some (match s.dctx? dc with
        | some d => s1.modPart d.part fun x => { x with served := s.tick }
        | none => s1)

/-! ### Packets at the head (R318, R319, R325) -/

/-- Reads the packet at a ring's head for a row that takes it: an unreadable one is held. -/
def State.withPacket (s : State) (f : Dctx → RingId → List (BitVec 8) → Step) : Step :=
  match s.ev with
  | .ring dc r =>
    match s.dctx? dc with
    | none => .next s
    | some d =>
      match s.packetAt d r with
      | .ok none => .next s
      | .ok (some bs) => f d r bs
      | .error (.page a w x) => .next (s.askPage dc a w x)
      | .error .noContext => .fault .noContext
      | .error e => .next (s.hold dc (.packet r) 0 e)
  | _ => .next s

/-- PACKET_NOP (R319). -/
def execPacketNop (s : State) : Step :=
  s.withPacket fun d r bs =>
    if packetKind bs = 0 ∧ !packetBad bs then .next (((s.takeTurn d.id r).map fun a => a.passHead d.id r).getD s) else .next s

/-- PACKET_SIGNAL (R319): the add, the packet's record, then the next packet. -/
def execPacketSignal (s : State) : Step :=
  s.withPacket fun d r bs =>
    if packetKind bs = 2 ∧ !packetBad bs then
      match s.takeTurn d.id r with
      | none => .next s
      | some a =>
        let c := a.counterSpans d (packetTarget bs)
        match waitsPage c with
        | some (.page x w f) => .next (s.askPage d.id x w f)
        | _ =>
          let (a1, bad) := match c with
            | .ok sp => (a.addSpans sp (fieldAt bs 32 8), false)
            | .error _ => (a.counted d.id c, true)
          .next ((a1.passHead d.id r).reportPacket d r bs 0 0 bad)
    else .next s

/-- A launch as it is fetched. -/
def fetchedLaunch (now : Nat) (d : Dctx) (r : RingId) (slot : LaunchSlot) (bs : List (BitVec 8)) (info : LaunchInfo) (lg n : Nat) (late : BitVec 8) :
    Launch :=
  { dc := d.id, slot := slot, state := if info.deps.isEmpty then .admitting else .waiting, ring := r, tag := packetTag bs
    header := packetTarget bs, cring := packetCring bs, csig := packetCsig bs, prio := min (d.ringPrio r) d.pmax, info := info
    refusal := late, lgG0 := lg, threads := n, ended := 0, started := none, cores := [], gang := gangSize info.tree
    waiting := [], resident := [], fetched := now, left := [], promised := [], instances := [], depFaulted := [], xbase := 0, channels := [], rpBase := 0, rpCount := 0
    enforced := false, consumed := [] }

/-- PACKET_LAUNCH (R319, R321, R324, R325): a LAUNCH is fetched, or refused with its record; a packet refused for what it
holds is consumed. -/
def execPacketLaunch (s : State) : Step :=
  s.withPacket fun d r bs =>
    let refuse (a : State) (code : BitVec 8) : Step :=
      match a.takeTurn d.id r with
      | none => .next s
      | some b => .next ((b.passHead d.id r).reportPacket d r bs 2 code false)
    if packetBad bs then refuse s 0x0A
    else if packetKind bs ≠ 1 then .next s
    else
      match s.freeLaunchSlot d.id with
      | none => .next s
      | some slot =>
        match s.describe d (packetTarget bs) with
        | .error (.refuse code a) =>
          refuse (match a with
            | some (r, x) => s.counted d.id (.error (.fail r x false false false) : Except Trouble Unit)
            | none => s) code
        | .error (.wait (.page a w f)) => .next (s.askPage d.id a w f)
        | .error (.wait .noContext) => .fault .noContext
        | .error (.wait _) => .next s
        | .ok (info, lg, n, late) =>
          .next ({ s with launches := s.launches ++ [fetchedLaunch s.lcc d r slot bs info lg n late] }.setAtHead d.id r slot)

/-! ### Dependences (R326) -/

/-- DEPENDENCE_MET (R326): the counters of a waiting launch that read at or above their thresholds are met; each counter
that cannot be read posts one record of kind 0x02. -/
def execDependenceMet (s : State) : Step :=
  match s.ev with
  | .launch dc slot =>
    match s.launch? dc slot, s.dctx? dc with
    | some l, some d =>
      if l.state ≠ .waiting then .next s
      else
        let read (a : BitVec 64) : Except Trouble Nat := (s.deviceRead d a 8).map fun x => leNat x.1
        let left := l.info.deps.filter fun (a, t) => match read a with
          | .ok v => decide (v < t.toNat)
          | .error _ => true
        let page := left.findSome? fun (a, _) => match read a with
          | .error (.page x w f) => some (x, w, f)
          | _ => none
        let lost := (left.map (·.1)).eraseDups.filterMap fun a => match read a with
          | .error (.fail r x w f t) => if l.depFaulted.contains a then none else some (a, Trouble.fail r x w f t)
          | _ => none
        let s1 := s.modLaunch dc slot fun l =>
          { l with info := { l.info with deps := left }, state := if left.isEmpty then .admitting else .waiting
                   depFaulted := l.depFaulted ++ lost.map (·.1) }
        let s2 := match page with
          | some (x, w, f) => s1.askPage dc x w f
          | none => s1
        .next (lost.foldl (fun (a : State) (_, e) => a.firingFault d e) s2)
    | _, _ => .next s
  | _ => .next s

/-! ### Admission and binding (R258, R263, R324, R329, R334, R380, R385) -/

/-- The launch record (R380). -/
def Launch.moraineRecord (l : Launch) : List (BitVec 8) :=
  recordHead 0x10 0x01 0 (l.handle 0) 0 ++ leBytes 4 l.threads ++ [BitVec.ofNat 8 l.loggedGrant, BitVec.ofNat 8 l.info.tree.length] ++
  leBytes 2 l.tag.toNat ++ leBytes 8 l.info.image.toNat

/-- A launch with the cores that its binding names, and the code that binding refuses it with, 0 for none. -/
def State.bindLaunch (s : State) (d : Dctx) (l : Launch) : Except Trouble (Launch × BitVec 8) :=
  if l.info.mode = 2 then
    match s.replayCores d l with
    | .error (.fail _ _ _ _ _) => .ok (l, 0x08)
    | .error e => .error e
    | .ok (cs, ok) =>
      let l1 := { l with cores := cs }
      .ok (l1, if l1.planned ∧ ok ∧ !s.planFits d.part l1 then 0x07 else if ok then l.refusal else 0x08)
  else if l.planned then
    let (cs, chosen) := s.planCores d.part l
    let l1 := { l with cores := cs, instances := chosen }
    .ok (l1, if s.planFits d.part l1 then l.refusal else 0x07)
  else .ok (l, l.refusal)

/-- Removes a launch and what is left of its threads (R227, R323, R378). -/
def State.dropLaunch (s : State) (dc : DctxId) (slot : LaunchSlot) : State :=
  let mine (h : Handle) : Bool := decide (handleLaunch h = dc ++ slot)
  { s.freeOrders (dc ++ slot) with
    launches := s.launches.filter fun l => !(decide (l.dc = dc) && decide (l.slot = slot))
    th := if s.th.exists && mine s.th.handle then Thread.start else s.th
    others := s.others.filter fun t => !mine t.handle
    hist := s.hist.map fun e => e.forget mine
    tags := s.tags.filter fun t => decide (t.launch ≠ dc ++ slot) }

/-- LAUNCH_ADMIT (R334): a launch leaves admitting and is bound, or refused; its ring's head passes on. -/
def execLaunchAdmit (s : State) : Step :=
  match s.ev with
  | .launch dc slot =>
    match s.launch? dc slot, s.dctx? dc with
    | some l0, some d =>
      if !s.mayAdmit d l0 then .next s
      else
        match s.takeTurn dc l0.ring with
        | none => .next s
        | some a =>
          match a.bindLaunch d (l0.sampled d) with
          | .error (.page x w f) => .next (s.askPage dc x w f)
          | .error .noContext => .fault .noContext
          | .error _ => .next s
          | .ok (l, code) =>
            let b := (if l0.info.mode = 2 then a.logRead d (a.replayCores d (l0.sampled d)) else a).passHead dc l.ring
            if code ≠ 0 then
              .next ((b.dropLaunch dc slot).tryRecord dc (launchRecord 2 code l.tag l.ring dc false 0 0 0) l.cring l.csig (some l.header) false)
            else
              let gangs := (List.range (l.threads / max 1 l.gang)).filter fun g => s.isHere d.part l (g * l.gang)
              let l1 := { l with state := .binding, waiting := gangs, channels := if l.planned then l.diePairs else [] }
              let b1 := b.modLaunch dc slot fun _ => l1
              let b2 := if l.info.mode = 2 then b1.modDctx dc fun d => { d with mpdiv := 0 } else b1
              .next (if l.info.mode = 1 then (b2.postMoraine dc l1.moraineRecord).getD b2 else b2)
    | _, _ => .next s
  | _ => .next s

/-! ### Completion (R320, R351) -/

/-- Whether a launch has run: its threads here have ended, and every report that its record follows has been made. -/
def State.launchOver (s : State) (l : Launch) : Bool :=
  let mine (h : Handle) : Bool := decide (handleLaunch h = handleLaunch (l.handle 0))
  let ts := s.threads.filter fun t => t.exists && mine t.handle
  l.bound && (l.started.isSome || l.waiting.isEmpty) &&
  (ts.all fun t => decide (t.place = .ended) && t.bxq.isEmpty && t.departures.isEmpty && t.moraineDebt.isEmpty) &&
  !(s.remote.any fun e => mine e.handle) &&
  !((s.dctx? l.dc).any fun d => d.fqWait.any fun r => decide (r.kind = 0x05) && mine r.handle)

/-- Posts a finished launch's record, which publishes what the launch has written, and removes it; while the record cannot be posted the launch waits, done. -/
def State.completeLaunch (s : State) (d : Dctx) (l : Launch) : State :=
  let record (bad : Bool) := launchRecord 0 0 l.tag l.ring l.dc bad l.ended (l.started.getD 0) s.cyc
  let s1 := s.modLaunch l.dc l.slot fun l => { l with state := .done }
  match s.reportTo d l.cring l.csig record with
  | .posted a =>
    ((a.published fun h => decide (handleLaunch h = handleLaunch (l.handle 0))).unhold d.id (.launchRecord l.slot)).dropLaunch l.dc l.slot
  | .failed (.page x w f) => s1.askPage d.id x w f
  | .failed e => s1.hold d.id (.launchRecord l.slot) 0 e
  | _ => s1

/-- LAUNCH_COMPLETION (R320). -/
def execLaunchCompletion (s : State) : Step :=
  match s.ev with
  | .launch dc slot =>
    match s.launch? dc slot, s.dctx? dc with
    | some l, some d => .next (if l.state = .done ∨ s.launchOver l then s.completeLaunch d l else s)
    | _, _ => .next s
  | _ => .next s

/-! ### Held accesses (R435) -/

/-- One held item tried again. -/
def State.retryItem (s : State) (dc : DctxId) (x : HeldItem) : State :=
  match s.dctx? dc, x with
  | none, _ => s
  | some d, .packet r =>
    match s.packetAt d r with
    | .ok _ => s.unhold dc x
    | .error (.page a w f) => s.askPage dc a w f
    | .error e => s.dropped dc (.error e : Except Trouble Unit)
  | some d, .launchRecord slot =>
    match s.launch? dc slot with
    | some l => s.completeLaunch d l
    | none => s.unhold dc x
  | some _, .transferRecord h =>
    match s.postCompletion h with
    | .next a => a
    | _ => s
  | some _, .packetRecord bytes cring csig header told =>
    (s.modDctx dc fun d => { d with heldItems := d.heldItems.erase x }).tryRecord dc bytes cring csig header told

/-- HELD_ACCESS_RETRY (R435): every held access of a device context is tried again. -/
def execHeldAccessRetry (s : State) : Step :=
  match s.ev with
  | .dctx dc =>
    match s.dctx? dc with
    | some d => .next (d.heldItems.foldl (fun (a : State) x => a.retryItem dc x) s)
    | none => .next s
  | _ => .next s

end Sys2Proof.Machine
end

