-- ==== Sys2Proof/Machine/Remote.lean ====
section
/-! DEFINITION. Deliveries between packages (R421 to R423): those that arrive, and the answers to those that left. -/

namespace Sys2Proof.Machine

/-- Link cycles after which an element that has not been acknowledged has timed out: 100 ms (R360, R423). -/
def remoteLimit : Nat := 440000000

/-- The answer to a delivery leaves the package. -/
def State.reply (s : State) (x : RemoteDelivery) (refusal : Option (BitVec 8)) (data : List (BitVec 8) := []) : State :=
  { s with replies := s.replies ++ [{ port := x.port, number := x.number, refusal := refusal, data := data }] }

/-- A delivery that arrives, applied in a device context: translated, and read, written or combined; and its answer (R423, R226). One that
needs a page of the host waits for it; a read of poison is refused (DESIGN CHOICE, log 128). -/
def State.applyDelivery (s : State) (d : Dctx) (x : RemoteDelivery) : State :=
  let acc := match x.kind with
    | .read => deviceAccess true false
    | .write => deviceAccess false true
    | _ => deviceAccess true true
  match s.translate d acc x.addr x.bytes with
  | .error (.page a w f) =>
    let s1 := s.askPage d.id a w f
    { s1 with arriving := s1.arriving ++ [x] }
  | .error (.fail r a w f t) => (s.counted d.id (.error (.fail r a w f t) : Except Trouble Unit)).reply x (some r)
  | .error _ => s.reply x (some 0x21)
  | .ok sp =>
    let wr : Writer := { cls := 4, ident := x.port.setWidth 32, handle := 0, dup := false }
    let store (s : State) (bs : List (BitVec 8)) : State := s.put wr sp bs
    let home := BitVec.ofNat 4 (s.cellHome (firstKey sp))
    let combine (s : State) : State :=
      let old := leNat (s.spanBytes sp)
      let s1 := store s (leBytes x.bytes (combineResult x.op x.fmt (8 * x.bytes) old x.value))
      if (spanPoison s.poison sp 0).isSome then
        (s1.bumpDie home.toNat 0x20 1).logError 2 home.toNat d.part.toNat (s.cellPlace (firstKey sp)).1 0 (s.cellPlace (firstKey sp)).2 0
      else s1
    match x.kind with
    | .read =>
      match spanPoison s.poison sp 0 with
      | some o => (s.logPoisonAt d.part 8 0 (firstKey sp + o)).reply x (some 0x33)
      | none => s.reply x none (s.spanBytes sp)
    | .write => (store s (leBytes x.bytes x.value)).reply x none
    | .combine => (combine s).reply x none
    | .combineTagged =>
      -- the source is its launch, handle bits [31:22], and its WID above them
      let (s1, apply) := s.judgeTag (BitVec.ofNat 10 x.source) (BitVec.ofNat 64 (x.source / 2 ^ 10)) home x.tag
      (if apply then combine s1 else s1).reply x none

/-- A delivery reaches the partition that owns its port, and there the device context of its number: one on a port of no partition is
discarded; one for a device context that does not exist, or whose partition is under reset, is refused (R353, R423). -/
def State.takeDelivery (s : State) (x : RemoteDelivery) : State :=
  match allParts.find? fun p => (s.part p).ports.getLsbD x.port.toNat with
  | none => s
  | some p =>
    match s.dctx? x.dc with
    | none => s.reply x (some 0x20)
    | some d => if d.part = p ∧ (s.part p).resetting.isNone then s.applyDelivery d x else s.reply x (some 0x20)

/-- REMOTE_DELIVERY_RECEIVE (R423): a delivery arrives, or one that has waited for a page of the host is tried again. -/
def execRemoteDeliveryReceive (s : State) : Step :=
  match s.ev with
  | .delivery x => .next (s.takeDelivery x)
  | .index n =>
    match s.arriving[n]? with
    | some x => .next (({ s with arriving := s.arriving.eraseIdx n } : State).takeDelivery x)
    | none => .next s
  | _ => .next s

/-- Whether a delivery waits for a page that the host has not answered for. -/
def State.deliveryWaits (s : State) (x : RemoteDelivery) : Bool :=
  (s.dctx? x.dc).any fun d => d.pages.any fun q => q.device && !q.failed && decide (x.addr.toNat / 4096 ≤ q.page.toNat) &&
    decide (q.page.toNat ≤ (x.addr.toNat + x.bytes - 1) / 4096)

/-- Whether the element at a place has left the package and is not answered. -/
def State.awayAt (s : State) (n : Nat) : Option RemoteElem :=
  (s.remote[n]?).bind fun e => if e.home = 15 ∧ e.refused.isNone then some e else none

/-- REMOTE_ACK (R423): an acknowledgement completes an element; a refusal leaves it to its instruction's delivery record. -/
def execRemoteAck (s : State) : Step :=
  match s.ev with
  | .ack n refusal => .next (if (s.awayAt n).isSome then s.answered n refusal else s)
  | _ => .next s

/-- REMOTE_TIMEOUT (R423): an element that no acknowledgement has answered within 100 ms is reported with reason 0x21. -/
def execRemoteTimeout (s : State) : Step :=
  match s.ev with
  | .index n =>
    match s.awayAt n with
    | some e => .next (if e.left + remoteLimit ≤ s.lcc then s.answered n (some 0x21) else s)
    | none => .next s
  | _ => .next s

end Sys2Proof.Machine
end

