-- ==== Sys2Proof/Machine/Fabric.lean ====
section
/-! DEFINITION. Coherence between the dies (R369 to R375): the home's transactions, the agents' answers, and evictions.
Memory itself stays one (R92); what moves here is who holds a line, and the messages about it, in their order (R363). -/

namespace Sys2Proof.Machine

/-! ### Agents (R369, R372) -/

/-- The agents. -/
def allAgents : List AgentId := (List.range 10).map (BitVec.ofNat 4)

/-- Changes an agent's state for a line; a line in I is not listed. -/
def Fabric.setAgent (f : Fabric) (l : Nat) (a : AgentId) (st : AgentState) (g : AgentLine → AgentLine := id) : Fabric :=
  let new : AgentLine := (f.agentLine l a).getD
    { line := l, agent := a, state := .i, firn := false, valid := 0, dirty := 0, age := 0, way := 0 }
  let rest := f.agents.filter fun x => !(decide (x.line = l) && decide (x.agent = a))
  { f with agents := if st = .i then rest else rest ++ [{ g new with state := st }] }

/-- The die whose channel carries an agent's messages: the host's port is on the M-die (R363, R369). -/
def channelOf (a : AgentId) : AgentId := if a = 9 then 8 else a

/-- The oldest message of a channel, where it is that agent's. -/
def oldestFor {α : Type} (a : AgentId) (l : List (AgentId × α)) : Option α :=
  (l.find? fun x => decide (channelOf x.1 = channelOf a)).bind fun x => if x.1 = a then some x.2 else none

/-- The message that reaches an agent next, and that of an agent which reaches the hub next (R363). -/
def Fabric.nextToDie (f : Fabric) (a : AgentId) : Option (Nat × HomeMsg) := oldestFor a f.toDie
def Fabric.nextToHub (f : Fabric) (a : AgentId) : Option (Nat × AgentMsg) := oldestFor a f.toHub

/-- Whether nothing is on its way to the hub on an agent's channel. -/
def Fabric.channelFree (f : Fabric) (a : AgentId) : Bool := f.toHub.all fun x => decide (channelOf x.1 ≠ channelOf a)

/-- Takes that message. -/
def Fabric.dropToDie (f : Fabric) (a : AgentId) : Fabric :=
  { f with toDie := match f.nextToDie a with
      | some m => f.toDie.erase (a, m)
      | none => f.toDie }
def Fabric.dropToHub (f : Fabric) (a : AgentId) : Fabric :=
  { f with toHub := match f.nextToHub a with
      | some m => f.toHub.erase (a, m)
      | none => f.toHub }

def Fabric.reply (f : Fabric) (a : AgentId) (l : Nat) (m : AgentMsg) : Fabric := { f with toHub := f.toHub ++ [(a, l, m)] }

/-! ### The home (R370 to R372) -/

/-- Agents of a mask, but for one. -/
def sharers (m : BitVec 10) (but : AgentId) : List AgentId := allAgents.filter fun a => m.getLsbD a.toNat && decide (a ≠ but)
def agentBit (a : AgentId) : BitVec 10 := 1 <<< a.toNat

/-- A directory entry at a new state. -/
def DirLine.to (d : DirLine) (st : BitVec 2) (own : AgentId) (shr : BitVec 10) : DirLine :=
  { d with st := st, own := own, shr := shr, trans := .stable }

/-- The home's action on a request while the line is stable: the entry after it and the messages it sends. -/
def DirLine.take (d : DirLine) (r : Request) (a : AgentId) : DirLine × List (AgentId × HomeMsg) :=
  let others := sharers d.shr a
  let mask := d.shr &&& ~~~(agentBit a)
  let invs := others.map fun x => (x, HomeMsg.inv)
  let own (m : HomeMsg) : List (AgentId × HomeMsg) := [(d.own, m)]
  let em (m : HomeMsg) : DirLine × List (AgentId × HomeMsg) := (d.to 2 a 0, [(a, m)])
  let collect (upg : Bool) (more : List (AgentId × HomeMsg)) : DirLine × List (AgentId × HomeMsg) :=
    if others.isEmpty then (d.to 2 a 0, more ++ [(a, if upg then .upgAck else .dataM)])
    else ({ d with trans := .acks a mask upg }, more ++ invs)
  match d.st.toNat, r with
  | 0, .getS => em .dataE
  | 0, .getM | 0, .upg => em .dataM
  | 1, .getS => ({ d with shr := d.shr ||| agentBit a }, [(a, .dataS)])
  | 1, .getM => collect false []
  | 1, .upg => collect (d.shr.getLsbD a.toNat) []
  | 2, .getS => ({ d with trans := .bS a }, own .fwdGetS)
  | 2, .getM | 2, .upg => ({ d with trans := .bM a 0 false }, own .fwdGetM)
  | _, .getS => if d.st = 3 then ({ d with trans := .bS a }, own .fwdGetS) else (d, [])
  | _, .getM => ({ d with trans := .bM a mask false }, own .fwdGetM ++ invs)
  | _, .upg =>
    -- the owner itself upgrades with its sharers' acknowledgements (log 43)
    if d.own = a then collect true []
    else if d.shr.getLsbD a.toNat then collect true (own .inv)
    else ({ d with trans := .bM a mask false }, own .fwdGetM ++ invs)
  | 2, .putM | 2, .putO | 2, .putE => if d.own = a then (d.to 0 0 0, [(a, .putAck)]) else (d, [(a, .putAck)])
  | 3, .putM | 3, .putO | 3, .putE =>
    if d.own = a then (if d.shr = 0 then (d.to 0 0 0, [(a, .putAck)]) else (d.to 1 0 d.shr, [(a, .putAck)])) else (d, [(a, .putAck)])
  | _, .putM | _, .putO | _, .putE => (d, [(a, .putAck)])

/-- Takes queued requests in order until one leaves the line transient. -/
def DirLine.drain (d : DirLine) : List (Request × AgentId) → DirLine × List (AgentId × HomeMsg)
  | [] => ({ d with queue := [] }, [])
  | (r, a) :: t =>
    if d.trans ≠ .stable then ({ d with queue := (r, a) :: t }, [])
    else
      let (d1, m1) := d.take r a
      let (d2, m2) := d1.drain t
      (d2, m1 ++ m2)

/-- A write-back of the owner meets its forward (WBP): the forward is answered from it, and the former owner is taken to
be I. None where no forward of the line is outstanding for it. -/
def DirLine.writeBack (d : DirLine) (a : AgentId) : Option (DirLine × List (AgentId × HomeMsg)) :=
  if d.own ≠ a then none
  else
    match d.trans with
    | .bS req => some (d.to 1 0 (d.shr ||| agentBit req), [(req, .dataS), (a, .putAck)])
    | .bM req acks false =>
      some (if acks = 0 then d.to 2 req 0 else { d with trans := .bM req acks true }, [(req, .dataM), (a, .putAck)])
    | _ => none

/-- Whether a request is a write-back. -/
def Request.isPut : Request → Bool
  | .putM | .putO | .putE => true
  | _ => false

/-- A line's entry at the home: one that has not been read yet is not in the directory cache. -/
def Fabric.dirLine (f : Fabric) (l : Nat) : DirLine :=
  (f.dir.find? fun d => decide (d.line = l)).getD
    { line := l, st := 0, own := 0, shr := 0, trans := .stable, queue := [], cached := false }

/-- The entry after an action, with its messages, and then the queue's requests. -/
def Fabric.putDir (f : Fabric) (d : DirLine) (ms : List (AgentId × HomeMsg)) : Fabric :=
  let (d1, more) := if d.trans = .stable then { d with queue := [] }.drain d.queue else (d, [])
  { f with
    dir := f.dir.filter (fun x => decide (x.line ≠ d.line)) ++ [d1]
    toDie := f.toDie ++ (ms ++ more).map fun (a, m) => (a, d.line, m) }

/-- A request reaches the home (R370, R371). -/
def Fabric.request (f : Fabric) (l : Nat) (r : Request) (a : AgentId) : Fabric :=
  let d := f.dirLine l
  if !d.cached then
    let d1 := { d with trans := .fill, queue := d.queue ++ [(r, a)] }
    { f with dir := f.dir.filter (fun x => decide (x.line ≠ l)) ++ [d1] }
  else
    match d.trans with
    | .stable =>
      let (d1, ms) := d.take r a
      f.putDir d1 ms
    | _ =>
      match (if r.isPut then d.writeBack a else none) with
      | some (d1, ms) => f.putDir d1 ms
      | none => { f with dir := f.dir.map fun x => if x.line = l then { x with queue := x.queue ++ [(r, a)] } else x }

/-- Whether a valid leaf of some device context maps a line with a memory type of some. -/
def State.lineMapped (s : State) (types : List Nat) (l : Nat) : Bool :=
  s.dctxs.any fun d => s.installed d.part (192 * l) && (s.leavesUnder d.part 2 d.ptroot.toNat).any fun (w, level) =>
    !leafAts w && types.contains (leafMt w) && decide (leafFrame w ≤ l / 1024) && decide (l / 1024 < leafFrame w + 8192 ^ level)

/-- Whether accesses to a line take part in the protocol: the cached and stream types (R300, R369). -/
def State.lineCached (s : State) (l : Nat) : Bool := s.lineMapped [0, 1] l

/-- Whether a link still carries an agent's messages (R364). -/
def State.linkUp (s : State) (a : AgentId) : Bool := !s.mod.linksDown.getLsbD (channelOf a).toNat

/-- Whether a request reaches the hub before another: earlier, or in the same link cycle from a lower die (R371). -/
def LineAsk.before (x y : LineAsk) : Bool :=
  decide (x.at_ < y.at_) || (decide (x.at_ = y.at_) && decide (x.agent.toNat < y.agent.toNat))

/-- The row of a request. -/
def State.askRow (s : State) (x : LineAsk) : Instr :=
  match s.fab.agentState x.line x.agent with
  | .s | .o => .homeUpg
  | _ => if x.write then .homeGetm else .homeGets

/-- The requests that have reached the hub, of each line the first, behind what their agent sent before (R363): those of a link cycle are
known when it is over. -/
def State.askRows (s : State) : List (Instr × LineAsk) :=
  (s.fab.asks.filter fun x => decide (x.at_ < s.lcc) && (s.fab.agentState x.line x.agent ≠ .miA) && s.linkUp x.agent && s.fab.channelFree x.agent &&
    s.fab.asks.all fun y => decide (y.line ≠ x.line) || y = x || x.before y || decide (s.lcc ≤ y.at_)).map fun x => (s.askRow x, x)

/-- A request of an agent: the home takes one whose turn it is; any other reaches the hub in this link cycle, and its turn comes with those
of the cycle (R371). -/
def State.issueRequest (s : State) (i : Instr) (r : Request) (from_ : List AgentState) (to_ : AgentState) : Step :=
  match s.ev with
  | .line l a =>
    match s.askRows.find? fun (j, x) => decide (j = i) && decide (x.line = l) && decide (x.agent = a) with
    | some (_, x) =>
      .next { s with fab := ({ s.fab with asks := s.fab.asks.erase x }.setAgent l a to_ fun x => { x with firn := false }).request l r a }
    | none =>
      if a.toNat < 10 ∧ (s.homeDie (192 * l)).isSome ∧ (a = 9 ∨ s.lineCached l) ∧ from_.contains (s.fab.agentState l a) ∧
          (s.fab.asks.all fun x => decide (x.line ≠ l) || decide (x.agent ≠ a)) then
        .next { s with fab := { s.fab with asks := s.fab.asks ++ [{ line := l, agent := a, write := decide (r ≠ .getS), at_ := s.lcc }] } }
      else .next s
  | _ => .next s

/-- A write-back that is on its way reaches the home. -/
def State.takePut (s : State) (r : Request) : Step :=
  match s.ev with
  | .line l a =>
    if s.fab.nextToHub a = some (l, .put r) then .next { s with fab := (s.fab.dropToHub a).request l r a } else .next s
  | _ => .next s

/-- HOME_GETS, HOME_GETM, HOME_UPG (R371): an agent's load or store that misses, or a store to a copy it shares. -/
def execHomeGets (s : State) : Step := s.issueRequest .homeGets .getS [.i] .isD
def execHomeGetm (s : State) : Step := s.issueRequest .homeGetm .getM [.i] .imD
def execHomeUpg (s : State) : Step := s.issueRequest .homeUpg .upg [.s, .o] .smA
/-- HOME_PUTM, HOME_PUTO, HOME_PUTE (R371). -/
def execHomePutm (s : State) : Step := s.takePut .putM
def execHomePuto (s : State) : Step := s.takePut .putO
def execHomePute (s : State) : Step := s.takePut .putE

/-- HOME_INV_ACK (R371): the last acknowledgement completes its transaction. -/
def execHomeInvAck (s : State) : Step :=
  match s.ev with
  | .line l a =>
    if s.fab.nextToHub a = some (l, .invAck) then
      let f := s.fab.dropToHub a
      let d := f.dirLine l
      let left (m : BitVec 10) : BitVec 10 := m &&& ~~~(agentBit a)
      .next { s with fab := match d.trans with
        | .acks req m upg =>
          if left m = 0 then f.putDir (d.to 2 req 0) [(req, if upg then .upgAck else .dataM)]
          else f.putDir { d with trans := .acks req (left m) upg } []
        | .bM req m data =>
          if left m = 0 ∧ data then f.putDir (d.to 2 req 0) [] else f.putDir { d with trans := .bM req (left m) data } []
        | _ => f }
    else .next s
  | _ => .next s

/-- HOME_FWD_REPLY (R372): the owner's data is relayed to the requester. -/
def execHomeFwdReply (s : State) : Step :=
  match s.ev with
  | .line l a =>
    match s.fab.nextToHub a with
    | some (k, .fwdReply new) =>
      if k ≠ l then .next s
      else
        let f := s.fab.dropToHub a
        let d := f.dirLine l
        .next { s with fab := match d.trans with
          | .bS req =>
            if new = .o then f.putDir (d.to 3 a (d.shr ||| agentBit req)) [(req, .dataS)]
            else f.putDir (d.to 1 0 (agentBit a ||| agentBit req)) [(req, .dataS)]
          | .bM req m _ =>
            f.putDir (if m = 0 then d.to 2 req 0 else { d with trans := .bM req m true }) [(req, .dataM)]
          | _ => f }
    | _ => .next s
  | _ => .next s

/-- Entries of the hub's directory cache (R370). -/
def directoryRoom : Nat := 8388608

/-- Makes room in a full directory cache: an entry whose line is in no transaction leaves it, which one is the hub's (R370). -/
def Fabric.makeRoom (f : Fabric) (n : Nat) : Fabric :=
  let idle := f.dir.filter fun d => d.cached && decide (d.trans = .stable)
  if (f.dir.filter fun d => d.cached).length < directoryRoom then f
  else
    match idle[n % idle.length]? with
    | some x => { f with dir := f.dir.map fun d => if d.line = x.line then { d with cached := false } else d }
    | none => f

/-- DIRECTORY_FILL (R362): the entry is read into the directory cache, and the requests that waited for it are taken. -/
def execDirectoryFill (s : State) : Step :=
  match s.ev with
  | .line l _ =>
    let d := s.fab.dirLine l
    if d.trans = .fill then .next { s with fab := (s.fab.makeRoom (Config.which s.tick l)).putDir { d with trans := .stable, cached := true } [] }
    else .next s
  | _ => .next s

/-! ### Agents' answers (R372, R373) -/

/-- Whether a thread of an agent's die waits to write a line that the agent has been given: it does so before the agent answers any later
forward or invalidation (R373). -/
def State.holdsLine (s : State) (l : Nat) (a : AgentId) : Bool :=
  (match s.fab.agentState l a with
    | .m | .e => true
    | _ => false) &&
  s.threads.any fun t => decide (t.place = .resident) && decide (t.agent = a) && t.waitsKind (.home l)

/-- Whether an agent answers a message now. -/
def State.mayAnswer (s : State) (l : Nat) (a : AgentId) (m : HomeMsg) : Bool :=
  match m with
  | .inv | .fwdGetS | .fwdGetM => s.linkUp a && !s.holdsLine l a
  | _ => s.linkUp a

/-- A message that reaches an agent. -/
def State.atAgent (s : State) (m : HomeMsg) (f : Fabric → Nat → AgentId → Fabric) : Step :=
  match s.ev with
  | .line l a =>
    if s.fab.nextToDie a = some (l, m) ∧ s.mayAnswer l a m then .next { s with fab := f (s.fab.dropToDie a) l a } else .next s
  | _ => .next s

/-- AGENT_INV: a copy is dropped and acknowledged; an owner whose line the home holds in O gives it up without a reply. -/
def execAgentInv (s : State) : Step :=
  s.atAgent .inv fun f l a =>
    match f.agentState l a with
    | .s | .i => (f.setAgent l a .i).reply a l .invAck
    | .isD | .imD => f.reply a l .invAck
    | .smA => (f.setAgent l a .imD).reply a l .invAck
    | .e | .m | .o => f.setAgent l a .i
    | .miA => f

/-- Whether an agent that took a line in E has written it since, silently. -/
def State.wroteSilently (s : State) (l : Nat) : Bool := Config.pick s.tick l

/-- AGENT_FWDGETS: the owner's data goes to the home. An owner that awaits its own UpgAck answers as an owner (log 43). -/
def execAgentFwdgets (s : State) : Step :=
  s.atAgent .fwdGetS fun f l a =>
    match f.agentState l a with
    | .m | .o => (f.setAgent l a .o).reply a l (.fwdReply .o)
    | .e => if s.wroteSilently l then (f.setAgent l a .o).reply a l (.fwdReply .o) else (f.setAgent l a .s).reply a l (.fwdReply .s)
    | .smA => f.reply a l (.fwdReply .o)
    | _ => f

/-- AGENT_FWDGETM. -/
def execAgentFwdgetm (s : State) : Step :=
  s.atAgent .fwdGetM fun f l a =>
    match f.agentState l a with
    | .m | .o | .e => (f.setAgent l a .i).reply a l (.fwdReply .i)
    | .smA => (f.setAgent l a .imD).reply a l (.fwdReply .i)
    | _ => f

/-- The host's stores to a line that its port has been given perform (R373, R407). -/
def State.hostPerforms (s : State) (l : Nat) : State :=
  let mine (x : HostStore) : Bool := decide (x.key / 192 = l)
  (s.fab.hostStores.filter mine).foldl (fun (b : State) x =>
      b.put { cls := 6, ident := 0, handle := 0, dup := false } [{ key := x.key, len := x.bytes.length, leaf := 0 }] x.bytes)
    { s with fab := { s.fab with hostStores := s.fab.hostStores.filter fun x => !mine x } }

/-- Data or permission arrives: the agent holds the line, and the access that asked for it performs before anything else happens to it
(R373). Which sectors it then holds, and which are dirty, is the die's (log 20). -/
def State.agentTakes (s : State) (m : HomeMsg) (st : AgentState) : Step :=
  match s.atAgent m fun f l a =>
    match f.agentState l a with
    | .isD | .imD | .smA => f.setAgent l a st fun x =>
        let held := (Config.openField 10 s.tick l).setWidth 4
        { x with valid := held, dirty := if st = .m then held &&& (Config.openField 11 s.tick l).setWidth 4 else 0 }
    | _ => f with
  | .next s1 =>
    match s.ev with
    | .line l a => .next (if a = 9 ∧ s1.fab.agentState l 9 = .m then s1.hostPerforms l else s1)
    | _ => .next s1
  | r => r

def execAgentDataS (s : State) : Step := s.agentTakes .dataS .s
def execAgentDataE (s : State) : Step := s.agentTakes .dataE .e
def execAgentDataM (s : State) : Step := s.agentTakes .dataM .m
def execAgentUpgack (s : State) : Step := s.agentTakes .upgAck .m

/-- AGENT_PUTACK. -/
def execAgentPutack (s : State) : Step :=
  s.atAgent .putAck fun f l a => if f.agentState l a = .miA then f.setAgent l a .i else f

/-! ### Accesses and their requests (R369, R371, R372; log 142) -/

/-- Whether an agent's state serves an access, or a request of its own already will. -/
def AgentState.serves (st : AgentState) (write : Bool) : Bool :=
  match st with
  | .m | .imD | .smA => true
  | .e | .s | .o | .isD => !write
  | .i | .miA => false

/-- Link cycles from a die's port to the hub (R361, R362); the way from the access to the port takes no time (DESIGN CHOICE, log 173). -/
def portTime : Nat := 22

/-- An access of an agent to a line: one in firn comes back to L2 (R374), an agent in E becomes M silently, and one that
lacks the line asks for it. -/
def State.askLine (s : State) (x : Touch) : State :=
  let st := s.fab.agentState x.line x.agent
  let asked (y : LineAsk) : Bool := decide (y.line = x.line) && decide (y.agent = x.agent) && (y.write || !x.write)
  if (s.fab.agentLine x.line x.agent).any (fun y => y.firn) ∧ st.serves x.write then
    { s with fab := s.fab.setAgent x.line x.agent st fun y => { y with firn := false } }
  else if st = .e ∧ x.write then { s with fab := s.fab.setAgent x.line x.agent .m }
  else if st.serves x.write then s
  else
    let asks := if s.fab.asks.any asked then s.fab.asks.map fun y => if asked y then { y with who := y.who ++ x.who.toList } else y
      else s.fab.asks ++ [{ line := x.line, agent := x.agent, write := x.write, at_ := s.lcc + portTime, who := x.who.toList }]
    { s with fab := { s.fab with asks := asks } }

/-- The requests of the accesses that a step has made, and those that its agents no longer need. -/
def State.noteTraffic (s : State) : State :=
  if s.touched.isEmpty && s.fab.asks.isEmpty then s
  else
    let s1 := s.touched.foldl State.askLine { s with touched := [] }
    { s1 with fab := { s1.fab with asks := s1.fab.asks.filter fun x => !(s1.fab.agentState x.line x.agent).serves x.write } }

/-! ### Evictions (R374) -/

/-- Firn sets of a compute die (R374). -/
def firnSets (code : BitVec 2) : Nat := 60 * (2 * carveBytes code / 196608)

/-- Whether a line lies in a die's firn, in the set of another line. -/
def State.sameSet (s : State) (x y : AgentLine) : Bool :=
  let sets := firnSets (s.mod.carve[x.agent.toNat]?.getD 0)
  decide (y.agent = x.agent) && y.firn && decide (y.line % sets = x.line % sets)

/-- Whether a die's firn is to take a line that its L2 evicts: a remote line of the cached type (R374). -/
def State.firnTakes (s : State) (x : AgentLine) : Bool :=
  !x.firn && decide (x.agent.toNat < 8) && decide (s.homeDie (192 * x.line) ≠ some x.agent.toNat) && s.lineMapped [0] x.line &&
  decide (0 < firnSets (s.mod.carve[x.agent.toNat]?.getD 0))

/-- The die's firn takes a line that L2 evicts, in a free way: it is the newest of its set, and each sector it receives is a firn fill
(R407). -/
def State.firnFill (s : State) (x : AgentLine) : State :=
  let used := (s.fab.agents.filter (s.sameSet x)).map (·.way.toNat)
  let older : Fabric := { s.fab with agents := s.fab.agents.map fun y =>
    { y with age := y.age + (if s.sameSet x y && decide (y.age ≠ 15) then 1 else 0) } }
  let s1 : State := { s with fab := older.setAgent x.line x.agent x.state fun y =>
    { y with firn := true, age := 0, valid := x.valid, dirty := x.dirty
             way := BitVec.ofNat 4 (((List.range 16).find? fun w => !used.contains w).getD 0) } }
  (List.range 4).foldl (fun (b : State) k =>
    if x.valid.getLsbD k then
      b.watchWrites { cls := 5, ident := x.agent.setWidth 32, handle := 0, dup := false } (192 * x.line + 48 * k) 48
    else b) s1

/-- Whether an agent holds a line and awaits nothing for it. -/
def AgentState.held : AgentState → Bool
  | .s | .e | .m | .o => true
  | _ => false

/-- A line leaves its agent: a copy in S silently, any other with its Put (R372). -/
def State.leaveAgent (s : State) (x : AgentLine) : State :=
  let put (r : Request) : State := { s with fab := (s.fab.setAgent x.line x.agent .miA fun y => { y with firn := false }).reply x.agent x.line (.put r) }
  match x.state with
  | .s => { s with fab := s.fab.setAgent x.line x.agent .i }
  | .m => put .putM
  | .o => put .putO
  | .e => put (if s.wroteSilently x.line then .putM else .putE)
  | _ => s

/-- The line of a full firn set that makes way: the oldest of those that await nothing. -/
def State.firnVictim (s : State) (x : AgentLine) : Option AgentLine :=
  (s.fab.agents.filter fun y => s.sameSet x y && y.state.held).foldl (fun v y =>
    match v with
    | some z => if z.age.toNat < y.age.toNat then some y else v
    | none => some y) none

/-- AGENT_EVICTION (R374): a remote line moves from L2 to firn, whose set makes room for it; from firn, and where firn takes none, a line
leaves the agent. -/
def execAgentEviction (s : State) : Step :=
  match s.ev with
  | .evict l a toFirn =>
    match s.fab.agentLine l a with
    | none => .next s
    | some x =>
      if !x.state.held then .next s
      else if s.firnTakes x then
        if (s.fab.agents.filter (s.sameSet x)).length < 16 then .next (s.firnFill x)
        else match s.firnVictim x with
          | some y => .next ((s.leaveAgent y).firnFill x)
          | none => .next s
      else .next (if toFirn then s else s.leaveAgent x)
  | _ => .next s

/-! ### The firn's tags (R374, R375) -/

/-- The state code of a firn tag. -/
def AgentState.tagCode : AgentState → Nat
  | .s => 1 | .e => 2 | .m => 3 | .o => 4
  | _ => 0

/-- A firn tag of 12 bytes; that of an invalid way is zero. -/
def firnTag (x : Option AgentLine) : List (BitVec 8) :=
  match x with
  | none => zeros 12
  | some x => leBytes 12 (x.line % 2 ^ 46 + x.state.tagCode * 2 ^ 46 + x.valid.toNat * 2 ^ 49 + x.dirty.toNat * 2 ^ 53 + x.age.toNat * 2 ^ 57)

/-- The tag line of a set of a compute die's firn. -/
def State.tagLine (s : State) (d : AgentId) (set : Nat) : List (BitVec 8) :=
  (List.range 16).flatMap fun w => firnTag (s.fab.agents.find? fun x =>
    decide (x.agent = d) && x.firn && decide (x.way.toNat = w) && decide (x.line % firnSets (s.mod.carve[d.toNat]?.getD 0) = set))

end Sys2Proof.Machine
end

