-- ==== Sys2Proof/Machine/Integer.lean ====
section
/-! DEFINITION. Integer operations on general registers (R141, R142, R143). -/

namespace Sys2Proof.Machine

/-- A truth value as a register. -/
def flagWord (b : Bool) : BitVec 64 := if b then 1 else 0

/-- An operation of two general registers. -/
def rr (i : Instr) (d a b : BitVec 5) (f : BitVec 64 → BitVec 64 → BitVec 64) (s : State) : Step :=
  issue i s fun s => .next (s.setG d (f (s.g a) (s.g b)))

/-- An operation of one general register. -/
def r1 (i : Instr) (d a : BitVec 5) (f : BitVec 64 → BitVec 64) (s : State) : Step :=
  issue i s fun s => .next (s.setG d (f (s.g a)))

/-- Leading zero bits of an n-bit value. -/
def leadingZeros (n x : Nat) : Nat := if x % 2 ^ n = 0 then n else n - 1 - Nat.log2 (x % 2 ^ n)

/-- Trailing zero bits of a value, at most n. -/
def trailingZeros : Nat → Nat → Nat
  | 0, _ => 0
  | n + 1, x => if x % 2 = 1 then 0 else 1 + trailingZeros n (x / 2)

/-- Shift and rotate amounts use bits [5:0] (R141). -/
def shiftAmount (b : BitVec 64) : Nat := b.toNat % 64

/-- Division of R142, as 64-bit results. -/
def divSigned (x y : BitVec 64) : BitVec 64 :=
  if y = 0 then BitVec.allOnes 64
  else if x = 0x8000_0000_0000_0000 ∧ y = BitVec.allOnes 64 then x
  else BitVec.ofInt 64 (x.toInt.tdiv y.toInt)
def remSigned (x y : BitVec 64) : BitVec 64 :=
  if y = 0 then x
  else if x = 0x8000_0000_0000_0000 ∧ y = BitVec.allOnes 64 then 0
  else BitVec.ofInt 64 (x.toInt.tmod y.toInt)
def divUnsigned (x y : BitVec 64) : BitVec 64 := if y = 0 then BitVec.allOnes 64 else BitVec.ofNat 64 (x.toNat / y.toNat)
def remUnsigned (x y : BitVec 64) : BitVec 64 := if y = 0 then x else BitVec.ofNat 64 (x.toNat % y.toNat)

def execAdd (d a b : BitVec 5) (s : State) : Step := rr (.add d a b) d a b (· + ·) s
def execSub (d a b : BitVec 5) (s : State) : Step := rr (.sub d a b) d a b (· - ·) s
def execAnd (d a b : BitVec 5) (s : State) : Step := rr (.and d a b) d a b (· &&& ·) s
def execOr (d a b : BitVec 5) (s : State) : Step := rr (.or d a b) d a b (· ||| ·) s
def execXor (d a b : BitVec 5) (s : State) : Step := rr (.xor d a b) d a b (· ^^^ ·) s
def execAndn (d a b : BitVec 5) (s : State) : Step := rr (.andn d a b) d a b (fun x y => x &&& ~~~y) s
def execSll (d a b : BitVec 5) (s : State) : Step := rr (.sll d a b) d a b (fun x y => x <<< shiftAmount y) s
def execSrl (d a b : BitVec 5) (s : State) : Step := rr (.srl d a b) d a b (fun x y => x >>> shiftAmount y) s
def execSra (d a b : BitVec 5) (s : State) : Step := rr (.sra d a b) d a b (fun x y => x.sshiftRight (shiftAmount y)) s
def execRot (d a b : BitVec 5) (s : State) : Step := rr (.rot d a b) d a b (fun x y => x.rotateLeft (shiftAmount y)) s
def execSlt (d a b : BitVec 5) (s : State) : Step := rr (.slt d a b) d a b (fun x y => flagWord (x.slt y)) s
def execSltn (d a b : BitVec 5) (s : State) : Step := rr (.sltn d a b) d a b (fun x y => flagWord (x.ult y)) s
def execMin (d a b : BitVec 5) (s : State) : Step := rr (.min d a b) d a b (fun x y => if x.slt y then x else y) s
def execMax (d a b : BitVec 5) (s : State) : Step := rr (.max d a b) d a b (fun x y => if x.slt y then y else x) s
def execMinn (d a b : BitVec 5) (s : State) : Step := rr (.minn d a b) d a b (fun x y => if x.ult y then x else y) s
def execMaxn (d a b : BitVec 5) (s : State) : Step := rr (.maxn d a b) d a b (fun x y => if x.ult y then y else x) s

def execClz (d a : BitVec 5) (s : State) : Step := r1 (.clz d a) d a (fun x => BitVec.ofNat 64 (leadingZeros 64 x.toNat)) s
def execCtz (d a : BitVec 5) (s : State) : Step := r1 (.ctz d a) d a (fun x => BitVec.ofNat 64 (trailingZeros 64 x.toNat)) s
def execPopc (d a : BitVec 5) (s : State) : Step := r1 (.popc d a) d a (fun x => BitVec.ofNat 64 (popcount x.toNat 64)) s
def execBrev (d a : BitVec 5) (s : State) : Step := r1 (.brev d a) d a (fun x => x.reverse) s
def execSextB (d a : BitVec 5) (s : State) : Step := r1 (.sextB d a) d a (fun x => (x.setWidth 8).signExtend 64) s
def execSextH (d a : BitVec 5) (s : State) : Step := r1 (.sextH d a) d a (fun x => (x.setWidth 16).signExtend 64) s
def execSextW (d a : BitVec 5) (s : State) : Step := r1 (.sextW d a) d a (fun x => (x.setWidth 32).signExtend 64) s
def execZextB (d a : BitVec 5) (s : State) : Step := r1 (.zextB d a) d a (fun x => (x.setWidth 8).setWidth 64) s
def execZextH (d a : BitVec 5) (s : State) : Step := r1 (.zextH d a) d a (fun x => (x.setWidth 16).setWidth 64) s
def execZextW (d a : BitVec 5) (s : State) : Step := r1 (.zextW d a) d a (fun x => (x.setWidth 32).setWidth 64) s

def execAddi (d a : BitVec 5) (i : BitVec 16) (s : State) : Step := r1 (.addi d a i) d a (fun x => x + i.signExtend 64) s
def execAndi (d a : BitVec 5) (i : BitVec 16) (s : State) : Step := r1 (.andi d a i) d a (fun x => x &&& i.signExtend 64) s
def execOri (d a : BitVec 5) (i : BitVec 16) (s : State) : Step := r1 (.ori d a i) d a (fun x => x ||| i.setWidth 64) s
def execXori (d a : BitVec 5) (i : BitVec 16) (s : State) : Step := r1 (.xori d a i) d a (fun x => x ^^^ i.setWidth 64) s
def execSlli (d a : BitVec 5) (n : BitVec 6) (s : State) : Step := r1 (.slli d a n) d a (fun x => x <<< n.toNat) s
def execSrli (d a : BitVec 5) (n : BitVec 6) (s : State) : Step := r1 (.srli d a n) d a (fun x => x >>> n.toNat) s
def execSrai (d a : BitVec 5) (n : BitVec 6) (s : State) : Step := r1 (.srai d a n) d a (fun x => x.sshiftRight n.toNat) s
def execRoti (d a : BitVec 5) (n : BitVec 6) (s : State) : Step := r1 (.roti d a n) d a (fun x => x.rotateLeft n.toNat) s
def execLih (d : BitVec 5) (k : BitVec 2) (v : BitVec 16) (s : State) : Step :=
  issue (.lih d k v) s fun s => .next (s.setG d (v.setWidth 64 <<< (16 * k.toNat)))
def execLihK (d : BitVec 5) (k : BitVec 2) (v : BitVec 16) (s : State) : Step :=
  r1 (.lihK d k v) d d (fun x => (x &&& ~~~(0xFFFF#64 <<< (16 * k.toNat))) ||| (v.setWidth 64 <<< (16 * k.toNat))) s
def execSlti (d a : BitVec 5) (i : BitVec 15) (s : State) : Step :=
  r1 (.slti d a i) d a (fun x => flagWord (x.slt (i.signExtend 64))) s
def execSltni (d a : BitVec 5) (i : BitVec 15) (s : State) : Step :=
  r1 (.sltni d a i) d a (fun x => flagWord (x.ult (i.signExtend 64))) s

def execMul (d a b : BitVec 5) (s : State) : Step := rr (.mul d a b) d a b (· * ·) s
def execMulh (d a b : BitVec 5) (s : State) : Step :=
  rr (.mulh d a b) d a b (fun x y => BitVec.ofInt 64 (x.toInt * y.toInt / 2 ^ 64)) s
def execMulhn (d a b : BitVec 5) (s : State) : Step :=
  rr (.mulhn d a b) d a b (fun x y => BitVec.ofNat 64 (x.toNat * y.toNat / 2 ^ 64)) s
def execDiv (d a b : BitVec 5) (s : State) : Step := rr (.div d a b) d a b divSigned s
def execDivn (d a b : BitVec 5) (s : State) : Step := rr (.divn d a b) d a b divUnsigned s
def execRem (d a b : BitVec 5) (s : State) : Step := rr (.rem d a b) d a b remSigned s
def execRemn (d a b : BitVec 5) (s : State) : Step := rr (.remn d a b) d a b remUnsigned s

end Sys2Proof.Machine
end

