-- ==== Sys2Proof/Machine/Management.lean ====
section
/-! DEFINITION. The register BAR (R317, R367, R411, R416, R424) and the management controller: its mailbox commands
(R314 to R316, R354, R368, R419, R422, R425 to R429), sensors, ports, firmware and bring-up (R420, R426, R427, R432). -/

namespace Sys2Proof.Machine

/-! ### Registers as they read (R317, R361, R367, R411, R424) -/

/-- `dblend`: V, T, C, M and cirque dies (R358, R367). -/
def blendWord : Nat := 0x15_4333_2222
/-- `dratio` of the dies that are present (R360, R367). -/
def State.ratioWord (s : State) : Nat :=
  ((List.range 10).map fun d => if s.mod.present.getLsbD d then (if d < 7 then 4 else 2) * 16 ^ d else 0).foldl (· + ·) 0
/-- Whether a die is present, enabled, and, a compute die, powered by a partition (R348, R367). -/
def State.enabledNow (s : State) (d : Nat) : Bool :=
  s.mod.enabled.getLsbD d && s.mod.present.getLsbD d && (decide (8 ≤ d) || (s.spokePart d).isSome)
/-- `dienab`. -/
def State.dienab (s : State) : Nat :=
  (((List.range 10).filter s.enabledNow).map fun d => 2 ^ d).foldl (· + ·) 0 + s.mod.present.toNat * 2 ^ 16
/-- The carve-out code in force on the compute dies; while they differ, what `dfirn` shows is open (log 20). -/
def State.carveCode (s : State) : BitVec 2 :=
  if (List.range 8).all fun d => decide (s.mod.carve[d]? = some s.mod.carve[0]) then s.mod.carve[0] else (Config.openField 17 s.tick 0).setWidth 2
/-- A discovery register by its offset in the block. -/
def State.discovery (s : State) (off : Nat) : Nat :=
  if off = 0x000 then 0x1_0001
  else if off = 0x008 then blendWord
  else if off = 0x010 then s.dienab
  else if off = 0x018 then s.ratioWord
  else if off = 0x020 then s.carveCode.toNat + firnSets s.carveCode * 2 ^ 32
  else if off = 0x028 then s.cxlUsable / 2 ^ 30
  else if 0x040 ≤ off ∧ off ≤ 0x080 then
    let d := (off - 0x040) / 8
    if h : d < 9 then (if s.enabledNow d then (s.mod.pods[d]).toNat else 0) else 0
  else if off = 0x098 then s.mod.ttrTime.toNat + (if s.mod.ttrValid then 256 else 0)
  else if off = 0x0A0 then 0x1010_1602_0204
  else 0

/-- A mailbox register or 8 bytes of `mbdata`. -/
def State.mailbox (s : State) (off : Nat) : Nat :=
  let m := s.mod
  if off = 0 then m.mbOp.toNat + m.mbLen.toNat * 2 ^ 16 + (if m.mbGo then 2 ^ 32 else 0)
  else if off = 8 then m.mbRc.toNat + (if m.mbRun.isSome then 2 ^ 16 else 0) + m.mbOlen.toNat * 2 ^ 32
  else if off = 16 then 1
  else if 0x1000 ≤ off ∧ off < 0x2000 then leNat ((m.mbData.drop (off - 0x1000)).take 8)
  else 0

/-- A counter that the module has counted (R411). -/
def State.counter (s : State) (off : Nat) : Nat :=
  ((s.mod.counters.find? fun c => decide (c.offset = off)).map fun c => c.value.toNat).getD 0

/-- What physical units count, and nothing else of the module shows: misses of TLBs and of slices, their accesses and
conflicts (R411, log 106); the sum of what each step since module reset has added. -/
def State.unitCounter (s : State) (off : Nat) : Nat :=
  ((List.range (s.tick - s.mod.began)).foldl (fun a k => a + Config.measured (s.mod.began + k) off) 0) % 2 ^ 64

/-- A counter of a die's block, at an offset in it (R411). -/
def State.dieCounter (s : State) (d off : Nat) : Nat :=
  if off = 0 then s.slicesOn d
  else if off < 256 then s.counter (0x70_0000 + 16384 * d + off)
  else if s.slicesOn d ≤ off / 64 - 4 then 0
  else
    match off % 64 with
    | 0x00 | 0x08 | 0x10 => s.unitCounter (0x70_0000 + 16384 * d + off)
    | 0x18 => if d < 8 then s.unitCounter (0x70_0000 + 16384 * d + off) else 0
    | 0x20 => s.comparators d (off / 64 - 4)
    | _ => 0

/-- An aligned 8-byte read of the register BAR by the host: the last accepted tail and the errors of a kick page,
discovery, the mailbox, counters; unassigned offsets read 0, as all does before the controller is ready (R432). -/
def State.registerRead (s : State) (off : Nat) : Nat :=
  if !s.mod.ready then 0
  else if off < 32 * 4096 then
    match (s.dctx? (BitVec.ofNat 5 (off / 4096))).bind fun d => d.rings[off % 4096 / 64]? with
    | some r => if off % 64 = 0 then r.tail.toNat else if off % 64 = 8 then r.errors.toNat else 0
    | none => 0
  else if 0x30_0000 ≤ off ∧ off < 0x30_2000 then s.mailbox (off - 0x30_0000)
  else if 0x40_0000 ≤ off ∧ off < 0x40_1000 then s.discovery (off - 0x40_0000)
  else if 0x70_0000 ≤ off ∧ off < 0x72_4000 then s.dieCounter ((off - 0x70_0000) / 16384) (off % 16384)
  else if 0x50_0000 ≤ off ∧ off < 0x62_4000 ∧ off % 256 = 0x38 then s.unitCounter off
  else s.counter off

/-! ### Registers as they are written (R368, R416, R424) -/

/-- TTQ_WRITE (R368): `ttr` reports the pair's travel time. -/
def execTtqWrite (s : State) : Step :=
  match s.ev with
  | .value v =>
    let a := bitsOf v.toNat 0 13
    let b := bitsOf v.toNat 16 13
    let on (c : Nat) : Bool :=
      decide (c < 4672) && s.enabledNow (coreDie c) &&
        (if h : coreDie c < 9 then (s.mod.pods[coreDie c]).getLsbD (diePod c) else false)
    let time := if a < 4672 ∧ b < 4672 then BitVec.ofNat 8 (travelTime a b) else (Config.openField 14 s.tick 0).setWidth 8
    .next (if s.mod.ready then { s with mod := { s.mod with ttrTime := time, ttrValid := on a && on b } } else s)
  | _ => .next s

/-- Opcodes of R425. -/
def mailboxOps : List Nat :=
  [0x01, 0x10, 0x11, 0x12, 0x13, 0x14, 0x20, 0x21, 0x22, 0x23, 0x30, 0x31, 0x40, 0x41, 0x50, 0x51, 0x52, 0x53]

/-- The turn of a started command whose operands the payload lays out, or which has none: the others' rows come with
theirs (log 44). -/
def State.commandTurn (s : State) (op : Nat) : Option Turn :=
  let b := s.mod.mbData ++ zeros 32
  match op with
  | 0x01 => some (.event .identify .none)
  | 0x40 => some (.event .readSensors .none)
  | 0x41 => some (.event .readLog .none)
  | 0x51 => some (.event .fwActivate .none)
  | 0x52 => some (.event .loadSupervisor (.supervisor (BitVec.ofNat 8 (fieldAt b 0 1)) (BitVec.ofNat 56 (fieldAt b 1 7))
      (BitVec.ofNat 64 (fieldAt b 8 8)) (BitVec.ofNat 64 (fieldAt b 16 8)) (BitVec.ofNat 64 (fieldAt b 24 8))))
  | _ => none

/-- A write of `mbcmd` (R424): with go set it starts a command, or is discarded while one of either path runs; an opcode that no command
has returns code 1, and a payload longer than the buffer code 2. -/
def State.writeMbcmd (s : State) (v : Nat) : State :=
  let go := v.testBit 32
  if go ∧ s.mod.mbRun.isSome then s
  else
    let s1 : State := { s with mod := { s.mod with
      mbOp := BitVec.ofNat 16 (bitsOf v 0 16), mbLen := BitVec.ofNat 16 (bitsOf v 16 16), mbGo := go || s.mod.mbGo
      mbRun := if go then some { i3c := false, op := BitVec.ofNat 16 (bitsOf v 0 16) } else s.mod.mbRun } }
    if !go then s1
    else
      let op := bitsOf v 0 16
      if !mailboxOps.contains op then s1.mbFinish op 1
      else if 4096 < bitsOf v 16 16 then s1.mbFinish op 2
      else
        match s1.commandTurn op with
        | some t => { s1 with agenda := s1.agenda ++ [t] }
        | none => s1

/-- MMIO_REGISTER_WRITE (R416): the mailbox's registers; every other write without a row of its own is discarded. -/
def execMmioRegisterWrite (s : State) : Step :=
  match s.ev with
  | .mmio off v =>
    let o := off.toNat
    if !s.mod.ready then .next s
    else if o = 0x30_0000 then .next (s.writeMbcmd v.toNat)
    else if 0x30_1000 ≤ o ∧ o + 8 ≤ 0x30_2000 ∧ o % 8 = 0 then
      let k := o - 0x30_1000
      let whole := s.mod.mbData ++ zeros (4096 - s.mod.mbData.length)
      .next { s with mod := { s.mod with mbData := whole.take k ++ leBytes 8 v.toNat ++ whole.drop (k + 8) } }
    else .next s
  | .hostStore k bytes =>
    -- CXL.mem: the host's port is agent 9
    if bytes = [] ∨ k / 192 ≠ (k + bytes.length - 1) / 192 ∨ (s.homeDie k).isNone then .next s
    else
      let s1 : State := { s with fab := { s.fab with hostStores := s.fab.hostStores ++ [{ key := k, bytes := bytes }] } }
      .next (match s.fab.agentState (k / 192) 9 with
        | .m | .e => s1.hostPerforms (k / 192)
        | _ => s1.touch 9 true none [{ key := k, len := bytes.length, leaf := 0 }])
  | _ => .next s

/-! ### Partitions (R348, R352, R354, R368, R425) -/

/-- Whether a partition is under reset. -/
def State.busy (s : State) (p : PartId) : Bool := (s.part p).resetting.isSome || (s.part p).resetAsked.isSome

/-- A command has its partition reset, and returns once it is ready (R424). -/
def State.commandReset (s : State) (p : PartId) (op : Nat) : State :=
  let s1 := s.requestReset p 0x01
  { s1 with mod := { s1.mod.running op with mbWait := some p } }

/-- Spokes, windows, ports and channels of a partition: those that it has, and those that wait for its reset point. -/
def State.holdings (s : State) (p : PartId) : List (BitVec 10 × BitVec 16 × BitVec 8 × Nat) :=
  let x := s.part p
  (x.spokes, x.windows, x.ports, x.channels) :: x.assign.toList

/-- An output of n bytes whose fields lie where the device puts them (log 16). -/
def placed (op n : Nat) (fields : List (List (BitVec 8))) : List (BitVec 8) :=
  fields.zipIdx.foldl (fun out (bs, j) =>
    let o := Config.layoutPlace op j % (n + 1)
    (out.take o ++ bs ++ out.drop (o + bs.length)).take n) (zeros n)

/-- Firmware versions of the slots. -/
def State.slotVersions (s : State) : List (Option (BitVec 32)) := s.mod.fw.toList.map fun f => f.image.map fun i => i.version

/-- IDENTIFY (R425). The version of an empty slot is open (log 20). -/
def execIdentify (s : State) : Step :=
  s.command .identify 0x01 fun s => .next (s.mbFinish 0x01 0 (.identity 0x1_0001 (BitVec.ofNat 64 blendWord) (BitVec.ofNat 64 s.dienab) s.slotVersions s.mod.fwActive)
    (placed 0x01 (Config.layoutPlace 0x01 6 % 4097)
      ([leBytes 8 0x1_0001, leBytes 8 blendWord, leBytes 8 s.dienab] ++
        s.slotVersions.map (fun v => leBytes 4 (v.getD ((Config.openField 25 0 0).setWidth 32)).toNat) ++ [leBytes 1 s.mod.fwActive.toNat])))

/-- SET_PARTITION (R425): the reset point takes the old holdings, and the new ones stand when the reset ends. The channels
of all partitions stay within 12, and no spoke is held twice (log 45). -/
def execSetPartition (s : State) : Step :=
  s.command .setPartition 0x10 fun s =>
  match s.ev with
  | .assign p spokes windows ports channels =>
    if s.busy p then .next (s.mbFinish 0x10 3)
    else
      let others := allParts.filter fun q => decide (q ≠ p)
      let sum := (others.map fun q => ((s.holdings q).map fun x => x.2.2.2).foldl max 0).foldl (· + ·) 0
      let taken := others.any fun q => (s.holdings q).any fun x =>
        decide (x.1 &&& spokes ≠ 0) || decide (x.2.1 &&& windows ≠ 0) || decide (x.2.2.1 &&& ports ≠ 0)
      if 12 < sum + channels ∨ taken ∨ spokes &&& 0x300 ≠ 0 then .next (s.mbFinish 0x10 2)
      else
        .next ((s.modPart p fun x => { x with assign := some (spokes, windows, ports, channels) }).commandReset p 0x10)
  | _ => .next s

/-- RESET_PARTITION (R425, R352). -/
def execResetPartition (s : State) : Step :=
  s.command .resetPartition 0x11 fun s =>
  match s.ev with
  | .part p =>
    if s.busy p then .next (s.mbFinish 0x11 3)
    else .next (s.commandReset p 0x11)
  | _ => .next s

/-- SET_BUDGET (R334, R425). -/
def execSetBudget (s : State) : Step :=
  s.command .setBudget 0x12 fun s =>
  match s.ev with
  | .partVal p n =>
    let sum := ((allParts.filter fun q => decide (q ≠ p)).map fun q => (s.part q).budget).foldl (· + ·) 0
    if s.busy p then .next (s.mbFinish 0x12 3)
    else if 4000 < sum + n then .next (s.mbFinish 0x12 2)
    else .next ((s.modPart p fun x => { x with budget := n }).mbFinish 0x12 0)
  | _ => .next s

/-- SET_CARVEOUT (R368): the code takes effect at the next reset of the partitions. -/
def execSetCarveout (s : State) : Step :=
  s.command .setCarveout 0x13 fun s =>
  match s.ev with
  | .value v =>
    if 3 < v.toNat then .next (s.mbFinish 0x13 2)
    else .next ({ s with mod := { s.mod with carveNext := v.setWidth 2 } }.mbFinish 0x13 0)
  | _ => .next s

/-- SET_ABORT_RING (R354). -/
def execSetAbortRing (s : State) : Step :=
  s.command .setAbortRing 0x14 fun s =>
  match s.ev with
  | .abortRing p desc =>
    if s.busy p then .next (s.mbFinish 0x14 3)
    else if desc.toNat % 48 ≠ 0 then .next (s.mbFinish 0x14 2)
    else .next ((s.modPart p fun x => { x with abortRing := some desc }).mbFinish 0x14 0)
  | _ => .next s

/-! ### Device contexts and rings (R314 to R316, R428) -/

/-- The fields of a ring from its descriptor; a descriptor that breaks R7 or its limits leaves the ring disabled (R316). -/
def ringOf (pmax : Nat) (bs : List (BitVec 8)) (old : Ring) : Ring :=
  let base := fieldAt bs 0 8
  let lg := fieldAt bs 8 1
  let quantum := fieldAt bs 12 4
  if base % 192 = 0 ∧ 4 ≤ lg ∧ lg ≤ 16 ∧ fieldAt bs 9 1 ≤ pmax ∧ fieldAt bs 10 1 ≤ 1 ∧ fieldAt bs 11 1 = 0 ∧ 1 ≤ quantum ∧
      quantum ≤ 2 ^ 24 ∧ fieldAt bs 16 8 % 8 = 0 ∧ fieldAt bs 24 8 = 0 then
    { old with
      base := BitVec.ofNat 64 base, lg := lg, prio := fieldAt bs 9 1, enabled := decide (fieldAt bs 10 1 = 1), quantum := quantum
      headw := BitVec.ofNat 64 (fieldAt bs 16 8) }
  else { old with enabled := false }

/-- A ring before its descriptor has been read. -/
def Ring.fresh : Ring :=
  { base := 0, lg := 4, prio := 0, enabled := false, quantum := 1, headw := 0, head := 0, tail := 0, errors := 0, deficit := 0, atHead := none }

/-- Reads the descriptor of ring r; one that cannot be read leaves the ring disabled (log 46). -/
def State.readRing (s : State) (d : Dctx) (r : Nat) (old : Ring) : Ring :=
  match s.deviceRead d (d.ringTable + BitVec.ofNat 64 (32 * r)) 32 with
  | .ok (bs, _) => ringOf d.pmax bs old
  | .error _ => { old with enabled := false }

/-- Whether a descriptor of 96 bytes keeps R7 and its limits (R314). -/
def descriptorSound (b : List (BitVec 8)) : Bool :=
  let f (off n : Nat) : Nat := fieldAt b off n
  decide (f 0 2 = 1) && decide (f 2 2 = 0) && decide (f 4 4 = 0) && decide (f 8 4 < 2 ^ 20) && decide (f 0x0C 4 = 0) &&
  decide (f 0x10 8 % 65536 = 0) && decide (f 0x10 8 < 2 ^ 52) && decide (f 0x18 8 % 4 = 0) && decide (f 0x20 8 % 48 = 0) &&
  canonical (BitVec.ofNat 64 (f 0x20 8)) && decide (f 0x2C 2 ≤ 256) && decide (f 0x2E 1 ≤ 7) && decide (f 0x2F 1 = 0) &&
  decide (10 ≤ f 0x30 4) && decide (f 0x30 4 ≤ 1000000) && decide (f 0x34 4 = 0) && zeroBytes (b.drop 0x48)

/-- The device context of a descriptor, its rings not yet read. -/
def dctxOf (dc : DctxId) (p : PartId) (b : List (BitVec 8)) : Dctx :=
  let f (off n : Nat) : Nat := fieldAt b off n
  { id := dc, part := p, aqimaj := 1, aqimin := 0, caps := 0, pasid := BitVec.ofNat 20 (f 8 4), ptroot := BitVec.ofNat 52 (f 0x10 8)
    sentry := BitVec.ofNat 64 (f 0x18 8), iroute := BitVec.ofNat 32 (f 0x28 4), share := f 0x2C 2, pmax := f 0x2E 1, slice := f 0x30 4
    ringTable := BitVec.ofNat 64 (f 0x38 8), capblk := BitVec.ofNat 64 (f 0x40 8), lines := 0, rings := List.replicate 64 Ring.fresh
    served := 0, submitted := [], actions := [], firing := [], fqdesc := BitVec.ofNat 56 (f 0x20 8), fqOvf := false, fqWait := [], mrdesc := 0
    mrHw := false, mrBroken := false, mpbase := 0, mpcnt := 0, mpdiv := 0, dwdesc := 0, dsa := Vector.replicate 4 0, dsm := Vector.replicate 4 0
    dsSector := Vector.replicate 4 none, pages := [], invals := [], invalsSent := 0, heldItems := [] }

/-- Whether the supervisor entry address translates, executable and not to user level, to an entry of a verified image of
the partition (R428). -/
def State.sentrySound (s : State) (d : Dctx) : Bool :=
  match s.leafOf d d.sentry with
  | .ok l =>
    l.getLsbD 4 && !l.getLsbD 5 && !leafAts l &&
    (s.part d.part).images.any fun i => i.entries.contains (leafFrame l * 196608 + pageOffset d.sentry)
  | .error _ => false

/-- What the device writes of the capability block: bytes [63:32] (R315). -/
def capabilityAnswer : List (BitVec 8) := leBytes 2 1 ++ leBytes 2 0 ++ leBytes 8 0 ++ zeros 20

/-- CREATE_DCTX (R314, R315, R428). -/
def execCreateDctx (s : State) : Step :=
  s.command .createDctx 0x20 fun s =>
  match s.ev with
  | .create dc p desc =>
    if s.busy p then .next (s.mbFinish 0x20 3)
    else
      let a := desc.toNat
      let b := readCells s.mem a 96
      let d := dctxOf dc p b
      if a % 192 ≠ 0 ∨ !s.installed p a then .next (s.mbFinish 0x20 2)
      else if (poisonedSector s.poison a 96).isSome then .next ((s.logPoisonAt p 9 0 (48 * (poisonedSector s.poison a 96).getD 0)).mbFinish 0x20 2)
      else if (s.dctx? dc).isSome ∨ !descriptorSound b ∨ !s.sentrySound d then .next (s.mbFinish 0x20 2)
      else
        let s := (s.logRead d (s.deviceRead d d.capblk 64))
        match s.deviceRead d d.capblk 64, s.deviceSpans d (d.capblk + 32) 32 false with
        | .ok (cap, _), .ok sp =>
          if fieldAt cap 0 2 = 0 then .next (s.mbFinish 0x20 2)
          else
            let s1 := (List.range 64).foldl (fun (a : State) r => a.logRead d (a.deviceRead d (d.ringTable + BitVec.ofNat 64 (32 * r)) 32))
              (s.devicePut sp capabilityAnswer)
            let d1 := { d with rings := d.rings.zipIdx.map fun (x, r) => s1.readRing d r x }
            let before := s1.dctxs.filter fun x => decide (x.id.toNat < dc.toNat)
            let after := s1.dctxs.filter fun x => decide (dc.toNat < x.id.toNat)
            .next ({ s1 with dctxs := before ++ [d1] ++ after }.mbFinish 0x20 0)
        | _, _ => .next (s.mbFinish 0x20 2)
  | _ => .next s

/-- Whether a held item is the record of a launch that has been refused: until it is posted the launch has had no report (R351). -/
def HeldItem.ofLaunch (x : HeldItem) : Bool :=
  match x with
  | .packetRecord _ _ _ (some _) _ => true
  | _ => false

/-- DESTROY_DCTX (R425): refused while a launch of the device context is live; its armed actions are discarded. -/
def execDestroyDctx (s : State) : Step :=
  s.command .destroyDctx 0x21 fun s =>
  match s.ev with
  | .dctx dc =>
    match s.dctx? dc with
    | none => .next (s.mbFinish 0x21 2)
    | some d =>
      if (s.launches.any fun l => decide (l.dc = dc)) || d.heldItems.any HeldItem.ofLaunch then .next (s.mbFinish 0x21 3) else .next ((s.destroy [d]).mbFinish 0x21 0)
  | _ => .next s

/-- UPDATE_RING (R316): the descriptor is read again; head, tail and errors stay. -/
def execUpdateRing (s : State) : Step :=
  s.command .updateRing 0x22 fun s =>
  match s.ev with
  | .ring dc r =>
    match s.dctx? dc with
    | none => .next (s.mbFinish 0x22 2)
    | some d =>
      if 64 ≤ r.toNat then .next (s.mbFinish 0x22 2)
      else
        match s.deviceRead d (d.ringTable + BitVec.ofNat 64 (32 * r.toNat)) 32 with
        | .error (.page a w f) =>
          -- it runs on until the host has answered
          let s1 := s.askPage dc a w f
          .next { s1 with mod := { s1.mod.running 0x22 with mbHeld := some s.ev } }
        | x => .next (((s.counted dc x).modRing dc r fun y => s.readRing d r.toNat y).mbFinish 0x22 0)
  | _ => .next s

/-- Whether an UPDATE_RING that has waited for a page of the host has its answer. -/
def State.commandDue (s : State) : Bool :=
  s.mod.mbHeld.any fun x =>
    match x with
    | .ring dc r => (s.dctx? dc).all fun d => !d.pageAsked (some (d.ringTable + BitVec.ofNat 64 (32 * r.toNat)))
    | _ => false

/-- SET_IROUTE (R314): held lines go to the thread that it names. -/
def execSetIroute (s : State) : Step :=
  s.command .setIroute 0x23 fun s =>
  match s.ev with
  | .iroute dc h =>
    match s.dctx? dc with
    | none => .next (s.mbFinish 0x23 2)
    | some d =>
      let s1 := s.modDctx dc fun d => { d with iroute := h }
      if s.live h then .next (((s1.raiseLines h d.lines).modDctx dc fun d => { d with lines := 0 }).mbFinish 0x23 0)
      else .next (s1.mbFinish 0x23 0)
  | _ => .next s

/-! ### Second-tier memory and endpoints (R418 to R422) -/

/-- 1.5 GiB. -/
def windowUnit : Nat := 3 * 2 ^ 29

/-- The device ranges of a window: port, first byte, bytes (R419). -/
def CxlWindow.ranges (w : CxlWindow) : List (BitVec 2 × Nat × Nat) :=
  let n := max 1 w.ports.length
  w.ports.zipIdx.map fun ((q, base), j) => (q, base, 192 * ((w.size / 192 + (n - 1 - j)) / n))

/-- Whether two windows meet in physical or in device space. -/
def CxlWindow.meets (a b : CxlWindow) : Bool :=
  (decide (a.base < b.base + b.size) && decide (b.base < a.base + a.size)) ||
  a.ranges.any fun (q, x, n) => b.ranges.any fun (r, y, m) => decide (q = r) && decide (x < y + m) && decide (y < x + n)

/-- The cell of a byte of second-tier memory once window i is w instead: its bytes stay in its device (R419). -/
def State.movedCell (s : State) (i : Nat) (w : CxlWindow) (k : Nat) : Nat :=
  let at_ := if parkBase ≤ k then some ((k - parkBase) / 2 ^ 52, (k - parkBase) % 2 ^ 52) else (s.windowAt k).map fun (_, v) => v.device k
  match at_ with
  | none => k
  | some (q, a) =>
    let shown := (List.range 16).findSome? fun j =>
      if h : j < 16 then (if j = i then some w else s.mod.windows[j]).bind fun v => v.shows q a else none
    shown.getD (parkBase + q * 2 ^ 52 + a)

/-- Whether a cell is one of second-tier memory. -/
def secondTier (k : Nat) : Bool := (decide (cxlBase ≤ k) && decide (k < hostBase)) || decide (parkBase ≤ k)

/-- Window i becomes w. -/
def State.setWindow (s : State) (i : BitVec 4) (w : CxlWindow) : State :=
  { s with
    mem := (s.mem.filter fun c => secondTier c.1).foldl (fun m c => writeCells m (s.movedCell i.toNat w c.1) [c.2])
      (s.mem.filter fun c => !secondTier c.1)
    poison := (s.poison.filter fun q => secondTier (48 * q)).foldl (fun l q => insertNat (s.movedCell i.toNat w (48 * q) / 48) l)
      (s.poison.filter fun q => !secondTier (48 * q))
    hist := s.hist.filter fun e => !secondTier e.key
    mod := { s.mod with windows := s.mod.windows.set i.toNat (some w) } }

/-- Whether window w may become window i (R419): its own form, its ports' usable capacity, the bound of all, and no other window of its
device space, or of its ports for another partition. A port is assigned to the partitions whose windows name it (DEDUCED, log 69). -/
def State.windowSound (s : State) (i : BitVec 4) (w : CxlWindow) : Bool :=
  let others := (List.range 16).filterMap fun j => if h : j < 16 then (if j = i.toNat then none else s.mod.windows[j]) else none
  decide (w.base % windowUnit = 0) && decide (w.size % windowUnit = 0) && decide (cxlBase ≤ w.base) && decide (w.base + w.size ≤ 2 ^ 52) &&
  !w.ports.isEmpty && decide (w.ports.length ≤ 3) && (w.ports.all fun (q, _) => decide (q ≠ 0)) &&
  decide ((w.ports.map (·.1)).eraseDups.length = w.ports.length) && (others.all fun v => !v.meets w) &&
  (w.ranges.all fun (q, x, n) => decide (x + n ≤ s.portUsable q.toNat)) &&
  decide ((others.map (·.size)).foldl (· + ·) w.size ≤ s.cxlUsable) &&
  (others.all fun v => decide (v.part = w.part) || v.ports.all fun (q, _) => (w.ports.all fun (r, _) => decide (q ≠ r))) &&
  allParts.all fun q => decide (q = w.part) || !(s.part q).windows.getLsbD i.toNat

/-- SET_CXL_WINDOW (R419). -/
def execSetCxlWindow (s : State) : Step :=
  s.command .setCxlWindow 0x30 fun s =>
  match s.ev with
  | .window i p base size ports =>
    let w : CxlWindow := { part := p, base := base.toNat, size := size.toNat, ports := ports.map fun (q, b) => (q, b.toNat) }
    if s.busy p then .next (s.mbFinish 0x30 3)
    else if !s.windowSound i w then .next (s.mbFinish 0x30 2)
    else .next ((s.setWindow i w).mbFinish 0x30 0)
  | _ => .next s

/-- An entry of a node or rack table (R422). -/
def endpointEntry (rack : Bool) (b : List (BitVec 8)) : Endpoint :=
  { valid := decide (fieldAt b 0 1 = 1), ports := BitVec.ofNat 8 (fieldAt b 1 1), isSelf := decide (fieldAt b 2 1 = 1)
    packages := if rack then BitVec.ofNat 8 (fieldAt b 3 1) else 0, address := BitVec.ofNat 128 (leNat ((b.drop 8).take 16).reverse) }

/-- Whether an entry keeps R7, valid or not: 24 bytes, assigned values, reserved bytes zero. -/
def entrySoundAt (rack : Bool) (b : List (BitVec 8)) : Bool :=
  decide (b.length = 24) && decide (fieldAt b 0 1 ≤ 1) && decide (fieldAt b 2 1 ≤ 1) && zeroBytes ((b.take 8).drop (if rack then 4 else 3))

/-- Whether an endpoint table keeps R422: its length, its entries, one self entry without ports, package counts. -/
def endpointsSound (rack : Bool) (es : List (List (BitVec 8))) : Bool :=
  let t := es.map (endpointEntry rack)
  decide (t.length ≤ (if rack then 32 else 64)) && es.all (entrySoundAt rack) && decide ((t.filter fun e => e.valid && e.isSelf).length = 1) &&
  t.all fun e => !e.valid ||
    ((!e.isSelf || decide (e.ports = 0)) && (!rack || (decide (1 ≤ e.packages.toNat) && decide (e.packages.toNat ≤ 64))))

/-- SET_ENDPOINT (R422). -/
def execSetEndpoint (s : State) : Step :=
  s.command .setEndpoint 0x31 fun s =>
  match s.ev with
  | .endpoints p rack es =>
    let t := es.map (endpointEntry rack)
    if s.busy p then .next (s.mbFinish 0x31 3)
    else if !endpointsSound rack es then .next (s.mbFinish 0x31 2)
    else .next ((s.modPart p fun x => if rack then { x with rack := t } else { x with node := t }).mbFinish 0x31 0)
  | _ => .next s

/-- CXL_PORT_FAILURE (R420): the link of a second-tier port goes down, or a transaction on it cannot be retried. -/
def execCxlPortFailure (s : State) : Step :=
  match s.ev with
  | .port n up =>
    if n.toNat = 0 ∨ 3 < n.toNat then .next s
    else
      let q : BitVec 2 := n.setWidth 2
      let hit := allParts.filter fun p => (List.range 16).any fun i =>
        if h : i < 16 then
          match s.mod.windows[i] with
          | some w => decide (w.part = p) && (s.part p).windows.getLsbD i && w.ports.any fun (r, _) => decide (r = q)
          | none => false
        else false
      let s1 : State := { s with mod := { s.mod with cxlUp := if up then s.mod.cxlUp else s.mod.cxlUp &&& ~~~((1 : BitVec 4) <<< n.toNat) } }
      let row := (Config.openField 12 s.tick 0).toNat % 256
      let s2 := hit.foldl (fun (a : State) p => a.logError 4 8 p.toNat row n.toNat 0 0) s1
      .next (s2.escalate hit ((Config.openField 13 s.tick 0).setWidth 8) false)
  | _ => .next s

/-- ULTRA_ETHERNET_LINK_CHANGE (R423). -/
def execUltraEthernetLinkChange (s : State) : Step :=
  match s.ev with
  | .port n up =>
    .next { s with mod := { s.mod with ueUp := if up then s.mod.ueUp ||| (1 <<< n.toNat) else s.mod.ueUp &&& ~~~((1 : BitVec 8) <<< n.toNat) } }
  | _ => .next s

/-! ### Sensors and the log (R356, R426) -/

/-- The record of a sensor: 8 bytes with its value, and among them its sequence number, where is open (R426, log 16). -/
def sensorRecord (value : BitVec 48) (number : BitVec 16) : List (BitVec 8) :=
  let o := Config.layoutPlace 0x40 0 % 7
  (leBytes 6 value.toNat).take o ++ leBytes 2 number.toNat ++ (leBytes 6 value.toNat).drop o

/-- READ_SENSORS (R426): 8 bytes for each of 39 sensors. -/
def execReadSensors (s : State) : Step :=
  s.command .readSensors 0x40 fun s =>
  .next (s.mbFinish 0x40 0 (.sensors s.mod.sensors.toList) (s.mod.sensors.toList.flatMap fun (v, n) => sensorRecord v n))

/-- READ_LOG (R356, R425): entries of the log, as many as the buffer holds, from one that its payload names (log 16). -/
def execReadLog (s : State) : Step :=
  s.command .readLog 0x41 fun s =>
  let entries := s.mod.logFatal ++ s.mod.logGeneral
  .next (s.mbFinish 0x41 0 (.log entries)
    (((entries.drop ((Config.openField 15 0x41 0).toNat % (entries.length + 1))).take 64).flatMap LogEntry.bytes))

/-- SENSOR_UPDATE (R426): a reading; a hot die is capped from k = 8 down, and one above 115 °C is module-fatal. -/
def execSensorUpdate (s : State) : Step :=
  match s.ev with
  | .sensor n v =>
    if h : n.toNat < 39 then
      let s1 : State := { s with mod := { s.mod with
        sensors := s.mod.sensors.set n.toNat (BitVec.ofNat 48 v, (s.mod.sensors[n.toNat]).2 + 1) } }
      if hd : n.toNat < 10 then
        let k := s1.mod.heat[n.toNat]
        let k' := if 1050 < v then some (match k with
            | none => 8
            | some x => max 1 (x - 1)) else if v < 1000 then none else k
        let s2 : State := { s1 with mod := { s1.mod with heat := s1.mod.heat.set n.toNat k' } }
        if 1150 < v then
          .next ((s2.logError 5 n.toNat 0xFF ((Config.openField 12 s.tick 0).toNat % 256) 0 0 0).escalate allParts 0x04 true)
        else .next s2
      else .next s1
    else .next s
  | _ => .next s

/-! ### Firmware, supervisor images, owner (R427 to R429) -/

/-- Whether a signature over bytes is good under the owner key in force. -/
def State.signed (s : State) (bytes sig : List (BitVec 8)) : Bool :=
  match s.mod.owner with
  | some h => Config.signatureGood h bytes sig
  | none => false

/-- What a signature covers: the bytes, then the version (R427, R428). -/
def signedBytes (bytes : List (BitVec 8)) (version : BitVec 32) : List (BitVec 8) := bytes ++ leBytes 4 version.toNat

/-- FW_WRITE (R427): the inactive slot. -/
def execFwWrite (s : State) : Step :=
  s.command .fwWrite 0x50 fun s =>
  match s.ev with
  | .firmware image =>
    let k : BitVec 1 := ~~~s.mod.fwActive
    .next ({ s with mod := { s.mod with fw := s.mod.fw.set k.toNat { image := some image, verified := false } } }.mbFinish 0x50 0)
  | _ => .next s

/-- FW_ACTIVATE (R427): the inactive slot is verified, and runs from the next module reset. -/
def execFwActivate (s : State) : Step :=
  s.command .fwActivate 0x51 fun s =>
  let k : BitVec 1 := ~~~s.mod.fwActive
  match (s.mod.fw[k.toNat]).image with
  | none => .next (s.mbFinish 0x51 4)
  | some i =>
    if !s.signed (signedBytes i.bytes i.version) i.signature then .next (s.mbFinish 0x51 4)
    else if i.version.toNat < s.mod.fwFloor.toNat then .next (s.mbFinish 0x51 5)
    else
      .next ({ s with mod := { s.mod with
        fw := s.mod.fw.set k.toNat { image := some i, verified := true }, fwNext := k } }.mbFinish 0x51 0)

/-- Whether a floe image is a sound supervisor image (R138, R136). -/
def supervisorSound (b : List (BitVec 8)) : Bool :=
  let f (off n : Nat) : Nat := fieldAt b off n
  let whole := f 0x3C 4
  decide (f 0 4 = 0x454F_4C46) && decide (f 4 2 = 1) && decide (f 8 4 = 0) && zeroBytes ((b.take 0x60).drop 0x40) &&
  decide (f 0x0D 1 = 1) && (f 0x0C 1).testBit 0 && zeroBytes ((b.take 0x24).drop 0x0E) && zeroBytes ((b.take 0x30).drop 0x24) &&
  decide (1 ≤ f 0x34 2) && tableFits (f 0x30 4) (f 0x34 2) 16 whole && tableFits (f 0x38 4) (f 0x36 2) 24 whole

/-- The section entries of an image. -/
def imageSections (b : List (BitVec 8)) : List (List (BitVec 8)) :=
  chunks 24 (fieldAt b 0x36 2 + 1) ((b.drop (fieldAt b 0x38 4)).take (24 * fieldAt b 0x36 2))

/-- Offsets, from the image's load base, of a supervisor image's entry points; none where one breaks R136. -/
def supervisorEntries (b : List (BitVec 8)) : Option (List Nat) :=
  let es := chunks 16 (fieldAt b 0x34 2 + 1) ((b.drop (fieldAt b 0x30 4)).take (16 * fieldAt b 0x34 2))
  let ss := imageSections b
  match ss.find? fun x => decide (fieldAt x 0 4 = 0) with
  | none => none
  | some text =>
    if ss.all sectionSound && es.all fun e => entrySound text e && decide (fieldAt e 12 4 = 0) then
      some (es.map fun e => fieldAt text 16 8 + fieldAt e 0 8)
    else none

/-- The text sections of an image, as offset from its load base and bytes. -/
def imageTexts (b : List (BitVec 8)) : List (Nat × Nat) :=
  ((imageSections b).filter fun x => decide (fieldAt x 0 4 = 0)).map fun x => (fieldAt x 16 8, fieldAt x 12 4)

/-- LOAD_SUPERVISOR (R428, R429): the image is verified and copied; its frames refuse writes from then on, and the floor
rises to its version. -/
def execLoadSupervisor (s : State) : Step :=
  s.command .loadSupervisor 0x52 fun s =>
  match s.ev with
  | .supervisor part reserved src dst bytes =>
    let fail (rc : Nat) : Step := .next (s.mbFinish 0x52 rc)
    if 3 < part.toNat ∨ reserved ≠ 0 then fail 2
    else
      let p : PartId := part.setWidth 2
      let a := src.toNat
      let n := bytes.toNat
      let dest := dst.toNat
      if s.busy p then fail 3
      else if a % 8 ≠ 0 ∨ dest % 196608 ≠ 0 ∨ n < 208 ∨ !s.installed p a ∨ !s.installed p (a + n - 1) ∨ !s.installed p dest ∨
          !s.installed p (dest + (n - 113)) then fail 2
      else if (poisonedSector s.poison a n).isSome then
        .next ((s.logPoisonAt p 9 0 (48 * (poisonedSector s.poison a n).getD 0)).mbFinish 0x52 2)
      else
        let whole := readCells s.mem a n
        let image := whole.take (n - 112)
        let trailer := whole.drop (n - 112)
        let svn := BitVec.ofNat 32 (fieldAt trailer 4 4)
        let overlap := (s.part p).images.any fun i => decide (dest < i.base + i.bytes) && decide (i.base < dest + (n - 112))
        match supervisorEntries image with
        | none => fail 2
        | some es =>
          if fieldAt image 0x3C 4 + 112 ≠ n ∨ fieldAt trailer 0 4 ≠ 0x4E47_4953 ∨ !zeroBytes (trailer.drop 104) ∨ !supervisorSound image ∨
              overlap then fail 2
          else if !s.signed (signedBytes image svn) ((trailer.take 104).drop 8) then fail 4
          else if svn.toNat < s.mod.supFloor.toNat then fail 5
          else
            let s1 := s.devicePut [{ key := dest, len := n - 112, leaf := 0 }] image
            let texts := (imageTexts image).map fun (a, n) => (dest + a, n)
            let loaded : LoadedImage := { base := dest, bytes := n - 112, svn := svn, entries := es.map (dest + ·), texts := texts }
            let s2 := s1.modPart p fun x => { x with images := x.images ++ [loaded] }
            .next ({ s2 with mod := { s2.mod with supFloor := svn } }.mbFinish 0x52 0 .none
              (leBytes 4 svn.toNat ++ leBytes 4 es.length ++ leBytes 8 dest))
  | _ => .next s

/-- SET_OWNER (R427): signed by the owner key in force, or unsigned while no owner is set. -/
def execSetOwner (s : State) : Step :=
  s.command .setOwner 0x53 fun s =>
  match s.ev with
  | .owner key sig =>
    let ok := match s.mod.owner with
      | none => sig.isEmpty
      | some h => Config.signatureGood h key sig
    if ok then .next ({ s with mod := { s.mod with owner := some (Config.sha384 key) } }.mbFinish 0x53 0) else .next (s.mbFinish 0x53 4)
  | _ => .next s

/-! ### Bring-up (R427, R432) -/

/-- Whether a slot's firmware passes its verification at boot: there is some, signed by the owner where one is set (R427). -/
def State.slotGood (s : State) (k : BitVec 1) : Bool :=
  match (s.mod.fw[k.toNat]).image with
  | some i => s.mod.owner.isNone || s.signed (signedBytes i.bytes i.version) i.signature
  | none => false

/-- The slot that boots: the one marked, or the other where its verification fails. -/
def State.bootSlot (s : State) : BitVec 1 :=
  if !s.slotGood s.mod.fwNext && s.slotGood (~~~s.mod.fwNext) then ~~~s.mod.fwNext else s.mod.fwNext

/-- Dies that train, are keyed and pass their self-test at a bring-up: the cirque, and which others is theirs (R367). -/
def State.trained (s : State) : BitVec 10 := (Config.openField 22 s.tick 0).setWidth 10 ||| 0x200

/-- Dies enabled by a bring-up: by the fuses, and a compute die only if both of its HBM stacks train, which is theirs (R367). -/
def State.withMemory (s : State) : BitVec 10 := s.mod.fuses &&& ((Config.openField 23 s.tick 0).setWidth 10 ||| 0x300)

/-- The module as bring-up leaves it but for the controller's report: flash, host memory, readings and what the fuses say of the
dies stay; everything else starts. -/
def State.bringUp (s : State) : State :=
  let m := s.mod
  let new := Module.start
  { State.reset with
    mem := s.mem.filter fun c => decide (hostBase ≤ c.1) && decide (c.1 < windowBase)
    poison := s.poison.filter fun q => decide (hostBase ≤ 48 * q) && decide (48 * q < windowBase)
    host := [], agenda := s.agenda, tick := s.tick
    mod := { new with
      fuses := m.fuses, enabled := s.withMemory, present := s.trained, pods := m.pods, cxlPort := m.cxlPort, sensors := m.sensors
      logSeq := m.logSeq, boot := m.boot + 1, logFatal := m.logFatal, logGeneral := m.logGeneral, fw := m.fw
      fwActive := s.bootSlot, fwNext := m.fwNext, fwFloor := m.fwFloor, supFloor := m.supFloor, owner := m.owner
      keyings := m.keyings.map (· + 1), ready := false, began := s.tick } }

/-- MODULE_RESET (R432): bring-up, up to the controller's start, once the partitions that are to be reset before it have been (R342); and,
struck again, its end: a boot that succeeds raises the floor to the slot's version (R427), and the module is ready. Where neither slot's
firmware passes, no boot succeeds. -/
def execModuleReset (s : State) : Step :=
  if s.mod.ready then
    if allParts.any fun p => (s.part p).resetAsked.isSome then .next { s with mod := { s.mod with resetDue := true } } else .next s.bringUp
  else if !s.slotGood s.mod.fwActive then .next s
  else
    let v := ((s.mod.fw[s.mod.fwActive.toNat]).image.map fun i => i.version).getD 0
    .next { s with mod := { s.mod with
      ready := true, fwNext := s.mod.fwActive, fwFloor := if s.mod.fwFloor.toNat < v.toNat then v else s.mod.fwFloor } }

/-- FW_BOOT_TIMEOUT (R427): firmware that does not report ready leaves the boot to the other slot, if that one passes. -/
def execFwBootTimeout (s : State) : Step :=
  .next (if s.mod.ready || !s.slotGood (~~~s.mod.fwActive) then s else { s with mod := { s.mod with fwActive := ~~~s.mod.fwActive } })

end Sys2Proof.Machine
end

