-- ==== Sys2Proof/Machine/Dispatch.lean ====
section
/-! DEFINITION. One arm per constructor of Instr: the instruction's or event's meaning. -/

namespace Sys2Proof.Machine

def exec (i : Instr) (s : State) : Host.Outcome State Fault Refusal :=
  match i with
  | .add d a b => Sys2Proof.Machine.execAdd d a b s
  | .sub d a b => Sys2Proof.Machine.execSub d a b s
  | .and d a b => Sys2Proof.Machine.execAnd d a b s
  | .or d a b => Sys2Proof.Machine.execOr d a b s
  | .xor d a b => Sys2Proof.Machine.execXor d a b s
  | .andn d a b => Sys2Proof.Machine.execAndn d a b s
  | .sll d a b => Sys2Proof.Machine.execSll d a b s
  | .srl d a b => Sys2Proof.Machine.execSrl d a b s
  | .sra d a b => Sys2Proof.Machine.execSra d a b s
  | .rot d a b => Sys2Proof.Machine.execRot d a b s
  | .slt d a b => Sys2Proof.Machine.execSlt d a b s
  | .sltn d a b => Sys2Proof.Machine.execSltn d a b s
  | .min d a b => Sys2Proof.Machine.execMin d a b s
  | .max d a b => Sys2Proof.Machine.execMax d a b s
  | .minn d a b => Sys2Proof.Machine.execMinn d a b s
  | .maxn d a b => Sys2Proof.Machine.execMaxn d a b s
  | .clz d a => Sys2Proof.Machine.execClz d a s
  | .ctz d a => Sys2Proof.Machine.execCtz d a s
  | .popc d a => Sys2Proof.Machine.execPopc d a s
  | .brev d a => Sys2Proof.Machine.execBrev d a s
  | .sextB d a => Sys2Proof.Machine.execSextB d a s
  | .sextH d a => Sys2Proof.Machine.execSextH d a s
  | .sextW d a => Sys2Proof.Machine.execSextW d a s
  | .zextB d a => Sys2Proof.Machine.execZextB d a s
  | .zextH d a => Sys2Proof.Machine.execZextH d a s
  | .zextW d a => Sys2Proof.Machine.execZextW d a s
  | .addi d a imm => Sys2Proof.Machine.execAddi d a imm s
  | .andi d a imm => Sys2Proof.Machine.execAndi d a imm s
  | .ori d a imm => Sys2Proof.Machine.execOri d a imm s
  | .xori d a imm => Sys2Proof.Machine.execXori d a imm s
  | .slli d a n => Sys2Proof.Machine.execSlli d a n s
  | .srli d a n => Sys2Proof.Machine.execSrli d a n s
  | .srai d a n => Sys2Proof.Machine.execSrai d a n s
  | .roti d a n => Sys2Proof.Machine.execRoti d a n s
  | .lih d k v => Sys2Proof.Machine.execLih d k v s
  | .lihK d k v => Sys2Proof.Machine.execLihK d k v s
  | .slti d a imm => Sys2Proof.Machine.execSlti d a imm s
  | .sltni d a imm => Sys2Proof.Machine.execSltni d a imm s
  | .mul d a b => Sys2Proof.Machine.execMul d a b s
  | .mulh d a b => Sys2Proof.Machine.execMulh d a b s
  | .mulhn d a b => Sys2Proof.Machine.execMulhn d a b s
  | .div d a b => Sys2Proof.Machine.execDiv d a b s
  | .divn d a b => Sys2Proof.Machine.execDivn d a b s
  | .rem d a b => Sys2Proof.Machine.execRem d a b s
  | .remn d a b => Sys2Proof.Machine.execRemn d a b s
  | .beq d a o => Sys2Proof.Machine.execBeq d a o s
  | .bne d a o => Sys2Proof.Machine.execBne d a o s
  | .blt d a o => Sys2Proof.Machine.execBlt d a o s
  | .bge d a o => Sys2Proof.Machine.execBge d a o s
  | .bltn d a o => Sys2Proof.Machine.execBltn d a o s
  | .bgen d a o => Sys2Proof.Machine.execBgen d a o s
  | .jmp d imm => Sys2Proof.Machine.execJmp d imm s
  | .jr d a imm => Sys2Proof.Machine.execJr d a imm s
  | .lp a o => Sys2Proof.Machine.execLp a o s
  | .lpImmediate n o => Sys2Proof.Machine.execLpImmediate n o s
  | .ld d b z src o => Sys2Proof.Machine.execLd d b z src o s
  | .ldIndexed d b z src imm => Sys2Proof.Machine.execLdIndexed d b z src imm s
  | .st t b src o => Sys2Proof.Machine.execSt t b src o s
  | .stIndexed t b src imm => Sys2Proof.Machine.execStIndexed t b src imm s
  | .ldq d b z src c o => Sys2Proof.Machine.execLdq d b z src c o s
  | .stq t b src c o => Sys2Proof.Machine.execStq t b src c o s
  | .atom d b k c r src => Sys2Proof.Machine.execAtom d b k c r src s
  | .cas d b c r src => Sys2Proof.Machine.execCas d b c r src s
  | .pref h b o => Sys2Proof.Machine.execPref h b o s
  | .fence c p => Sys2Proof.Machine.execFence c p s
  | .fencex c q p => Sys2Proof.Machine.execFencex c q p s
  | .bar c => Sys2Proof.Machine.execBar c s
  | .bara c d => Sys2Proof.Machine.execBara c d s
  | .barw c a => Sys2Proof.Machine.execBarw c a s
  | .bard c k => Sys2Proof.Machine.execBard c k s
  | .sigadd d a c => Sys2Proof.Machine.execSigadd d a c s
  | .sigwait d a c => Sys2Proof.Machine.execSigwait d a c s
  | .sigarmWake d a c => Sys2Proof.Machine.execSigarmWake d a c s
  | .sigarmPost d a b c => Sys2Proof.Machine.execSigarmPost d a b c s
  | .sigarmLaunch d a b c => Sys2Proof.Machine.execSigarmLaunch d a b c s
  | .snowpub d a c => Sys2Proof.Machine.execSnowpub d a c s
  | .bxq a => Sys2Proof.Machine.execBxq a s
  | .bxqS d a => Sys2Proof.Machine.execBxqS d a s
  | .wid d => Sys2Proof.Machine.execWid d s
  | .lvl d h => Sys2Proof.Machine.execLvl d h s
  | .lvln d h => Sys2Proof.Machine.execLvln d h s
  | .phys d l => Sys2Proof.Machine.execPhys d l s
  | .crd d x => Sys2Proof.Machine.execCrd d x s
  | .cwr a x => Sys2Proof.Machine.execCwr a x s
  | .cxg d a x => Sys2Proof.Machine.execCxg d a x s
  | .sysc n => Sys2Proof.Machine.execSysc n s
  | .brk n => Sys2Proof.Machine.execBrk n s
  | .migh c => Sys2Proof.Machine.execMigh c s
  | .fadd d a b f => Sys2Proof.Machine.execFadd d a b f s
  | .fsub d a b f => Sys2Proof.Machine.execFsub d a b f s
  | .fmul d a b f => Sys2Proof.Machine.execFmul d a b f s
  | .fdiv d a b f => Sys2Proof.Machine.execFdiv d a b f s
  | .fsqrt d a f => Sys2Proof.Machine.execFsqrt d a f s
  | .fmin d a b f => Sys2Proof.Machine.execFmin d a b f s
  | .fmax d a b f => Sys2Proof.Machine.execFmax d a b f s
  | .fcmp d a b c f => Sys2Proof.Machine.execFcmp d a b c f s
  | .fclass d a f => Sys2Proof.Machine.execFclass d a f s
  | .fsgn d a b g f => Sys2Proof.Machine.execFsgn d a b g f s
  | .fcvt d a t f => Sys2Proof.Machine.execFcvt d a t f s
  | .fcvtFromInt d a t f => Sys2Proof.Machine.execFcvtFromInt d a t f s
  | .fma d a b c f => Sys2Proof.Machine.execFma d a b c f s
  | .fms d a b c f => Sys2Proof.Machine.execFms d a b c f s
  | .vadd d a b p z => Sys2Proof.Machine.execVadd d a b p z s
  | .vsub d a b p z => Sys2Proof.Machine.execVsub d a b p z s
  | .vmul d a b p z => Sys2Proof.Machine.execVmul d a b p z s
  | .vmulh d a b p z => Sys2Proof.Machine.execVmulh d a b p z s
  | .vmulhn d a b p z => Sys2Proof.Machine.execVmulhn d a b p z s
  | .vmin d a b p z => Sys2Proof.Machine.execVmin d a b p z s
  | .vmax d a b p z => Sys2Proof.Machine.execVmax d a b p z s
  | .vminn d a b p z => Sys2Proof.Machine.execVminn d a b p z s
  | .vmaxn d a b p z => Sys2Proof.Machine.execVmaxn d a b p z s
  | .vand d a b p z => Sys2Proof.Machine.execVand d a b p z s
  | .vor d a b p z => Sys2Proof.Machine.execVor d a b p z s
  | .vxor d a b p z => Sys2Proof.Machine.execVxor d a b p z s
  | .vsll d a b p z => Sys2Proof.Machine.execVsll d a b p z s
  | .vsrl d a b p z => Sys2Proof.Machine.execVsrl d a b p z s
  | .vsra d a b p z => Sys2Proof.Machine.execVsra d a b p z s
  | .vmacc d a b p z => Sys2Proof.Machine.execVmacc d a b p z s
  | .vsadd d a b p z => Sys2Proof.Machine.execVsadd d a b p z s
  | .vssub d a b p z => Sys2Proof.Machine.execVssub d a b p z s
  | .vsaddn d a b p z => Sys2Proof.Machine.execVsaddn d a b p z s
  | .vssubn d a b p z => Sys2Proof.Machine.execVssubn d a b p z s
  | .vabs d a p z => Sys2Proof.Machine.execVabs d a p z s
  | .vclz d a p z => Sys2Proof.Machine.execVclz d a p z s
  | .vpopc d a p z => Sys2Proof.Machine.execVpopc d a p z s
  | .vfadd d a b p z => Sys2Proof.Machine.execVfadd d a b p z s
  | .vfsub d a b p z => Sys2Proof.Machine.execVfsub d a b p z s
  | .vfmul d a b p z => Sys2Proof.Machine.execVfmul d a b p z s
  | .vfmin d a b p z => Sys2Proof.Machine.execVfmin d a b p z s
  | .vfmax d a b p z => Sys2Proof.Machine.execVfmax d a b p z s
  | .vfabs d a p z => Sys2Proof.Machine.execVfabs d a p z s
  | .vfneg d a p z => Sys2Proof.Machine.execVfneg d a p z s
  | .vfma d a b p z => Sys2Proof.Machine.execVfma d a b p z s
  | .vfnma d a b p z => Sys2Proof.Machine.execVfnma d a b p z s
  | .vcmp c q a b p z => Sys2Proof.Machine.execVcmp c q a b p z s
  | .vfcmp c q a b p z => Sys2Proof.Machine.execVfcmp c q a b p z s
  | .vsel d a b p => Sys2Proof.Machine.execVsel d a b p s
  | .plog o q a b p z => Sys2Proof.Machine.execPlog o q a b p z s
  | .pcnt d a p => Sys2Proof.Machine.execPcnt d a p s
  | .bpany o p => Sys2Proof.Machine.execBpany o p s
  | .bpnone o p => Sys2Proof.Machine.execBpnone o p s
  | .vmov d a p z => Sys2Proof.Machine.execVmov d a p z s
  | .vcvtTo d a src t p z => Sys2Proof.Machine.execVcvtTo d a src t p z s
  | .vcvtFrom d a src t p z => Sys2Proof.Machine.execVcvtFrom d a src t p z s
  | .vidx d p z => Sys2Proof.Machine.execVidx d p z s
  | .vext d a imm => Sys2Proof.Machine.execVext d a imm s
  | .vld d b p z n => Sys2Proof.Machine.execVld d b p z n s
  | .vst src b p z n => Sys2Proof.Machine.execVst src b p z n s
  | .vlds d b r p z n => Sys2Proof.Machine.execVlds d b r p z n s
  | .vsts src b r p z n => Sys2Proof.Machine.execVsts src b r p z n s
  | .vldf d b p z n => Sys2Proof.Machine.execVldf d b p z n s
  | .vaddScalar d a g p z m => Sys2Proof.Machine.execVaddScalar d a g p z m s
  | .vsubScalar d a g p z m => Sys2Proof.Machine.execVsubScalar d a g p z m s
  | .vmulScalar d a g p z m => Sys2Proof.Machine.execVmulScalar d a g p z m s
  | .vminScalar d a g p z m => Sys2Proof.Machine.execVminScalar d a g p z m s
  | .vmaxScalar d a g p z m => Sys2Proof.Machine.execVmaxScalar d a g p z m s
  | .vminnScalar d a g p z m => Sys2Proof.Machine.execVminnScalar d a g p z m s
  | .vmaxnScalar d a g p z m => Sys2Proof.Machine.execVmaxnScalar d a g p z m s
  | .vandScalar d a g p z m => Sys2Proof.Machine.execVandScalar d a g p z m s
  | .vorScalar d a g p z m => Sys2Proof.Machine.execVorScalar d a g p z m s
  | .vxorScalar d a g p z m => Sys2Proof.Machine.execVxorScalar d a g p z m s
  | .vsllScalar d a g p z m => Sys2Proof.Machine.execVsllScalar d a g p z m s
  | .vsrlScalar d a g p z m => Sys2Proof.Machine.execVsrlScalar d a g p z m s
  | .vsraScalar d a g p z m => Sys2Proof.Machine.execVsraScalar d a g p z m s
  | .vfaddScalar d a g p z => Sys2Proof.Machine.execVfaddScalar d a g p z s
  | .vfmulScalar d a g p z => Sys2Proof.Machine.execVfmulScalar d a g p z s
  | .vbcast d g p z m => Sys2Proof.Machine.execVbcast d g p z m s
  | .vconf d g m => Sys2Proof.Machine.execVconf d g m s
  | .vloop g => Sys2Proof.Machine.execVloop g s
  | .vrget d g => Sys2Proof.Machine.execVrget d g s
  | .vrput src g => Sys2Proof.Machine.execVrput src g s
  | .vfdiv d a b p z => Sys2Proof.Machine.execVfdiv d a b p z s
  | .vfsqrt d a p z => Sys2Proof.Machine.execVfsqrt d a p z s
  | .vfexp2 d a p z => Sys2Proof.Machine.execVfexp2 d a p z s
  | .vflog2 d a p z => Sys2Proof.Machine.execVflog2 d a p z s
  | .vftanh d a p z => Sys2Proof.Machine.execVftanh d a p z s
  | .vdiv d a b p z => Sys2Proof.Machine.execVdiv d a b p z s
  | .vdivn d a b p z => Sys2Proof.Machine.execVdivn d a b p z s
  | .vrem d a b p z => Sys2Proof.Machine.execVrem d a b p z s
  | .vremn d a b p z => Sys2Proof.Machine.execVremn d a b p z s
  | .vrng d g p z => Sys2Proof.Machine.execVrng d g p z s
  | .vxch d a k p z => Sys2Proof.Machine.execVxch d a k p z s
  | .vpermIx d a b p z => Sys2Proof.Machine.execVpermIx d a b p z s
  | .vpermBr d a p z => Sys2Proof.Machine.execVpermBr d a p z s
  | .vslideUp d a n p z => Sys2Proof.Machine.execVslideUp d a n p z s
  | .vslideDn d a n p z => Sys2Proof.Machine.execVslideDn d a n p z s
  | .vcompact d a p z => Sys2Proof.Machine.execVcompact d a p z s
  | .vexpand d a p z => Sys2Proof.Machine.execVexpand d a p z s
  | .vscan d a e o p z => Sys2Proof.Machine.execVscan d a e o p z s
  | .vred d a o p z => Sys2Proof.Machine.execVred d a o p z s
  | .vgath d b imm p z c => Sys2Proof.Machine.execVgath d b imm p z c s
  | .vscat src b imm p z c => Sys2Proof.Machine.execVscat src b imm p z c s
  | .vscadd src b imm p z c => Sys2Proof.Machine.execVscadd src b imm p z c s
  | .vrdst src b t p z => Sys2Proof.Machine.execVrdst src b t p z s
  | .vldseg d b t p z => Sys2Proof.Machine.execVldseg d b t p z s
  | .vstseg src b t p z => Sys2Proof.Machine.execVstseg src b t p z s
  | .tmma w c a b => Sys2Proof.Machine.execTmma w c a b s
  | .tmmagM w c a b v => Sys2Proof.Machine.execTmmagM w c a b v s
  | .tmmagK w c a b v => Sys2Proof.Machine.execTmmagK w c a b v s
  | .tmmas w c a b => Sys2Proof.Machine.execTmmas w c a b s
  | .tload w a b src => Sys2Proof.Machine.execTload w a b src s
  | .tstore w a b src => Sys2Proof.Machine.execTstore w a b src s
  | .tzero w c => Sys2Proof.Machine.execTzero w c s
  | .tacc w c a b => Sys2Proof.Machine.execTacc w c a b s
  | .tadda w c a => Sys2Proof.Machine.execTadda w c a s
  | .tcmp w a b => Sys2Proof.Machine.execTcmp w a b s
  | .tdec w a b => Sys2Proof.Machine.execTdec w a b s
  | .ttrn w a b => Sys2Proof.Machine.execTtrn w a b s
  | .xsend w g k => Sys2Proof.Machine.execXsend w g k s
  | .xrecv w k => Sys2Proof.Machine.execXrecv w k s
  | .xwait w k => Sys2Proof.Machine.execXwait w k s
  | .xslot w g => Sys2Proof.Machine.execXslot w g s
  | .xrecvS w k => Sys2Proof.Machine.execXrecvS w k s
  | .tlbinvP a => Sys2Proof.Machine.execTlbinvP a s
  | .tlbinvPv a b => Sys2Proof.Machine.execTlbinvPv a b s
  | .ctxsave a b => Sys2Proof.Machine.execCtxsave a b s
  | .ctxload a b => Sys2Proof.Machine.execCtxload a b s
  | .migr a b => Sys2Proof.Machine.execMigr a b s
  | .ipi a b => Sys2Proof.Machine.execIpi a b s
  | .unassignedEncoding word => Sys2Proof.Machine.execUnassignedEncoding word s
  | .hint code => Sys2Proof.Machine.execHint code s
  | .fencexComplete => Sys2Proof.Machine.execFencexComplete s
  | .barrierWaitComplete => Sys2Proof.Machine.execBarrierWaitComplete s
  | .sigwaitComplete => Sys2Proof.Machine.execSigwaitComplete s
  | .sigarmTableFree => Sys2Proof.Machine.execSigarmTableFree s
  | .snowlineRelease => Sys2Proof.Machine.execSnowlineRelease s
  | .bxqFifoFree => Sys2Proof.Machine.execBxqFifoFree s
  | .bxqRequestStart => Sys2Proof.Machine.execBxqRequestStart s
  | .bxqPage => Sys2Proof.Machine.execBxqPage s
  | .bxqCompletionRecord => Sys2Proof.Machine.execBxqCompletionRecord s
  | .heldAccessRetry => Sys2Proof.Machine.execHeldAccessRetry s
  | .vformWrite => Sys2Proof.Machine.execVformWrite s
  | .yield => Sys2Proof.Machine.execYield s
  | .tret => Sys2Proof.Machine.execTret s
  | .idle => Sys2Proof.Machine.execIdle s
  | .idleComplete => Sys2Proof.Machine.execIdleComplete s
  | .nop => Sys2Proof.Machine.execNop s
  | .cvb => Sys2Proof.Machine.execCvb s
  | .vsync => Sys2Proof.Machine.execVsync s
  | .homeCombine => Sys2Proof.Machine.execHomeCombine s
  | .tileRowTransfer => Sys2Proof.Machine.execTileRowTransfer s
  | .tensorComplete => Sys2Proof.Machine.execTensorComplete s
  | .xwaitComplete => Sys2Proof.Machine.execXwaitComplete s
  | .slotDeparture => Sys2Proof.Machine.execSlotDeparture s
  | .slotArrival => Sys2Proof.Machine.execSlotArrival s
  | .tlbinv => Sys2Proof.Machine.execTlbinv s
  | .tlbinvComplete => Sys2Proof.Machine.execTlbinvComplete s
  | .ctxsaveComplete => Sys2Proof.Machine.execCtxsaveComplete s
  | .trapMigration => Sys2Proof.Machine.execTrapMigration s
  | .arbiterFifoGrant => Sys2Proof.Machine.execArbiterFifoGrant s
  | .migrationArrive => Sys2Proof.Machine.execMigrationArrive s
  | .schedulerMigration => Sys2Proof.Machine.execSchedulerMigration s
  | .anchorRelease => Sys2Proof.Machine.execAnchorRelease s
  | .proxyService => Sys2Proof.Machine.execProxyService s
  | .proxyResult => Sys2Proof.Machine.execProxyResult s
  | .convoyComplete => Sys2Proof.Machine.execConvoyComplete s
  | .sliceWatchStop => Sys2Proof.Machine.execSliceWatchStop s
  | .interrupt => Sys2Proof.Machine.execInterrupt s
  | .timerCompareMatch => Sys2Proof.Machine.execTimerCompareMatch s
  | .atsCompletion => Sys2Proof.Machine.execAtsCompletion s
  | .priResponse => Sys2Proof.Machine.execPriResponse s
  | .atsInvalidation => Sys2Proof.Machine.execAtsInvalidation s
  | .faultRecordPost => Sys2Proof.Machine.execFaultRecordPost s
  | .fqresumeRetry => Sys2Proof.Machine.execFqresumeRetry s
  | .fqresumeEnd => Sys2Proof.Machine.execFqresumeEnd s
  | .fqresumeHold => Sys2Proof.Machine.execFqresumeHold s
  | .fqdescWrite => Sys2Proof.Machine.execFqdescWrite s
  | .fqstatClear => Sys2Proof.Machine.execFqstatClear s
  | .ipendClear => Sys2Proof.Machine.execIpendClear s
  | .kickWrite => Sys2Proof.Machine.execKickWrite s
  | .packetNop => Sys2Proof.Machine.execPacketNop s
  | .packetSignal => Sys2Proof.Machine.execPacketSignal s
  | .packetLaunch => Sys2Proof.Machine.execPacketLaunch s
  | .dependenceMet => Sys2Proof.Machine.execDependenceMet s
  | .launchAdmit => Sys2Proof.Machine.execLaunchAdmit s
  | .gangDispatch => Sys2Proof.Machine.execGangDispatch s
  | .launchCompletion => Sys2Proof.Machine.execLaunchCompletion s
  | .sliceExpiry => Sys2Proof.Machine.execSliceExpiry s
  | .preemption => Sys2Proof.Machine.execPreemption s
  | .energyMeterUpdate => Sys2Proof.Machine.execEnergyMeterUpdate s
  | .remoteDeliveryReceive => Sys2Proof.Machine.execRemoteDeliveryReceive s
  | .remoteAck => Sys2Proof.Machine.execRemoteAck s
  | .remoteTimeout => Sys2Proof.Machine.execRemoteTimeout s
  | .eccError => Sys2Proof.Machine.execEccError s
  | .linkCrcRetry => Sys2Proof.Machine.execLinkCrcRetry s
  | .linkIntegrityFailure => Sys2Proof.Machine.execLinkIntegrityFailure s
  | .stopWatchdogExpiry => Sys2Proof.Machine.execStopWatchdogExpiry s
  | .partitionReset => Sys2Proof.Machine.execPartitionReset s
  | .homeGets => Sys2Proof.Machine.execHomeGets s
  | .homeGetm => Sys2Proof.Machine.execHomeGetm s
  | .homeUpg => Sys2Proof.Machine.execHomeUpg s
  | .homePutm => Sys2Proof.Machine.execHomePutm s
  | .homePuto => Sys2Proof.Machine.execHomePuto s
  | .homePute => Sys2Proof.Machine.execHomePute s
  | .homeInvAck => Sys2Proof.Machine.execHomeInvAck s
  | .homeFwdReply => Sys2Proof.Machine.execHomeFwdReply s
  | .directoryFill => Sys2Proof.Machine.execDirectoryFill s
  | .agentInv => Sys2Proof.Machine.execAgentInv s
  | .agentFwdgets => Sys2Proof.Machine.execAgentFwdgets s
  | .agentFwdgetm => Sys2Proof.Machine.execAgentFwdgetm s
  | .agentDataS => Sys2Proof.Machine.execAgentDataS s
  | .agentDataE => Sys2Proof.Machine.execAgentDataE s
  | .agentDataM => Sys2Proof.Machine.execAgentDataM s
  | .agentUpgack => Sys2Proof.Machine.execAgentUpgack s
  | .agentPutack => Sys2Proof.Machine.execAgentPutack s
  | .agentEviction => Sys2Proof.Machine.execAgentEviction s
  | .moraineRingSpace => Sys2Proof.Machine.execMoraineRingSpace s
  | .mrdescWrite => Sys2Proof.Machine.execMrdescWrite s
  | .mrstatClear => Sys2Proof.Machine.execMrstatClear s
  | .replayTurn => Sys2Proof.Machine.execReplayTurn s
  | .mpctlFree => Sys2Proof.Machine.execMpctlFree s
  | .dsmInstall => Sys2Proof.Machine.execDsmInstall s
  | .dsmRemove => Sys2Proof.Machine.execDsmRemove s
  | .dsaWrite => Sys2Proof.Machine.execDsaWrite s
  | .ttqWrite => Sys2Proof.Machine.execTtqWrite s
  | .mmioRegisterWrite => Sys2Proof.Machine.execMmioRegisterWrite s
  | .identify => Sys2Proof.Machine.execIdentify s
  | .setPartition => Sys2Proof.Machine.execSetPartition s
  | .resetPartition => Sys2Proof.Machine.execResetPartition s
  | .setBudget => Sys2Proof.Machine.execSetBudget s
  | .setCarveout => Sys2Proof.Machine.execSetCarveout s
  | .setAbortRing => Sys2Proof.Machine.execSetAbortRing s
  | .createDctx => Sys2Proof.Machine.execCreateDctx s
  | .destroyDctx => Sys2Proof.Machine.execDestroyDctx s
  | .updateRing => Sys2Proof.Machine.execUpdateRing s
  | .setIroute => Sys2Proof.Machine.execSetIroute s
  | .setCxlWindow => Sys2Proof.Machine.execSetCxlWindow s
  | .setEndpoint => Sys2Proof.Machine.execSetEndpoint s
  | .readSensors => Sys2Proof.Machine.execReadSensors s
  | .readLog => Sys2Proof.Machine.execReadLog s
  | .fwWrite => Sys2Proof.Machine.execFwWrite s
  | .fwActivate => Sys2Proof.Machine.execFwActivate s
  | .loadSupervisor => Sys2Proof.Machine.execLoadSupervisor s
  | .setOwner => Sys2Proof.Machine.execSetOwner s
  | .sensorUpdate => Sys2Proof.Machine.execSensorUpdate s
  | .cxlPortFailure => Sys2Proof.Machine.execCxlPortFailure s
  | .moduleReset => Sys2Proof.Machine.execModuleReset s
  | .fwBootTimeout => Sys2Proof.Machine.execFwBootTimeout s
  | .accumulatorRowAccess => Sys2Proof.Machine.execAccumulatorRowAccess s
  | .ultraEthernetLinkChange => Sys2Proof.Machine.execUltraEthernetLinkChange s
  | .hostInvalidationRequest => Sys2Proof.Machine.execHostInvalidationRequest s

end Sys2Proof.Machine
end

