-- ==== Sys2Proof/Machine/Turns.lean ====
section
/-! DEFINITION. Whose turn is next, and what one turn does: the instruction of the current thread (R49, R118, R285, R289),
what its wait waits for, what the module owes at once, and what its other agents could do now. Everything that Step
needs stands here. -/

namespace Sys2Proof.Machine

/-! ### Rows -/

/-- Runs an event row with its operands. -/
def State.event (s : State) (i : Instr) (ops : Operands) : Step :=
  match exec i { s with ev := ops } with
  | .next s1 => .next { s1 with ev := .none }
  | r => r

/-- Runs a row on a thread, which need not be the current one; the current thread is the same again after it. -/
def State.eventOn (s : State) (h : Handle) (i : Instr) : Step :=
  match exec i (s.switchTo h) with
  | .next s1 => .next (s1.switchTo s.th.handle)
  | r => r

/-! ### The instruction of the current thread (R118, R120, R285) -/

/-- Executes a decoded instruction; on a vector core one that can head a convoy opens it first (R31). -/
def State.runInstr (s : State) (i : Instr) : Step :=
  if s.th.convoy.isNone && s.convoys i then exec i (s.openConvoy i) else exec i s

/-- Fetches, decodes and executes the instruction at the pc. -/
def State.runAt (s : State) : Step :=
  let pc := s.th.arch.pc
  if pc.toNat % 4 ≠ 0 then s.stop .nop (.trap 0x04 0 pc) none
  else
    match s.fetchWord pc with
    | .error e => s.stop .nop e none
    | .ok w =>
      match decode w with
      | .ok i => (s.afterFetch pc).runInstr i
      | .error _ => exec (.unassignedEncoding w) (s.afterFetch pc)

/-- The member of an open convoy that executes next. -/
def State.convoyMember (s : State) : Option Instr :=
  s.th.convoy.bind fun c => (c.members[c.next]?).map (·.2)

/-- The next instruction of the current thread: a convoy goes on with the members that it was opened with. -/
def State.runThread (s : State) : Step :=
  match s.convoyMember with
  | some i => exec i s
  | none => s.runAt

/-- Whether a thread waits for the arbiter or is on its way. -/
def Thread.moves (t : Thread) : Bool :=
  match t.place with
  | .transit | .fifo _ => true
  | _ => false

/-- Whether a step of the instruction at a boundary is a precise trap of it, its parking or a migration of it, which come before
any stop and any interrupt (R140, R289). A system call has done its work and returns past the instruction: it is not one
(log 51). -/
def State.ranksFirst (s : State) (r : Step) : Bool :=
  match r with
  | .next s1 => (!s.th.sup.tip && s1.th.sup.tip && decide (s1.th.sup.tcause ≠ 0x0E)) || (s1.th.held && !s.th.held) || s1.th.moves ||
      s1.th.parked.isSome || s1.th.waitsPage
  | _ => false

/-- A step of a unit carried on to its end: the members of a convoy that it has opened (R31, R33). -/
def unitEnd : Nat → Step → Step
  | 0, r => r
  | n + 1, .next s => match s.convoyMember with
    | some i => unitEnd n (exec i s)
    | none => .next s
  | _, r => r

/-- The current thread without a stop that has reached it, and without the wait of a trap or a migration of its next instruction for its
T instructions: the boundary as it is met once they have completed (R247, R289). -/
def State.ripe (s : State) : State :=
  { s with th := { s.th with
    halted := none
    wait := match s.th.wait with
      | some { kind := .drain, .. } => none
      | w => w } }

/-- Whether a precise trap of the unit at the current thread's boundary comes before a stop (R289): of its first instruction, or
of a later member of its convoy. -/
def State.trapStands (s : State) : Bool :=
  let a := s.ripe
  a.th.runs.isEmpty && a.th.due.isNone && a.boundary && a.ranksFirst (unitEnd 8 a.runThread)

/-- Whether the current thread takes an interrupt now, or one has reached it that must wait for its T instructions (R247). -/
def State.interruptDue (s : State) : Bool := s.interruptLine.isSome && (s.atStop.isSome || (!s.th.runs.isEmpty && !s.th.unstoppable))

/-- Whether a move of the current thread is made at this boundary (R18, R24, R176, R388). -/
def State.moveMay (s : State) : Bool :=
  if s.actsOn s.th.handle = 2 ∧ !s.th.sup.level then s.enforce.isSome else
    decide (s.wanted ≠ .none) && (decide (s.wanted = s.th.cls) || (s.grantMove s.wanted).isSome || s.moveStalls)

/-- Whether a move of the current thread is made at this boundary, or has reached it and waits for its T instructions (R247). -/
def State.moveDue (s : State) : Bool :=
  s.moveMay || (!s.th.runs.isEmpty && !s.th.unstoppable && decide (s.actsOn s.th.handle ≠ 2 ∨ s.th.sup.level) &&
    decide (s.wanted ≠ .none) && decide (s.wanted ≠ s.th.cls) && (s.nearest s.th fun k => decide (k = s.wanted)).isSome)

/-- Whether the current thread takes its slice-watch stop now, or it waits for the thread's T instructions (R247, R409). -/
def State.sliceDue (s : State) : Bool := s.sliceStopNow && (s.atStop.isSome || (!s.th.runs.isEmpty && !s.th.unstoppable))

/-- Whether the instruction at the current thread's pc is of a group that its class lacks. -/
def State.foreignHere (s : State) : Bool := s.instrHere.any fun i => !s.th.cls.implements (groupOf i)

/-- Whether an instruction stops a thread whose own precise trap comes first (R289). -/
def State.awaitsTrap (s : State) (i : Instr) : Bool :=
  match i with
  | .ctxsave a _ | .migr a _ => (s.target (s.g a)).any fun t => decide (t.handle ≠ s.th.handle) && (s.switchTo t.handle).trapStands
  | _ => false

/-- Whether an instruction or a decision of others would stop the current thread: a pre-emption, a CTXSAVE or a MIGR. -/
def State.othersStop (s : State) : Bool :=
  (s.launches.any fun l => l.resident.any fun (g, _, _) => (l.gangMembers g).any (fun n => decide (l.handle n = s.th.handle)) && s.mustLeave l g fun _ => true) ||
  (s.others.any fun t => match t.wait with
    | some { kind := .ctxsave, instr := .ctxsave a _ } => decide ((t.arch.g[a.toNat]).setWidth 32 = s.th.handle)
    | some { kind := .migr none, instr := .migr a _ } => decide ((t.arch.g[a.toNat]).setWidth 32 = s.th.handle)
    | _ => false)

/-- Whether a stop stands that has reached the current thread and has still to take effect. -/
def State.stopStands (s : State) : Bool := s.interruptDue || s.sliceStopNow || s.moveDue || s.othersStop

/-- Whether a stop by others has been asked of the current thread and not yet taken effect: it comes before an interrupt (R289). -/
def State.stopRequested (s : State) : Bool := s.th.stopAsked.isSome && s.othersStop

/-- Whether the current thread goes no further: a stop that has been asked of it takes effect at the point where it stands (R20, R23),
and no trap of its next instruction comes first. -/
def State.standsStill (s : State) : Bool := s.stopRequested && !s.th.unstoppable && !s.sliceDue && !s.trapStands

/-- What the current thread does at a boundary (R289, R292, R388): what it takes before its next instruction, or that
instruction. -/
def State.atBoundary (s : State) : Step :=
  let run := s.runThread
  if s.homeward && s.foreignHere && s.moveMay then exec .schedulerMigration s
  else if s.ranksFirst (unitEnd 8 run) then run
  else if s.sliceDue then exec .sliceWatchStop s
  else if s.interruptDue then exec .interrupt s
  else if s.releaseDue then exec .anchorRelease s
  else if s.moveDue then (if s.moveMay then exec .schedulerMigration s else .next s.halt)
  else
    match s.instrHere.filter s.awaitsTrap with
    | some i => .next (s.waitFor (match i with
        | .migr .. => .migr none
        | _ => .ctxsave) i).advance
    | none => run

/-- The row that ends a kind of wait in a turn of its thread; none where the instruction simply executes again, and where time,
the host or the proxy server ends the wait (R49). -/
def WaitKind.row : WaitKind → Option Instr
  | .fencex => some .fencexComplete
  | .barrier .. => some .barrierWaitComplete
  | .signal | .woken _ => some .sigwaitComplete
  | .actions => some .sigarmTableFree
  | .snowline => some .snowlineRelease
  | .bxqFifo => some .bxqFifoFree
  | .idle => some .idleComplete
  | .tlbinv _ => some .tlbinvComplete
  | .proxy .. => some .proxyService
  | .ctxsave => some .ctxsaveComplete
  | .replay => some .replayTurn
  | .window _ | .arrival .. | .served _ | .transferRegs | .migr _ | .unit | .drain | .moraine | .home _ | .page .. => none

/-! ### Waiting threads (R49, R267) -/

/-- What a wait tells the instruction that executes again in it: since when a MIGR's move runs, and that a load has read its base. -/
def Wait.kept (w : Wait) : Option Wait :=
  match w.kind with
  | .migr _ | .snowline => some w
  | _ => none

/-- Threads that have been asked to stop. -/
def State.askedStops (s : State) : Nat := (s.threads.filter fun t => t.stopAsked.isSome).length

/-- The instruction of a waiting thread, executed again; none where it waits as before, and has asked no other thread to stop. -/
def State.retry (s : State) (w : Wait) : Option Step :=
  match ({ s with th := { s.th with wait := w.kept } } : State).runThread with
  | .next s1 =>
    if (s1.th.wait.any fun v => decide (v.kind = w.kind)) && decide (s1.th.arch = s.th.arch) && decide (s1.askedStops = s.askedStops) then none
    else some (.next s1)
  | r => some r

/-- Whether a wait ends with the instruction itself executing again, in an issue slot of its core. -/
def WaitKind.retries : WaitKind → Bool
  | .transferRegs | .migr _ | .unit | .drain | .snowline | .replay | .home _ => true
  | _ => false

/-- Whether a thread's last instruction completes once the home has taken a transaction of its (R371). -/
def State.ordersStill (s : State) (t : Thread) : Bool := t.ordering && s.fab.asks.any fun x => x.write && x.who.contains t.handle

/-- Whether a thread contends for its core's issue slot: it is ready, or the instruction that it waits at could execute now,
its last instruction has completed and no longer occupies it, no stop waits for it, and a TLOAD or TSTORE that it runs lets others issue. -/
def State.contends (s : State) (t : Thread) : Bool :=
  (t.stopAsked.isNone || !(s.switchTo t.handle).standsStill) &&
  (s.pace.all fun (h, n) => decide (h ≠ t.handle) || decide (n ≤ s.lcc)) && !s.ordersStill t &&
  t.halted.isNone && (t.transferring.isNone || (s.switchTo t.handle).openTransfer.isSome) &&
  (t.ready || (decide (t.place = .resident) && t.parked.isNone && !t.held && (match t.wait with
    | some w => w.kind.retries && ((s.switchTo t.handle).retry w).isSome
    | none => false)))

/-! ### Which context of a core issues (R28, R175, R267, R333, R335) -/

/-- Whether a thread comes before another by age on their core. -/
def Thread.older (a b : Thread) : Bool := decide (a.since < b.since) || (decide (a.since = b.since) && decide (a.slot ≤ b.slot))

/-- The first of some threads by an order. -/
def firstBy (before : Thread → Thread → Bool) : List Thread → Option Thread
  | [] => none
  | t :: r =>
    match firstBy before r with
    | none => some t
    | some u => if before t u then some t else some u

/-- Whether a thread has been ready for 2,048 cycles of its core in which issue is allowed, without issuing. -/
def Thread.starved (t : Thread) : Bool := t.readyAt.isSome && decide (2048 ≤ t.spent)

/-- Whether two threads of one core are packed on one cluster (R28): a tensor core has one. -/
def Thread.packedWith (a b : Thread) : Bool :=
  decide (a.cls = .tensor) ||
  (decide (a.cls = .vector) && (List.range 4).any fun k => decide (a.lanes.extractLsb' (2 * k) 2 ≠ 0) && decide (b.lanes.extractLsb' (2 * k) 2 ≠ 0))

/-- The context that issues among the ready ones of a core: one whose XWAIT has completed, one that has starved, else the
oldest that has not yielded, alternating with the thread that it is packed with. -/
def issuer (now : Nat) (ts : List Thread) : Option Thread :=
  let waited (a b : Thread) : Bool := decide ((a.readyAt.getD now) ≤ (b.readyAt.getD now))
  match firstBy Thread.older (ts.filter (·.ahead)), firstBy waited (ts.filter Thread.starved) with
  | some t, _ => some t
  | none, some t => some t
  | none, none =>
    let keen := ts.filter fun t => !t.yielded
    match firstBy Thread.older (if keen.isEmpty then ts else keen) with
    | none => none
    | some t => firstBy waited (t :: (if keen.isEmpty then ts else keen).filter fun u => t.packedWith u && decide (u.handle ≠ t.handle))

/-- Whether a cycle of a thread's core in which issue is allowed begins now. -/
def State.issueCycle (s : State) (t : Thread) : Bool :=
  let r := coreRatio t.core.toNat
  decide (s.lcc % r = 0) && decide (s.lcc / r % 16 < s.issueCap t)

/-- Whether the current thread issues now: a cycle of its core begins in which issue is allowed and not taken, and the thread
is alone in contending for it, amid a convoy or a proxied instruction, or its core's choice. -/
def State.mayIssue (s : State) : Bool :=
  s.issueCycle s.th && (s.issued.all fun (c, n) => decide (c ≠ s.th.core) || decide (n ≤ s.lcc)) && s.contends s.th &&
  (let mates := s.others.filter fun t => decide (t.core = s.th.core) && s.contends t
   mates.isEmpty || s.th.convoy.isSome || s.th.grant ||
    (issuer s.lcc (s.th :: mates)).any fun t => decide (t.handle = s.th.handle))

/-- The current thread takes its core's issue slot. -/
def State.takeSlot (s0 : State) : State :=
  let s := s0.openTransfer.getD s0
  { s with
    th := { s.th with
      readyAt := none, ahead := false, yielded := false, arrived := none
      dbg := { s.th.dbg with dmstall := s.th.dbg.dmstall + BitVec.ofNat 64 ((s.th.arrived.map fun n => s.cyc - n / 2).getD 0) } }
    others := s.others.map fun t => if t.core = s.th.core then { t with yielded := false } else t }

/-- From when, and for how many allowed cycles of its core, a thread has been ready without issuing: a step leads from s,
to a state s1. A thread whose wait could end in an issue slot is ready for it. -/
def Thread.noteReady (s s1 : State) (t : Thread) : Thread :=
  let now := s1.lcc
  if t.ready || ((t.wait.any fun w => w.kind.retries) && s1.contends t) then
    (if t.readyAt.isSome then
      (if s.lcc < now && s.issueCycle t && s.contends t then { t with spent := t.spent + 1 } else t)
     else { t with readyAt := some now, spent := 0 })
  else if t.readyAt.isSome then { t with readyAt := none, spent := 0 } else t

/-- A waiting thread's turn: an interrupt that its wait yields to, the row it waits for, or its instruction again. -/
def State.waitTurn (s : State) (w : Wait) : Step :=
  if s.interruptDue && !s.stopRequested then exec .interrupt s
  else if s.awaitsTrap w.instr then .next s
  else if w.kind.retries then
    if !s.mayIssue then .next s
    else
      match s.takeSlot.retry w, w.kind.row with
      | none, _ => .next s
      | some r, none => r
      | some _, some i =>
        match exec i s.takeSlot with
        | .next s1 => if s1.th.wait.isNone && decide (s1.tick = s.tick) then s1.runThread else .next s1
        | r => r
  else
    match w.kind.row with
    | some i => exec i s
    | none =>
      match w.kind with
      | .moraine =>
        if ((s.myDctx).any fun d => s.moraineRoom d 1) || decide (s.actsOn s.th.handle ≠ 1) then
          .next { s with th := { s.th with wait := none } }
        else .next s
      | _ => .next s

/-- Whether the partition of a thread waits to be reset: its threads issue nothing more, and their moves end (R20). -/
def State.frozen (s : State) (t : Thread) : Bool := (s.partOf t.handle).any fun p => (s.part p).resetAsked.isSome

/-- A turn of the current thread. -/
def State.threadTurn (s : State) : Step :=
  if s.frozen s.th then .next s else
  match s.th.place with
  | .fifo _ => exec .arbiterFifoGrant s
  | .resident =>
    if (s.th.convoy.any fun c => c.passing.isSome) then exec .convoyComplete s
    else if s.th.due.isSome then (if s.th.runs.isEmpty then .next s.takeDue.advance else .next s)
    else if !s.boundary && s.sliceDue then exec .sliceWatchStop s
    else if s.th.halted.isSome then
      (if s.trapStands then .next s.ripe
       else if s.sliceDue then exec .sliceWatchStop s
       else if s.stopRequested then .next s
       else if s.interruptDue then exec .interrupt s
       else if s.moveDue && s.moveMay then exec .schedulerMigration s
       else if s.stopStands then .next s
       else .next { s with th := { s.th with halted := none } })
    else if s.th.parked.isSome || s.th.held then .next s
    else
      match s.th.wait with
      | some w => s.waitTurn w
      | none =>
        if !s.mayIssue then .next s
        else
          let s := s.takeSlot
          if s.th.grant || s.th.convoy.isSome then s.runThread
          else if s.th.stepDue then
            if s.th.runs.isEmpty then
              .next (({ s with th := { s.th with stepDue := false } } : State).trapAt 0x0D s.th.arch.pc 0x2_0000 0 0).advance
            else .next s
          else s.atBoundary
  | _ => .next s

/-- Whether a turn of the current thread came to nothing: it waits as before. -/
def State.nothingDone (s : State) (r : Step) : Bool :=
  match r with
  | .next s1 => decide (s1.tick = s.tick) && decide (s1.th.wait = s.th.wait) && decide (s1.th.place = s.th.place) &&
      decide (s1.th.arch.pc = s.th.arch.pc) && decide (s1.th.convoy.isSome = s.th.convoy.isSome) && decide (s1.lcc = s.lcc) &&
      decide (s1.th.runs = s.th.runs) && decide (s1.th.halted = s.th.halted) && decide (s1.th.due = s.th.due)
  | _ => false

/-! ### What is owed at once -/

/-- Rows of a thread whose time has come, with their link counts, and their order at one link count: departures, deliveries,
accumulator accesses, the ends of waits, completions (R246, R261, R265, R268). -/
def State.timedRows (s : State) (t : Thread) : List (Nat × Nat × Handle × Instr) :=
  let a := s.switchTo t.handle
  let rows := match t.nextRun with
    | some (_, time) => if a.rowDue then [(time * 2, 2, t.handle, Instr.accumulatorRowAccess)] else []
    | none => []
  let leaves := ((t.departures.filter fun d => !d.sent && decide (d.departs ≤ s.lcc)).map fun d => (d.departs, 0, t.handle, Instr.slotDeparture)).take 1
  let arrives := match a.arrivalDue with
    | some (time, d) => [(time, if d.isSome then 1 else 3, t.handle, Instr.slotArrival)]
    | none => []
  let opens := match t.wait with
    | some { kind := .window time, .. } => if time ≤ s.lcc ∧ t.place = .resident then [(time, 3, t.handle, Instr.xwaitComplete)] else []
    | _ => []
  let ends := if t.runs.any fun r => a.runOver r then [(s.lcc, 4, t.handle, Instr.tensorComplete)] else []
  rows ++ leaves ++ arrives ++ opens ++ ends

/-- The earliest of timed rows. -/
def earliest : List (Nat × Nat × Handle × Instr) → Option (Handle × Instr)
  | [] => none
  | x :: t => some (t.foldl (fun (y : Nat × Nat × Handle × Instr) z =>
      if z.1 < y.1 ∨ (z.1 = y.1 ∧ z.2.1 < y.2.1) then z else y) x).2.2

/-- Whether a thread has anything that time brings about: what it has sent or bound to a departure goes its way wherever the
thread is (R257, R266). -/
def Thread.timed (t : Thread) : Bool :=
  !t.departures.isEmpty || (decide (t.place = .resident) && (!t.runs.isEmpty || (match t.wait with
    | some { kind := .arrival .., .. } | some { kind := .window _, .. } => true
    | _ => false)))

/-- Whether something that time brings about falls on an odd link count that comes next: the others are due at even ones. -/
def Thread.timedAt (t : Thread) (n : Nat) : Bool :=
  (t.departures.any fun d => decide (d.departs = n) || decide (d.arrives = n)) ||
  (match t.wait with
   | some { kind := .arrival _ a, .. } => decide (a = n)
   | some { kind := .window a, .. } => decide (a = n)
   | _ => false)

/-- What the module does before any turn, if anything is owed: a posting, a turn put on the agenda, a fault record, a
firing that waited, a row whose time has come. -/
def State.owed (s : State) : Option Step :=
  if s.nextPosting.isSome then some (.next s.deliverPosting)
  else
    match s.agenda with
    | .thread h :: t => some (.next (({ s with agenda := t } : State).switchTo h))
    | .event i ops :: t => some (({ s with agenda := t } : State).event i ops)
    | .fill dc va :: t =>
      let a : State := { s with agenda := t }
      match a.dctx? dc with
      | none => some (.next a)
      | some d =>
        match s.walk d.part (pageNumber va) 2 d.ptroot.toNat, s.leafOf d va with
        | .ok (_, level), .ok l =>
          some (.next { a with tlb := a.tlb ++ [{ part := d.part, dc := dc, page := BitVec.ofNat 64 (pageNumber va), leaf := l, level := level }] })
        | _, _ => some (.next a)
    | [] =>
      match s.waitingReset with
      | some (p, reason) => some (.next (s.resetPoint p reason))
      | none =>
      match s.resetAsks with
      | some (dc, a, w, f) => some (.next (s.askPage dc a w f))
      | none =>
      if s.commandDue then some (s.event .updateRing (s.mod.mbHeld.getD .none)) else
      if s.mod.resetDue && allParts.all fun p => (s.part p).resetAsked.isNone then some (s.event .moduleReset .none) else
      match s.dctxs.find? fun d => s.faultDue d with
      | some d => some (s.event .faultRecordPost (.dctx d.id))
      | none =>
        match s.dctxs.find? fun d => s.refireMay d with
        | some d => some (.next (s.refire d.id))
        | none =>
        match s.launches.findSome? fun l => (s.replayPage l).map fun a => (l.dc, a) with
        | some (dc, a) => some (.next (s.askPage dc a false false))
        | none =>
        match s.dctxs.findSome? fun d => (s.invalidationDue d).map fun x => (d, x) with
        | some (d, x) => some (.next (s.sendInvalidation d x))
        | none =>
          match earliest ((s.threads.filter Thread.timed).flatMap s.timedRows) with
          | some (h, i) => some (s.eventOn h i)
          | none => none

/-! ### What could happen now -/

/-- Rows of a thread on its way: its arrival where it moves to, and its proxy server's result (R23, R336). -/
def Thread.awayRows (t : Thread) : List Candidate :=
  (if t.place = .transit then [.row t.handle .migrationArrive] else []) ++
  (match t.wait with
   | some { kind := .served _, .. } => if t.place = .resident then [.row t.handle .proxyResult] else []
   | _ => [])

/-- The row that a thread's transfer unit moves next (R253). -/
def Thread.unitRows (t : Thread) : List Candidate :=
  match t.transferring with
  | some r => if r.row < 32 then [.row t.handle .tileRowTransfer] else []
  | none => []

/-- Rows of a thread's block-transfer engine (R169). -/
def State.engineRows (s : State) (t : Thread) : List Candidate :=
  match t.bxq with
  | [] => []
  | x :: _ =>
    if x.ended.isSome then [.row t.handle .bxqCompletionRecord]
    else if !x.started then (if t.mayStart then [.row t.handle .bxqRequestStart] else [])
    else if !x.refused && ((s.dctx? (handleDctx t.handle)).any fun d => d.pageAsked x.waitPage) then [] else [.row t.handle .bxqPage]

/-- Rows of a device context's rings and waiting accesses (R304, R319, R383, R435). -/
def State.contextRows (s : State) (d : Dctx) : List Candidate :=
  (((List.range 72).map (BitVec.ofNat 7)).filterMap fun r =>
    match s.packetAt d r with
    | .ok none => none
    | .ok (some bs) =>
      let i : Instr := if packetBad bs then .packetLaunch else match packetKind bs with
        | 0 => .packetNop
        | 1 => .packetLaunch
        | _ => .packetSignal
      if (s.takeTurn d.id r).isSome || decide (packetKind bs = 1) then some (Candidate.event i (.ring d.id r)) else none
    | .error (.page a _ _) => if d.pageAsked (some a) then none else some (Candidate.event .packetNop (.ring d.id r))
    | .error _ => if d.heldItems.contains (.packet r) then none else some (Candidate.event .packetNop (.ring d.id r))) ++
  (if d.heldItems.isEmpty then [] else [.event .heldAccessRetry (.dctx d.id)]) ++
  (if (s.threads.any fun t => decide (handleDctx t.handle = d.id) && (!t.moraineDebt.isEmpty || t.waitsKind .moraine)) && s.ringRoom d 1 then
    [.event .moraineRingSpace (.dctx d.id)] else [])

/-- Rows of a launch (R326, R330, R334, R320). -/
def State.launchRows (s : State) (l : Launch) : List Candidate :=
  let me : Operands := .launch l.dc l.slot
  match l.state with
  | .waiting => [.event .dependenceMet me]
  | .admitting => if ((s.dctx? l.dc).any fun d => s.mayAdmit d l && (s.takeTurn l.dc l.ring).isSome) then [.event .launchAdmit me] else []
  | .done => [.event .launchCompletion me]
  | _ =>
    (if s.launchOver l then [.event .launchCompletion me] else []) ++
    (match s.nextGang l with
     | some g =>
       if (s.gangNeeds l g).isEmpty || (s.mayDispatch l g).isSome then [.event .gangDispatch (.gang l.dc l.slot g)] else []
     | none => []) ++
    (((s.threads.filter fun t =>
        decide (handleLaunch t.handle = handleLaunch (l.handle 0)) && decide (t.place = .saved) && !t.held && decide (t.placeOn ≠ .none)).map
      fun t => Candidate.event .gangDispatch (.gang l.dc l.slot (handleDense t.handle / max 1 l.gang))).filter fun c =>
        match c with
        | .event _ (.gang _ _ g) => !l.waiting.contains g && !s.fifoServable
        | _ => false)

/-- Gangs that make room (R50, R332), once no thread of theirs stands at an instruction whose trap comes first (R289). -/
def State.roomRows (s : State) : List Candidate :=
  let may (x : Launch) (v : Nat) : Bool := (s.gangResident x v).all fun t => !(s.switchTo t.handle).trapStands
  (s.launches.filterMap fun l => ((s.fifoVictim l).filter fun (x, v) => may x v).map fun (x, v) => .event .preemption (.gang x.dc x.slot v)) ++
  s.waiters.filterMap fun (w, k) => ((s.victimFor w k).filter fun (x, v) => may x v).map fun (x, v) =>
    .event (if x.prio = w.prio ∧ !(decide (x.dc = w.dc) && decide (x.slot = w.slot)) then .sliceExpiry else .preemption) (.gang x.dc x.slot v)

/-- Remote elements: those that their homes may apply, and those that have timed out (R225, R423). -/
def State.remoteRows (s : State) : List Candidate :=
  (List.range s.remote.length).filterMap fun n =>
    if s.combineMay n then some (.event .homeCombine (.index n))
    else if ((s.awayAt n).any fun e => decide (e.left + remoteLimit ≤ s.lcc)) then some (.event .remoteTimeout (.index n))
    else none

/-- Deliveries that have waited for a page of the host (R423). -/
def State.arrivingRows (s : State) : List Candidate :=
  (s.arriving.zipIdx.filter fun (x, _) => !s.deliveryWaits x).map fun (_, n) => .event .remoteDeliveryReceive (.index n)

/-- Partitions and the controller (R352, R353, R432). -/
def State.moduleRows (s : State) : List Candidate :=
  (allParts.filterMap fun p =>
    match (s.part p).resetting with
    | some _ => some (Candidate.event .partitionReset (.part p))
    | none =>
      if (s.lateStops p).isEmpty then none else some (Candidate.event .stopWatchdogExpiry (.part p))) ++
  (if s.mod.ready then [] else [.event .moduleReset .none])

/-- Coherence messages, the oldest of each direction, and directory reads (R362, R363). -/
def State.fabricRows (s : State) : List Candidate :=
  (allAgents.filterMap fun a => ((s.fab.nextToDie a).filter fun (l, m) => s.mayAnswer l a m).map fun (l, m) =>
    let i : Instr := match m with
      | .inv => .agentInv
      | .fwdGetS => .agentFwdgets
      | .fwdGetM => .agentFwdgetm
      | .dataS => .agentDataS
      | .dataE => .agentDataE
      | .dataM => .agentDataM
      | .upgAck => .agentUpgack
      | .putAck => .agentPutack
    .event i (.line l a)) ++
  ((allAgents.filter s.linkUp).filterMap fun a => (s.fab.nextToHub a).map fun (l, m) =>
    let i : Instr := match m with
      | .invAck => .homeInvAck
      | .fwdReply _ => .homeFwdReply
      | .put .putM => .homePutm
      | .put .putO => .homePuto
      | .put _ => .homePute
    .event i (.line l a)) ++
  ((s.fab.dir.filter fun d => decide (d.trans = .fill)).map fun d => .event .directoryFill (.line d.line 0)) ++
  s.askRows.map fun (i, x) => .event i (.line x.line x.agent)

/-- Whether another thread could have a turn. -/
def Thread.movable (t : Thread) : Bool :=
  !t.held && t.parked.isNone &&
  (match t.place with
   | .resident | .fifo _ => true
   | _ => false)

/-- Everything that could happen now besides the threads' turns. -/
def State.candidates (s : State) : List Candidate :=
  s.threads.flatMap Thread.awayRows ++ s.threads.flatMap Thread.unitRows ++ s.threads.flatMap s.engineRows ++ s.dctxs.flatMap s.contextRows ++
  s.launches.flatMap s.launchRows ++ s.roomRows ++ s.remoteRows ++ s.arrivingRows ++ s.moduleRows ++ s.fabricRows

/-! ### Time -/

/-- The next link count at which anything can begin: a hub cycle, or an odd count on which something timed falls. -/
def State.nextInstant (s : State) : Nat := if s.threads.any fun t => t.timedAt (s.lcc + 1) then s.lcc + 1 else s.lcc / 2 * 2 + 2

/-- Time passes to the next instant. -/
def State.idle (s : State) : State :=
  let now := s.nextInstant
  { s with
    mod := { s.mod with counters := s.cycleCounters now }
    lcc := now, tick := s.tick + 1, issued := s.issued.filter fun x => decide (now < x.2), pace := s.pace.filter fun x => decide (now < x.2) }

/-- Time passes over a step in which nothing else happens. A thread in IDLE may see its timer match, where nothing but time
stirs the module. -/
def State.quiet (s : State) : Step :=
  match s.th.wait with
  | some { kind := .idle, .. } =>
    if s.th.place = .resident ∧ s.cyc < s.th.sup.tcmp.toNat ∧ s.th.sup.tcmp ≠ BitVec.allOnes 64 ∧ s.th.sup.imask.getLsbD 8 ∧
        (s.others.all fun t => !t.movable && !t.timed) && !s.th.timed && s.candidates.isEmpty then
      exec .timerCompareMatch s
    else .next s.idle
  | _ => .next s.idle

/-! ### The choice among those that could act (log 12) -/

/-- What may do its part now: the result of a turn that came to something. -/
def State.acts (s : State) (h : Handle) : Bool :=
  let a := s.switchTo h
  !a.nothingDone a.threadTurn

/-- A candidate's turn. -/
def State.take (s : State) (c : Candidate) : Step :=
  match c with
  | .thread h => (s.switchTo h).threadTurn
  | .row h i => s.eventOn h i
  | .event i ops => s.event i ops
  | .time => s.quiet

/-- Whether a candidate belongs to the command processor's work on a launch, which is prompt (R328, R332). -/
def Candidate.prompt : Candidate → Bool
  | .event i _ =>
    match i with
    | .dependenceMet | .launchAdmit | .gangDispatch | .preemption | .sliceExpiry => true
    | _ => false
  | _ => false

/-- Whether the result of a thread that holds its server's proxy slot is to return now, so that every request begins service
within 4,096 of the server's core cycles: one has waited for half of them (R25). -/
def State.slotDue (s : State) (c : Candidate) : Bool :=
  match c with
  | .row h .proxyResult =>
    match (s.thread? h).bind (·.wait) with
    | some { kind := .served x, .. } =>
      s.threads.any fun t => match t.wait with
        | some { kind := .proxy y n, .. } => decide (x = y) && decide (n + 2048 * coreRatio x.toNat ≤ s.lcc)
        | _ => false
    | _ => false
  | _ => false

/-- The candidate that has waited longest among some. -/
def longest : List (Candidate × Nat × Nat) → Option Candidate
  | [] => none
  | x :: r => some (r.foldl (fun y z => if z.2.1 < y.2.1 then z else y) x).1

/-- The candidate that may not be passed over again: prompt work that has waited for 128 link cycles or a proxy slot that must become
free, and else one that has waited for its patience; of several, the one that has waited longest. -/
def State.overdue (s : State) : Option Candidate :=
  (longest (s.pending.filter fun (c, _, l) => (c.prompt && decide (l + 128 ≤ s.lcc)) || s.slotDue c)).orElse fun _ =>
    longest (s.pending.filter fun (_, t, _) => decide (t + Config.patience ≤ s.tick))

/-- Keeps since when each of the candidates could act. -/
def State.notePending (s : State) (cs : List Candidate) : State :=
  { s with pending := cs.map fun c => match s.pending.find? fun x => decide (x.1 = c) with
    | some x => x
    | none => (c, s.tick, s.lcc) }

/-- A candidate takes its turn, and starts to wait anew. -/
def State.taken (s : State) (c : Candidate) : Step :=
  ({ s with pending := s.pending.filter fun x => decide (x.1 ≠ c) } : State).take c

/-- Which of several candidates takes the turn. -/
def State.choose (s : State) (cs : List Candidate) : Candidate := (cs[Config.turn s.tick % cs.length]?).getD .time

/-- The threads that could act now, those of the lowest die: what the accesses of one link count ask of a home, it takes in
ascending die number (R371, R376). -/
def State.actors (s : State) : List Candidate :=
  let ts := (if s.nothingDone s.threadTurn then [] else [s.th]) ++ (s.others.filter Thread.movable).filter fun t => s.acts t.handle
  let die (t : Thread) : Nat := coreDie t.core.toNat
  (ts.filter fun t => ts.all fun u => decide (die t ≤ die u)).map fun t => .thread t.handle

/-- One turn of the module. Time passes only when no thread could act; the choice among those that could is free, but nothing is
passed over for ever (log 12). -/
def State.turn (s : State) : Step :=
  match s.owed with
  | some r => r
  | none =>
    match s.candidates, s.actors with
    | [], [] => s.quiet
    | [], [c] => s.take c
    | [], cs => s.take (s.choose cs)
    | agents, threads =>
      let cs := (if threads.isEmpty then [.time] else threads) ++ agents
      let s1 := s.notePending cs
      s1.taken ((s1.overdue).getD (s1.choose cs))

/-- A stop request that stands no longer is over (R352). -/
def State.lapse (s : State) (t : Thread) : Thread :=
  if t.stopAsked.isSome && !(s.switchTo t.handle).stopStands then { t with stopAsked := none } else t

/-- Every step counts (log 8), threads become ready or cease to be, stop requests lapse, and accesses ask for their lines. -/
def Step.counted (s : State) (r : Step) : Step :=
  match r with
  | .next s0 =>
    let s1 := s0.noteTraffic.noteMoraine
    .next { s1 with
      tick := max s1.tick (s.tick + 1)
      th := s1.lapse (s1.th.noteReady s s1)
      others := s1.others.map fun t => s1.lapse (t.noteReady s s1) }
  | r => r

/-! ### A word as the next instruction (log 50) -/

/-- The class on which a loaded word runs. -/
def loadClass (g : Group) : CoreClass :=
  match g with
  | .t | .x => .tensor
  | .va | .vx => .vector
  | _ => .control

/-- Its first core. -/
def CoreClass.firstCore : CoreClass → Nat
  | .vector => 0 | .tensor => 2304 | _ => 4608

/-- Where the loader puts the root table: one leaf maps device physical memory, each address to itself. -/
def loadTable : Nat := 65536

/-- The device context of the loader: 0, of partition 0. -/
def loadContext : Dctx :=
  { id := 0, part := 0, aqimaj := 1, aqimin := 0, caps := 0, pasid := 0, ptroot := BitVec.ofNat 52 loadTable, sentry := 0
    iroute := 0xFFFF_FFFF, share := 256, pmax := 0, slice := 1000, ringTable := 0, capblk := 0, lines := 0, rings := [], served := 0, submitted := []
    actions := [], firing := [], fqdesc := 0, fqOvf := false, fqWait := [], mrdesc := 0, mrHw := false, mrBroken := false, mpbase := 0, mpcnt := 0, mpdiv := 0
    dwdesc := 0, dsa := Vector.replicate 4 0, dsm := Vector.replicate 4 0, dsSector := Vector.replicate 4 none, pages := [], invals := [], invalsSent := 0, heldItems := [] }

/-- The launch of the loader: one thread of a class at the class's largest grant, its tree one context. -/
def loadLaunch (c : CoreClass) : Launch :=
  let lane : List Level := if c = .control then [] else [{ vl := true, fanout := 0, declared := some 0, bound := 0, domains := [] }]
  let info : LaunchInfo :=
    { mode := 0, image := 0, entry := 0, groups := if c = .tensor then 0x21 else if c = .vector then 0x19 else 0x01, deep := false
      vlmin := 7, vlmax := 11, neve := 261888, args := 0, nwin := BitVec.ofNat 64 (192 * 2 ^ 32), stack := 0, stackn := 0
      sync := BitVec.ofNat 64 (192 * 2 ^ 20), syncn := 0, save := BitVec.ofNat 64 (192 * 2 ^ 21), saven := 196608, affin := 0x3FF, energy := 0
      deps := [], stackBytes := 0, spillBytes := 0
      tree := lane ++ [{ vl := false, fanout := 1, declared := some 1, bound := 1, domains := [] }], frame := 0, plan := [] }
  { dc := 0, slot := 0, state := .running, ring := 0, tag := 0, header := 0, cring := 0, csig := 0, prio := 0, info := info, refusal := 0
    lgG0 := if c = .tensor then 9 else 11, threads := 1, ended := 0, started := some 0, cores := [], gang := 1
    waiting := [], resident := [(0, BitVec.ofNat 13 c.firstCore, 0)], fetched := 0, left := [], promised := [], instances := [], depFaulted := [], xbase := 0, channels := []
    rpBase := 0, rpCount := 0, enforced := false, consumed := [] }

/-- The machine with a loaded word: it is the first instruction of the one thread, at address 0; a word of group S or P
runs at supervisor level. -/
def State.load (s : State) (word : BitVec 32) : State :=
  let g := match decode word with
    | .ok i => groupOf i
    | .error _ => .b
  let c := loadClass g
  let l := loadLaunch c
  let t := l.newThread loadContext 0
  { s with
    th := { t.takeContext c.firstCore 0 (if c = .vector then lanesFor t.halves 0 0 else some 0) with
      place := .resident, bound := BitVec.ofNat 13 c.firstCore
      sup := { t.sup with level := decide (g = .s) || decide (g = .p) } }
    others := [], dctxs := [loadContext], launches := [l]
    mem := writeCells (writeCells (if c = .tensor then s.mem
        else writeCells s.mem (l.info.save.toNat + savedCrsAt) t.arch.savedCrBytes)
      loadTable (leBytes 8 0x1E03F)) 0 (leBytes 4 word.toNat)
    mod := { s.mod with parts := s.mod.parts.set 0 { s.mod.parts[0] with spokes := 0xFF } } }

/-- The machine with a word where the current thread fetches next, or loaded. -/
def State.placeWord (s : State) (word : BitVec 32) : State :=
  match (if s.th.place = .resident then s.fetchSpans s.th.arch.pc else .error .noContext) with
  | .ok sp => s.devicePut sp (leBytes 4 word.toNat)
  | .error _ => s.load word

end Sys2Proof.Machine
end

