-- ==== Sys2Proof/Machine/Step.lean ====
section
/-! DEFINITION. One step of the module, and the state in which a given word is the next instruction. -/

namespace Sys2Proof.Machine

/-- One step: one turn of the module, counted. -/
def step (s : State) : Host.Outcome State Fault Refusal := Step.counted s s.turn

/-- `s` with the instruction word w where the next step fetches: over the bytes at the current thread's pc where it stands
on a core and they translate, and else as the first instruction of a one-thread launch that a loader has placed (log 50). -/
def State.withFetchWord (s : State) (nbits w : Nat) : State := s.placeWord (BitVec.ofNat 32 (w % 2 ^ nbits))

end Sys2Proof.Machine
end

