-- ==== Sys2Proof/Safety.lean ====
section
/-! DEFINITION. What a safe run is, and the terms in which the statements speak: the form that memory keeps, when an
instruction goes on to its own effect, what its completion is, and what the completion leaves alone. -/

namespace Sys2Proof.Machine

/-! ### Runs -/

/-- Memory has its one canonical form (the model's own, so that equal memories are equal data). -/
def State.canonical (s : State) : Prop := Memory.wf s.mem = true

/-- A step that answers a state. -/
def Step.isNext (r : Step) : Prop := ∃ s, r = .next s

/-- The state after n steps, none once one of them ends in a fault or a refusal. -/
def runs : Nat → State → Option State
  | 0, s => some s
  | n + 1, s =>
    match step s with
    | .next s' => runs n s'
    | .fault _ | .refused _ => none

/-- A run of n steps that neither faults nor is refused. -/
def safeRun (n : Nat) (s : State) : Prop := (runs n s).isSome = true

/-- The age that issue compares (R333) is kept for every thread that is ready, and for no thread but those and the ones whose wait ends
with their instruction in an issue slot. -/
def State.agesKept (s : State) : Prop :=
  ∀ t ∈ s.threads, (t.ready = true → t.readyAt.isSome = true) ∧
    (t.readyAt.isSome = true → t.ready = true ∨ ∃ w, t.wait = some w ∧ w.kind.retries = true)

/-! ### Before an instruction's own effect -/

/-- Instruction i goes on to its own effect: no breakpoint stops it (R398), its group may run at the thread's level (R13),
the core's class implements the group or a proxy has lent it (R12, R23), no block transfer still uses a register of it
(R168), it may issue beside a TLOAD or TSTORE that its thread runs (R243, R409), and no register that it reads is poisoned (R345). -/
structure Free (i : Instr) (s : State) : Prop where
  breakpoint : s.breakpoint i = none
  level : groupOf i = .s ∨ groupOf i = .p → s.th.sup.level = true
  group : s.th.cls.implements (groupOf i) = true ∨ s.th.grant = true
  transfers : s.transferBusy i = false
  rows : (s.th.transferring.any fun r => !besideTransfer i || s.skidSpent r) = false
  poison : s.usesPoison (Uses.of s.w i) = none

/-- Conditions on the fields of the state that are enough for it: no breakpoint comparator enabled, no block transfer in
any thread's FIFO, no TLOAD or TSTORE running, no poisoned register. -/
structure Plain (i : Instr) (s : State) : Prop where
  breakpoints : s.th.dbg.dctl.extractLsb' 0 4 = 0
  level : groupOf i = .s ∨ groupOf i = .p → s.th.sup.level = true
  group : s.th.cls.implements (groupOf i) = true
  transfers : ∀ t ∈ s.threads, t.bxq = []
  rows : s.th.transferring = none
  poison : s.th.poison = RegPoison.clear

/-! ### Completion -/

/-- A state with other notes of the lines that the step has touched, from which its requests to the homes come (R369). -/
def State.touching (s : State) (x : List Touch) : State := { s with touched := x }

/-- Instruction i completes at s: its own effect leaves s1, control passes to the target, or on where there is none, and
what follows every instruction follows (R63, R147, R388); the lines that it touches are noted. -/
def Completes (i : Instr) (s s1 : State) (target : Option (BitVec 64)) : Prop :=
  ∃ x, exec i s = .next ((s.finish (s1.touching x) i target).advance)

/-- Instruction i stops at s for a reason: its trap's handler is entered, or it waits or is parked, with the partial effects of s1
(R285, R286); the lines that it has touched are noted. -/
def Stops (i : Instr) (s s1 : State) (t : Trouble) (elem : Option Nat) : Prop := ∃ x, exec i s = (s1.touching x).stop i t elem

/-- No single step trap follows the instruction (R401). -/
def State.noStep (s : State) : Prop := s.th.sup.level = true ∨ s.th.dbg.dctl.getLsbD 6 = false

/-! ### What is left alone -/

/-- Outside the current thread, t has what s has, but for time, the counters of the register space, postings and the notes of lines
touched. -/
def SameModule (s t : State) : Prop :=
  { t with th := s.th, touched := s.touched, mod := { t.mod with counters := s.mod.counters }, lcc := s.lcc, tick := s.tick, outbox := s.outbox, issued := s.issued, pace := s.pace } = s

/-- The current thread of t is that of s, but for its registers and what counts and follows its instructions: mix,
position, calm, debug counters, slice stop, grant, wait, convoy. -/
def SameThread (s t : State) : Prop :=
  { t.th with
    arch := s.th.arch, poison := s.th.poison, mix := s.th.mix, position := s.th.position, calm := s.th.calm, dbg := s.th.dbg
    sliceStop := s.th.sliceStop, grant := s.th.grant, wait := s.th.wait, stalledAt := s.th.stalledAt, convoy := s.th.convoy
    reruns := s.th.reruns, refused := s.th.refused, faulted := s.th.faulted, ordering := s.th.ordering } = s.th

/-- Every user register of t is that of s, but for the general registers, the pc, the loop stack and `retired`. -/
def SameButGeneral (s t : State) : Prop :=
  { t.th.arch with g := s.th.arch.g, pc := s.th.arch.pc, loops := s.th.arch.loops, retired := s.th.arch.retired } = s.th.arch

/-- Every byte of memory reads as before. -/
def SameMemory (s t : State) : Prop := ∀ k, readCell t.mem k = readCell s.mem k

/-- Every general register but d reads as before. -/
def SameGeneralBut (d : BitVec 5) (s t : State) : Prop := ∀ r, r ≠ d → t.g r = s.g r

end Sys2Proof.Machine
end

