-- ==== Sys2Proof/Certificates/Slice0/Obligations.lean ====
section
/-! DEFINITION. The statements about the model: what each instruction and each event row does where it completes, what it
leaves alone, where it traps, and what every step keeps. -/

namespace Sys2Proof.Claims
open Sys2Proof.Machine

/-! ### Integer operations -/

/-- Truth as a register's value. -/
def truth (b : Bool) : BitVec 64 := if b then 1 else 0

/-- The two-register integer forms of R141 with the value that each computes from g[a] and g[b]. -/
def integerForms (d a b : BitVec 5) : List (Instr × (BitVec 64 → BitVec 64 → BitVec 64)) :=
  [ (.add d a b, fun x y => x + y), (.sub d a b, fun x y => x - y),
    (.and d a b, fun x y => x &&& y), (.or d a b, fun x y => x ||| y), (.xor d a b, fun x y => x ^^^ y),
    (.andn d a b, fun x y => x &&& ~~~y),
    (.sll d a b, fun x y => x <<< (y.toNat % 64)), (.srl d a b, fun x y => x >>> (y.toNat % 64)),
    (.sra d a b, fun x y => BitVec.ofInt 64 (x.toInt >>> (y.toNat % 64))), (.rot d a b, fun x y => x.rotateLeft (y.toNat % 64)),
    (.slt d a b, fun x y => truth (decide (x.toInt < y.toInt))), (.sltn d a b, fun x y => truth (decide (x.toNat < y.toNat))),
    (.min d a b, fun x y => if x.toInt < y.toInt then x else y), (.max d a b, fun x y => if x.toInt < y.toInt then y else x),
    (.minn d a b, fun x y => if x.toNat < y.toNat then x else y), (.maxn d a b, fun x y => if x.toNat < y.toNat then y else x) ]

/-- The multiplications and divisions of R142. -/
def productForms (d a b : BitVec 5) : List (Instr × (BitVec 64 → BitVec 64 → BitVec 64)) :=
  [ (.mul d a b, fun x y => BitVec.ofInt 64 (x.toInt * y.toInt)),
    (.mulh d a b, fun x y => BitVec.ofInt 64 (x.toInt * y.toInt / 2 ^ 64)),
    (.mulhn d a b, fun x y => BitVec.ofNat 64 (x.toNat * y.toNat / 2 ^ 64)),
    (.div d a b, fun x y =>
      if y = 0 then BitVec.ofInt 64 (-1)
      else if x.toInt = -(2 ^ 63) ∧ y.toInt = -1 then BitVec.ofInt 64 (-(2 ^ 63))
      else BitVec.ofInt 64 (x.toInt.tdiv y.toInt)),
    (.rem d a b, fun x y =>
      if y = 0 then BitVec.ofInt 64 x.toInt
      else if x.toInt = -(2 ^ 63) ∧ y.toInt = -1 then 0
      else BitVec.ofInt 64 (x.toInt - y.toInt * x.toInt.tdiv y.toInt)),
    (.divn d a b, fun x y => if y = 0 then BitVec.ofNat 64 (2 ^ 64 - 1) else BitVec.ofNat 64 (x.toNat / y.toNat)),
    (.remn d a b, fun x y => if y = 0 then x else BitVec.ofNat 64 (x.toNat % y.toNat)) ]

/-- The one-register forms and the immediate forms (R141, R143). -/
def unaryForms (d a : BitVec 5) (n : BitVec 6) (k : BitVec 16) (c : BitVec 15) : List (Instr × (BitVec 64 → BitVec 64)) :=
  [ (.clz d a, fun x => BitVec.ofNat 64 (leadingZeros 64 x.toNat)), (.ctz d a, fun x => BitVec.ofNat 64 (trailingZeros 64 x.toNat)),
    (.popc d a, fun x => BitVec.ofNat 64 ((List.range 64).countP fun i => x.getLsbD i)), (.brev d a, fun x => x.reverse),
    (.sextB d a, fun x => (x.extractLsb' 0 8).signExtend 64), (.sextH d a, fun x => (x.extractLsb' 0 16).signExtend 64),
    (.sextW d a, fun x => (x.extractLsb' 0 32).signExtend 64),
    (.zextB d a, fun x => x &&& 0xFF), (.zextH d a, fun x => x &&& 0xFFFF), (.zextW d a, fun x => x &&& 0xFFFF_FFFF),
    (.addi d a k, fun x => x + k.signExtend 64), (.andi d a k, fun x => x &&& k.signExtend 64),
    (.ori d a k, fun x => x ||| k.setWidth 64), (.xori d a k, fun x => x ^^^ k.setWidth 64),
    (.slli d a n, fun x => x <<< n.toNat), (.srli d a n, fun x => x >>> n.toNat),
    (.srai d a n, fun x => BitVec.ofInt 64 (x.toInt >>> n.toNat)), (.roti d a n, fun x => x.rotateLeft n.toNat),
    (.slti d a c, fun x => truth (decide (x.toInt < c.toInt))),
    (.sltni d a c, fun x => truth (decide (x.toNat < (c.signExtend 64).toNat))) ]

/-- The conditional branches of R144 with their conditions on g[d] and g[a]. -/
def branchForms (d a : BitVec 5) (o : BitVec 16) : List (Instr × (BitVec 64 → BitVec 64 → Bool)) :=
  [ (.beq d a o, fun x y => decide (x = y)), (.bne d a o, fun x y => decide (x ≠ y)),
    (.blt d a o, fun x y => decide (x.toInt < y.toInt)), (.bge d a o, fun x y => decide (y.toInt ≤ x.toInt)),
    (.bltn d a o, fun x y => decide (x.toNat < y.toNat)), (.bgen d a o, fun x y => decide (y.toNat ≤ x.toNat)) ]

end Sys2Proof.Claims

open Sys2Proof Sys2Proof.Machine Sys2Proof.Claims

/-! ### Registers, checks before an instruction, and retirement -/

/-- g0 reads zero and discards writes; any other register reads what was last written to it, and a write changes no other
(R53). -/
def Obligations.GeneralRegisterWrite : Prop :=
  ∀ (s : State) (d r : BitVec 5) (x : BitVec 64),
    s.g 0 = 0 ∧ (s.setG d x).g r = (if r = d ∧ d ≠ 0 then x else s.g r)

/-- No enabled breakpoint, no block transfer, no poisoned register, the right level and class: the instruction goes on to its
own effect (R13, R168, R345, R398). -/
def Sys2Proof.Claims.PlainStateIsFree : Prop :=
  ∀ (i : Instr) (s : State), Plain i s → Free i s ∧ s.gate i = none

/-- The lowest enabled comparator whose address is the pc stops the thread before its instruction, cause 0x0D with its number,
where breakpoints act and the instruction is not the one exempted after a return (R398, R399). -/
def Sys2Proof.Claims.BreakpointTraps : Prop :=
  ∀ (i : Instr) (s : State) (n : Fin 4) (body : State → Effect),
    let here (m : Fin 4) : Prop := s.th.dbg.dctl.getLsbD m = true ∧ (s.th.dbg.dbp[m] ++ 0#2).signExtend 64 = s.th.arch.pc
    s.convoys i = false → s.th.convoy = none → s.th.debugActs = true → s.th.exempt = false → here n → (∀ m, m < n → ¬here m) →
    issue i s body = s.stop i (.trap 0x0D (BitVec.ofNat 64 (0x1_0000 + n)) 0) none

/-- An instruction of group S or P issued at user level raises the privilege trap with its word in `tdetail`, on every class
(R13). -/
def Sys2Proof.Claims.PrivilegedAtUserLevelTraps : Prop :=
  ∀ (i : Instr) (s : State) (body : State → Effect),
    s.breakpoint i = none → (groupOf i = .s ∨ groupOf i = .p) → s.th.sup.level = false →
    issue i s body = s.stop i (.trap 0x02 (wordOf i) 0) none

/-- The checks stand before the effect: an instruction of a group that the core's class lacks never runs its own effect
there, unless a proxy has lent it (R12, R13). -/
def Sys2Proof.Claims.ForeignGroupNeverExecutes : Prop :=
  ∀ (i : Instr) (s : State), s.th.cls.implements (groupOf i) = false → s.th.grant = false →
    ∃ e, s.gate i = some e ∧ ∀ body, issue i s body = conclude i s e

/-- A poisoned register among those that an instruction reads raises the poison-consumed trap, 0x0A, with no effect of the
instruction (R345). -/
def Sys2Proof.Claims.PoisonedRegisterTraps : Prop :=
  ∀ (i : Instr) (s : State) (r : BitVec 5) (body : State → Effect),
    s.breakpoint i = none → (groupOf i = .s ∨ groupOf i = .p → s.th.sup.level = true) →
    s.th.cls.implements (groupOf i) = true → s.th.grant = false → (s.th.transferring.any fun r => !besideTransfer i || s.skidSpent r) = false →
    s.transferBusy i = false →
    (Uses.of s.w i).g.find? (fun r => r ≠ 0 && s.th.poison.g.getLsbD r.toNat) = some r →
    issue i s body = s.stop i (.trap 0x0A (BitVec.ofNat 64 r.toNat) 0) none

/-- What stands before an instruction's own effect: nothing in a plain state; the lowest enabled breakpoint at the pc; the privilege trap;
an instruction of a group that the class lacks, which never executes there; a poisoned source (R12, R13, R345, R398). -/
def Obligations.ChecksBeforeTheEffect : Prop :=
  Sys2Proof.Claims.PlainStateIsFree ∧ Sys2Proof.Claims.BreakpointTraps ∧ Sys2Proof.Claims.PrivilegedAtUserLevelTraps ∧ Sys2Proof.Claims.ForeignGroupNeverExecutes ∧ Sys2Proof.Claims.PoisonedRegisterTraps


/-- Retirement outside a convoy: a target takes control; otherwise the loop stack decides, and `retired` counts one. A
loop whose count is above one goes back to its start; one whose count is one is popped, and the next entry is looked at
(R63, R147). -/
def Sys2Proof.Claims.LoopBackAtRetirement : Prop :=
  ∀ (s0 s : State) (i : Instr),
    s0.convoys i = false → s0.noStep → s.th.dbg.dctl = s0.th.dbg.dctl → s.th.sup.level = s0.th.sup.level →
    (∀ a, (s0.finish s i (some a)).th.arch.pc = a ∧ (s0.finish s i (some a)).th.arch.loops = s.th.arch.loops) ∧
    (∀ t, (s0.finish s i t).th.arch.retired = s.th.arch.retired + 1) ∧
    (s.th.arch.loops = [] →
      (s0.finish s i none).th.arch.pc = s0.th.arch.pc + 4 ∧ (s0.finish s i none).th.arch.loops = []) ∧
    (∀ e rest, s.th.arch.loops = e :: rest →
      (e.last ≠ s0.th.arch.pc →
        (s0.finish s i none).th.arch.pc = s0.th.arch.pc + 4 ∧ (s0.finish s i none).th.arch.loops = e :: rest) ∧
      (e.last = s0.th.arch.pc → 1 < e.count.toNat →
        (s0.finish s i none).th.arch.pc = e.start ∧
        (s0.finish s i none).th.arch.loops = { e with count := e.count - 1 } :: rest) ∧
      (e.last = s0.th.arch.pc → e.count.toNat ≤ 1 →
        (s0.finish s i none).th.arch.pc =
          (s0.finish { s with th := { s.th with arch := { s.th.arch with loops := rest } } } i none).th.arch.pc ∧
        (s0.finish s i none).th.arch.loops =
          (s0.finish { s with th := { s.th with arch := { s.th.arch with loops := rest } } } i none).th.arch.loops))

/-- With step set, an instruction that completes at user level is followed by the step trap: cause 0x0D, detail 0x2_0000, and
`tpc` where control had passed (R401). -/
def Sys2Proof.Claims.SingleStepTraps : Prop :=
  ∀ (s0 s : State) (i : Instr) (target : Option (BitVec 64)),
    s0.convoys i = false → s0.th.sup.level = false → s.th.sup.level = false → s.th.dbg.dctl.getLsbD 6 = true → s.th.runs = [] → s.th.sup.tip = false →
    let t := s0.finish s i target
    t.th.sup.tcause = 0x0D ∧ t.th.sup.tdetail = 0x2_0000 ∧ t.th.sup.level = true ∧ t.th.arch.retired = s.th.arch.retired + 1 ∧
    (∀ a, target = some a → t.th.sup.tpc = a) ∧ (target = none → s.th.arch.loops = [] → t.th.sup.tpc = s0.th.arch.pc + 4)

/-- The frame of completion: what follows an instruction's own effect changes the thread's pc, loop stack and counts, its
convoy, debug registers and standing wait, the register space's counters, time and postings, and nothing else (R63, R147,
R388). -/
def Sys2Proof.Claims.CompletionFrame : Prop :=
  ∀ (s0 s : State) (i : Instr) (target : Option (BitVec 64)),
    s0.noStep → s.th.dbg.dctl = s0.th.dbg.dctl →
    let t := (s0.finish s i target).advance
    SameModule s t ∧ SameThread s t ∧ t.th.poison = s.th.poison ∧ t.th.sup = s.th.sup ∧
    { t.th.arch with pc := s.th.arch.pc, loops := s.th.arch.loops, retired := s.th.arch.retired } = s.th.arch ∧ SameMemory s t

/-- What follows an instruction's own effect: where control passes and what is counted, the step trap, and nothing else (R63, R147,
R388, R401). -/
def Obligations.WhatFollowsAnInstruction : Prop :=
  Sys2Proof.Claims.LoopBackAtRetirement ∧ Sys2Proof.Claims.SingleStepTraps ∧ Sys2Proof.Claims.CompletionFrame


/-! ### Group B: integer operations, branches, loops -/

/-- Every two-register integer operation completes with its value in g[d] (R139, R141). -/
def Sys2Proof.Claims.IntegerOperationsOfTwo : Prop :=
  ∀ (s : State) (d a b : BitVec 5), ∀ e ∈ integerForms d a b, Free e.1 s →
    Completes e.1 s (s.setG d (e.2 (s.g a) (s.g b))) none

/-- Every multiplication and division completes with the value of R142's pseudocode in g[d]; nothing in the group traps, and
a non-zero remainder takes the dividend's sign. -/
def Obligations.MultiplyAndDivide : Prop :=
  (∀ (s : State) (d a b : BitVec 5), ∀ e ∈ productForms d a b, Free e.1 s →
    Completes e.1 s (s.setG d (e.2 (s.g a) (s.g b))) none) ∧
  (∀ x y : BitVec 64, remSigned x y ≠ 0 → ((remSigned x y).toInt < 0 ↔ x.toInt < 0))

/-- Every one-register and immediate form completes with its value in g[d]; LIH and LIH.K place or replace 16 bits at
16·k (R141, R143). -/
def Sys2Proof.Claims.UnaryAndImmediate : Prop :=
  (∀ (s : State) (d a : BitVec 5) (n : BitVec 6) (k : BitVec 16) (c : BitVec 15), ∀ e ∈ unaryForms d a n k c, Free e.1 s →
    Completes e.1 s (s.setG d (e.2 (s.g a))) none) ∧
  (∀ (s : State) (d : BitVec 5) (k : BitVec 2) (v : BitVec 16),
    (Free (.lih d k v) s → Completes (.lih d k v) s (s.setG d (v.setWidth 64 <<< (16 * k.toNat))) none) ∧
    (Free (.lihK d k v) s → Completes (.lihK d k v) s
      (s.setG d ((s.g d &&& ~~~(0xFFFF#64 <<< (16 * k.toNat))) ||| (v.setWidth 64 <<< (16 * k.toNat)))) none))

/-- The integer operations of two registers, of one, and with immediates (R139, R141, R143). -/
def Obligations.IntegerOperations : Prop :=
  Sys2Proof.Claims.IntegerOperationsOfTwo ∧ Sys2Proof.Claims.UnaryAndImmediate


/-- A conditional branch passes control to PC + 4·SInt(imm16) when its comparison of g[d] with g[a] holds, and on otherwise; it
writes nothing (R144). -/
def Obligations.ConditionalBranches : Prop :=
  ∀ (s : State) (d a : BitVec 5) (o : BitVec 16), ∀ e ∈ branchForms d a o, Free e.1 s →
    Completes e.1 s s (if e.2 (s.g d) (s.g a) then some (s.th.arch.pc + 4 * o.signExtend 64) else none)

/-- JMP links and jumps to PC + 4·SInt(imm21); JR jumps to g[a] + SExt(imm16) as g[a] was before the link is written, or
raises the misaligned trap when that is no multiple of 4 (R145). -/
def Obligations.JumpsLinkAndTransfer : Prop :=
  (∀ (s : State) (d : BitVec 5) (o : BitVec 21), Free (.jmp d o) s →
    Completes (.jmp d o) s (s.setG d (s.th.arch.pc + 4)) (some (s.th.arch.pc + 4 * o.signExtend 64))) ∧
  (∀ (s : State) (d a : BitVec 5) (o : BitVec 16), Free (.jr d a o) s →
    ((s.g a + o.signExtend 64).toNat % 4 = 0 →
      Completes (.jr d a o) s (s.setG d (s.th.arch.pc + 4)) (some (s.g a + o.signExtend 64))) ∧
    ((s.g a + o.signExtend 64).toNat % 4 ≠ 0 →
      Stops (.jr d a o) s s (.trap 0x04 0 (s.g a + o.signExtend 64)) none))

/-- LP pushes a loop over PC + 4 to E = PC + 4·imm16 with its count, from g[a][31:0] or from the field; count 0 skips the body
to E + 4 and pushes nothing; a full stack of six raises the illegal-instruction trap (R146). -/
def Obligations.HardwareLoopOpens : Prop :=
  ∀ (s : State) (f : BitVec 5) (o : BitVec 15), ∀ e ∈ [(Instr.lp f o, (s.g f).setWidth 32), (Instr.lpImmediate f o, f.setWidth 32)],
    Free e.1 s →
    let pc := s.th.arch.pc
    let last := pc + 4 * o.setWidth 64
    (e.2 = 0 → Completes e.1 s s (some (last + 4))) ∧
    (e.2 ≠ 0 → s.th.arch.loops.length < 6 →
      Completes e.1 s { s with th := { s.th with arch :=
        { s.th.arch with loops := { start := pc + 4, last := last, count := e.2 } :: s.th.arch.loops } } } none) ∧
    (e.2 ≠ 0 → 6 ≤ s.th.arch.loops.length → Stops e.1 s s (.trap 0x01 (wordOf e.1) 0) none)

namespace Sys2Proof.Claims
open Sys2Proof.Machine

/-! ### Scalar memory -/

/-- A value of n bytes as a load leaves it in a register (R149). -/
def loaded (z : BitVec 1) (n v : Nat) : BitVec 64 :=
  if z = 1 then BitVec.ofNat 64 v else (BitVec.ofNat (8 * n) v).signExtend 64

/-- No write whose earlier value the current thread may still read (R98, R102). -/
def settled (s : State) : Prop := s.hist = []

/-- The number that the bytes of an access spell. -/
def wordAt (s : State) (sp : List Span) : Nat := leNat (s.spanBytes sp)

/-- The operations of ATOM with the new value that each computes from the old value x and the operand y (R152). -/
def atomForms (x y : BitVec 64) : List (BitVec 4 × BitVec 64) :=
  [ (0, x + y), (1, x &&& y), (2, x ||| y), (3, x ^^^ y),
    (4, if x.toInt < y.toInt then x else y), (5, if x.toInt < y.toInt then y else x),
    (6, if x.toNat < y.toNat then x else y), (7, if x.toNat < y.toNat then y else x), (8, y) ]

/-- One access's bytes: every byte of every span. -/
def covers (sp : List Span) (k : Nat) : Prop := ∃ x ∈ sp, x.key ≤ k ∧ k < x.key + x.len

/-- Spans that share no byte. -/
def apart (sp : List Span) : Prop := sp.Pairwise fun x y => x.key + x.len ≤ y.key ∨ y.key + y.len ≤ x.key

/-- Row `row`, as the current thread's instruction i, completes; the lines that it touches are noted. -/
def RowCompletes (row i : Instr) (s s1 : State) : Prop := ∃ x, exec row s = .next ((s.finish (s1.touching x) i none).advance)

/-- The current thread waits at instruction i. -/
def waitsAt (s : State) (k : WaitKind) (i : Instr) : Prop := s.th.wait = some { kind := k, instr := i }

end Sys2Proof.Claims

/-! ### Group B: loads, stores and atomic operations -/

/-- LD in both address forms completes with the value read, sign- or zero-extended, in g[d], at any alignment; an access
that translation refuses stops without effect (R149). -/
def Sys2Proof.Claims.LoadsComplete : Prop :=
  ∀ (s : State) (d b : BitVec 5) (z : BitVec 1) (k : BitVec 2) (o : BitVec 12) (x : BitVec 5),
    ∀ e ∈ [(Instr.ld d b z k o, s.g b + o.signExtend 64), (Instr.ldIndexed d b z k x, s.g b + s.g x)], Free e.1 s →
    (∀ v sp, s.readC e.2 (2 ^ k.toNat) true = .ok (v, sp) →
      Completes e.1 s ((s.afterRead e.2 (2 ^ k.toNat) sp).setG d (loaded z (2 ^ k.toNat) v)) none) ∧
    (∀ t, s.readC e.2 (2 ^ k.toNat) true = .error t → Stops e.1 s s t none)

/-- A read by a thread to which no earlier value is still visible gives the bytes that memory holds, once the access has
passed its checks, and leaves the state alone, but for the notes of the lines that it touches (R92, R103, R104, R369). -/
def Sys2Proof.Claims.SettledReadSeesMemory : Prop :=
  ∀ (s : State) (a : BitVec 64) (n : Nat) (w : Bool), settled s →
    (∀ sp, s.checkC a n true false w = .ok sp → s.readC a n w = .ok (wordAt s sp, sp) ∧ ∃ x, s.afterRead a n sp = s.touching x) ∧
    (∀ t, s.checkC a n true false w = .error t → s.readC a n w = .error t)

/-- Scalar loads complete with the value read, which for a settled thread is what memory holds (R92, R103, R104, R149). -/
def Obligations.ScalarLoads : Prop :=
  Sys2Proof.Claims.LoadsComplete ∧ Sys2Proof.Claims.SettledReadSeesMemory


/-- ST in both address forms completes with the low bytes of g[t] stored; on a log-all page its event is admitted first and
counted after; an access that is refused stops without effect (R149, R301). -/
def Sys2Proof.Claims.ScalarStoresComplete : Prop :=
  ∀ (s : State) (t b : BitVec 5) (k : BitVec 2) (o : BitVec 12) (x : BitVec 5),
    ∀ e ∈ [(Instr.st t b k o, s.g b + o.signExtend 64), (Instr.stIndexed t b k x, s.g b + s.g x)], Free e.1 s →
    let n := 2 ^ k.toNat
    let v := (s.g t).toNat % 2 ^ (8 * n)
    (∀ sp, s.checkC e.2 n false true true = .ok sp → onLPage sp = false →
      Completes e.1 s (s.storeSpans e.2 sp (leBytes n v)) none) ∧
    (∀ sp, s.checkC e.2 n false true true = .ok sp → onLPage sp = true →
      s.allowEvent [eventItem 0x08 0 0 e.2 sp (wordAt s sp) v] = .ok () →
      Completes e.1 s ((s.storeSpans e.2 sp (leBytes n v)).commitNow [eventItem 0x08 0 0 e.2 sp (wordAt s sp) v]) none) ∧
    (∀ u, s.checkC e.2 n false true true = .error u → Stops e.1 s s u none)

/-- LDQ and STQ use g[b] + SInt(off7)·size, raise the misaligned trap when that is no multiple of the size, and otherwise load
and store as LD and ST do, as events (R151, R377). -/
def Sys2Proof.Claims.OrderedAccessesComplete : Prop :=
  ∀ (s : State) (d b : BitVec 5) (z : BitVec 1) (k : BitVec 2) (c : BitVec 5) (o : BitVec 7),
    let n := 2 ^ k.toNat
    let a := s.g b + o.signExtend 64 * BitVec.ofNat 64 n
    let v := (s.g d).toNat % 2 ^ (8 * n)
    (Free (.ldq d b z k c o) s →
      (a.toNat % n ≠ 0 → Stops (.ldq d b z k c o) s s (.trap 0x04 0 a) none) ∧
      (∀ x sp, a.toNat % n = 0 → s.readC a n true = .ok (x, sp) → s.allowEvent [eventItem 0x01 0 0 a sp x 0] = .ok () →
        Completes (.ldq d b z k c o) s
          (((s.afterRead a n sp).setG d (loaded z n x)).commitNow [eventItem 0x01 0 0 a sp x 0]) none)) ∧
    (Free (.stq d b k c o) s →
      (a.toNat % n ≠ 0 → Stops (.stq d b k c o) s s (.trap 0x04 0 a) none) ∧
      (∀ sp, a.toNat % n = 0 → s.checkC a n false true true = .ok sp →
        s.allowEvent [eventItem 0x01 1 0 a sp (wordAt s sp) v] = .ok () →
        Completes (.stq d b k c o) s
          ((s.storeSpans a sp (leBytes n v)).commitNow [eventItem 0x01 1 0 a sp (wordAt s sp) v]) none))

/-- ST, LDQ and STQ complete with what they move, or fail, with nothing written (R149, R151, R301, R377). -/
def Obligations.StoresAndOrderedAccesses : Prop :=
  Sys2Proof.Claims.ScalarStoresComplete ∧ Sys2Proof.Claims.OrderedAccessesComplete

/-- ATOM writes its operation's new value and CAS its operand where the word equals g[d]; both leave the old value in g[d].
SNOWPUB raises the word to g[d] and writes no register. Each needs an address that is a multiple of 8. What each reads is
the newest value, which the thread has then seen (R92, R106, R152, R153, R165). -/
def Obligations.AtomicOperations : Prop :=
  ∀ (s : State) (d b c : BitVec 5) (r : BitVec 2) (x : BitVec 5) (sp : List Span),
    let a := s.g b
    let old := BitVec.ofNat 64 (wordAt s sp)
    (∀ e ∈ atomForms old (s.g x), Free (.atom d b e.1 c r x) s →
      (a.toNat % 8 ≠ 0 → Stops (.atom d b e.1 c r x) s s (.trap 0x04 0 a) none) ∧
      (a.toNat % 8 = 0 → s.checkC a 8 true true true = .ok sp →
        s.allowEvent [eventItem 0x01 (2 + e.1.toNat) 0 a sp old.toNat (s.g x).toNat] = .ok () →
        Completes (.atom d b e.1 c r x) s
          ((((s.observe sp).storeSpans a sp (leBytes 8 e.2.toNat) true).setG d old).commitNow
            [eventItem 0x01 (2 + e.1.toNat) 0 a sp old.toNat (s.g x).toNat]) none)) ∧
    (Free (.cas d b c r x) s →
      (a.toNat % 8 ≠ 0 → Stops (.cas d b c r x) s s (.trap 0x04 0 a) none) ∧
      (a.toNat % 8 = 0 → s.checkC a 8 true true true = .ok sp →
        let ev := [eventItem 0x01 (if old = s.g d then 11 else 12) 0 a sp old.toNat (s.g x).toNat]
        s.allowEvent ev = .ok () →
        Completes (.cas d b c r x) s
          (((if old = s.g d then (s.observe sp).storeSpans a sp (leBytes 8 (s.g x).toNat) true else s.observe sp).setG d old).commitNow ev)
            none)) ∧
    (Free (.snowpub d b c) s →
      (a.toNat % 8 ≠ 0 → Stops (.snowpub d b c) s s (.trap 0x04 0 a) none) ∧
      (a.toNat % 8 = 0 → s.checkC a 8 true true true = .ok sp →
        let ev := [eventItem 0x04 0 0 a sp old.toNat (s.g d).toNat]
        s.allowEvent ev = .ok () →
        Completes (.snowpub d b c) s
          (((s.observe sp).storeSpans a sp (leBytes 8 (max old.toNat (s.g d).toNat)) true).commitNow ev) none)) ∧
    (s.observe sp).mem = s.mem ∧ (settled s → ∃ x, s.observe sp = s.touching x)

/-- A store changes the bytes of its spans alone: a byte outside reads as before, the bytes inside read as stored, and
memory keeps its canonical form. -/
def Obligations.StoreWritesItsBytes : Prop :=
  ∀ (s : State) (a : BitVec 64) (sp : List Span) (bs : List (BitVec 8)) (rmw : Bool),
    bs.length = (sp.map (·.len)).sum →
    (∀ k, ¬ covers sp k → readCell (s.storeSpans a sp bs rmw).mem k = readCell s.mem k) ∧
    (apart sp → (sp.flatMap fun x => readCells (s.storeSpans a sp bs rmw).mem x.key x.len) = bs) ∧
    (s.canonical → (s.storeSpans a sp bs rmw).canonical)

/-- An event of a thread (R377): at supervisor level and in a launch of neither mode it is always admitted; at supervisor level
it changes nothing, and in such a launch it adds one to `mevents` and makes no record. In a launch of either mode it waits for the end of
the thread's TSTORE, which may be an earlier event, and a recording launch's thread waits for ring space (R383). -/
def Obligations.EventsAdmittedAndCounted : Prop :=
  ∀ (s : State) (items : List EventItem), s.th.convoy = none →
    (s.th.sup.level = true → s.allowEvent items = .ok () ∧ s.commitNow items = s) ∧
    (∀ l d, s.th.sup.level = false → s.myLaunch = some l → s.myDctx = some d →
      (l.info.mode = 0 → l.acts = 0 → s.allowEvent items = .ok ()) ∧
      (l.acts = 0 → s.commitNow items = { s with th :=
          { s.th with lastEvent := s.th.arch.mevents, segmentsDone := 0, arch := { s.th.arch with mevents := s.th.arch.mevents + 1 } } }) ∧
      (l.info.mode ≠ 0 → s.th.storesTile = true → s.allowEvent items = .error (.wait .unit)) ∧
      (l.acts = 1 → s.th.storesTile = false → items ≠ [] → s.moraineRoom d items.length = false →
        s.allowEvent items = .error (.wait .moraine)))

/-! ### Group B: hints, fences and waits -/

/-- NOP, CVB, HINT and PREF have no effect; YIELD only yields the next issue slot; MIGH leaves its request, or none on the
class that it names, and where `migctl` pin, the module's cores or replay rule it out it changes nothing (R150, R175,
R176). -/
def Sys2Proof.Claims.HintsComplete : Prop :=
  ∀ (s : State) (h b : BitVec 5) (o : BitVec 12) (n : BitVec 26) (c : BitVec 2),
    (∀ i ∈ [Instr.nop, .cvb, .hint n, .pref h b o], Free i s → Completes i s s none) ∧
    (Free .yield s → Completes .yield s
      { s with th := { s.th with yielded := s.others.any fun t => decide (t.core = s.th.core) && t.ready } } none) ∧
    (Free (.migh c) s →
      let k := CoreClass.ofCode c.toNat
      Completes (.migh c) s
        { s with th := { s.th with migh :=
          if (s.th.sup.level ∨ s.th.arch.migctl.getLsbD 0 = false) ∧ s.anyCore s.th (fun x => decide (x = k)) ∧
            (s.th.sup.level ∨ s.actsOn s.th.handle ≠ 2) then (if s.th.cls = k then .none else k) else s.th.migh } } none)

/-- FENCE never waits; with its store-to-load pair the thread no longer sees what its own earlier stores replaced. FENCEX waits
while a write that its source mask covers is outstanding, and completes, as FENCEX_COMPLETE, once none is: every write that
it covers, its own of a source path, those of requests whose report it has read, and those that an XRECV has received, is
then seen by the destination paths' accesses of the threads of its scope (R98, R101, R154, R155). -/
def Sys2Proof.Claims.FencesCompleteOrWait : Prop :=
  ∀ (s : State) (c : BitVec 5) (q p : BitVec 4),
    (Free (.fence c p) s →
      Completes (.fence c p) s
        (if p.getLsbD 2 then
          { s with hist := s.hist.map fun e => if e.path = 0 ∧ e.writer = some s.th.handle then { e with fenced := true } else e }
         else s) none) ∧
    (Free (.fencex c q p) s →
      let t := { s with hist := s.hist.map fun (e : OldByte) =>
        if (p.getLsbD e.path) = true ∧ ((e.path ≠ 3 ∧ e.writer = some s.th.handle) ∨ (e.path = 1 ∧ s.th.told.contains e.request = true) ∨
            (e.path = 3 ∧ e.received = true ∧ e.seenC.contains s.th.handle = true)) then
          { e with
            seenC := e.seenC ++ (if q.getLsbD 0 then s.scopeThreads c else []), seenB := e.seenB ++ (if q.getLsbD 1 then s.scopeThreads c else [])
            allC := e.allC || (decide (c = 31) && q.getLsbD 0), allB := e.allB || (decide (c = 31) && q.getLsbD 1) }
        else e }
      (s.coveredDone p = true → Completes (.fencex c q p) s t none) ∧
      (s.coveredDone p = false → Stops (.fencex c q p) s s (.wait .fencex) none) ∧
      (waitsAt s .fencex (.fencex c q p) → s.coveredDone p = true → RowCompletes .fencexComplete (.fencex c q p) s t) ∧
      (waitsAt s .fencex (.fencex c q p) → s.coveredDone p = false → exec .fencexComplete s = .next s))

/-- Hints have no effect of their own, and fences complete or wait (R98, R101, R120, R150, R154, R155, R175, R176). -/
def Obligations.HintsAndFences : Prop :=
  Sys2Proof.Claims.HintsComplete ∧ Sys2Proof.Claims.FencesCompleteOrWait


/-! ### Group B: barriers, signals and armed actions -/

/-- A lane barrier and one of a single member complete at once without effect on memory; BARA over a lane barrier leaves 0 in
g[d]. Over a word, BARA adds its arrival and leaves the generation that it read in g[d]; BARW completes where the
generation differs from g[a], and waits where it does not (R156, R157). -/
def Sys2Proof.Claims.BarrierForms : Prop :=
  ∀ (s : State) (c d : BitVec 5),
    (s.barAt c = .lane →
      (Free (.bara c d) s → Completes (.bara c d) s (s.setG d 0) none) ∧ (Free (.barw c d) s → Completes (.barw c d) s s none) ∧
      (Free (.bar c) s → Completes (.bar c) s s none)) ∧
    (s.barAt c = .single →
      (Free (.bara c d) s → ∃ v, Completes (.bara c d) s (s.setG d v) none) ∧ (Free (.barw c d) s → Completes (.barw c d) s s none) ∧
      (Free (.bar c) s → Completes (.bar c) s s none)) ∧
    (∀ w m, s.barAt c = .word w m →
      (∀ s1 b last, Free (.bara c d) s → s.arriveAt w m 1 = .ok (s1, b, last) →
        Completes (.bara c d) s (s1.setG d (BitVec.ofNat 64 b.gen)) none) ∧
      (∀ sp b, Free (.barw c d) s → s.readBar w = .ok (sp, b) →
        (b.gen ≠ (s.g d).toNat → Completes (.barw c d) s s none) ∧
        (b.gen = (s.g d).toNat → Stops (.barw c d) s s (.wait (.barrier w (s.g d))) none)))

/-- One arrival: the word's arrived count grows by one, and the arrival that makes arrived and departed together the member
count sets arrived to 0 and adds one to the generation (R113). -/
def Sys2Proof.Claims.BarrierArrivalCounts : Prop :=
  ∀ (b : BarWord) (members : Nat), b.arrived + 1 < 2 ^ 64 → b.departed < 2 ^ 64 → b.arrived + 1 + b.departed < 2 ^ 64 →
    (b.arrived + 1 + b.departed = members →
      b.arrive members = ({ arrived := 0, departed := b.departed, gen := (b.gen + 1) % 2 ^ 64 }, true)) ∧
    (b.arrived + 1 + b.departed ≠ members → b.arrive members = ({ b with arrived := b.arrived + 1 }, false))

/-- An arrival at a barrier word, and the split barriers (R113, R156, R157). -/
def Obligations.SplitBarriers : Prop :=
  Sys2Proof.Claims.BarrierArrivalCounts ∧ Sys2Proof.Claims.BarrierForms


/-- BAR and BARD (R158, R159): the arrival that ends a generation completes at once; another waits in the wait half, from which
BARRIER_WAIT_COMPLETE completes it, with no second arrival, once the generation differs. BARD is illegal at height 0, for a
domain that its level does not declare, and outside the domain. -/
def Obligations.BarrierArrivesThenWaits : Prop :=
  ∀ (s : State) (c : BitVec 5) (k : BitVec 3),
    (∀ l, s.myLaunch = some l → Free (.bard c k) s →
      (l.domainPlace s.th.wid (s.height c l.info.tree.length) k.toNat = none →
        Stops (.bard c k) s s (.trap 0x01 (wordOf (.bard c k)) 0) none) ∧
      (l.domainPlace s.th.wid (s.height c l.info.tree.length) k.toNat = some .lane → Completes (.bard c k) s s none)) ∧
    (∀ e ∈ [(Instr.bar c, s.barAt c, 0), (Instr.bard c k,
        ((s.myLaunch.bind fun l => l.domainPlace s.th.wid (s.height c l.info.tree.length) k.toNat).getD .single), 2)],
      ∀ w m, e.2.1 = .word w m → Free e.1 s →
      (∀ s1 b, s.th.barHalf.find? (fun x => decide (x.1 = s.th.arch.pc)) = none → s.arriveAt w m e.2.2 = .ok (s1, b, true) →
        Completes e.1 s s1 none) ∧
      (∀ s1 b, s.th.barHalf.find? (fun x => decide (x.1 = s.th.arch.pc)) = none → s.arriveAt w m e.2.2 = .ok (s1, b, false) →
        exec e.1 s = .next (({ s1 with th := { s1.th with barHalf := s1.th.barHalf ++ [(s.th.arch.pc, BitVec.ofNat 64 b.gen)] } } : State).waitFor
          (.barrier w (BitVec.ofNat 64 b.gen)) e.1).advance) ∧
      (∀ g sp b x, s.th.barHalf.find? (fun x => decide (x.1 = s.th.arch.pc)) = some (x, g) → s.readBar w = .ok (sp, b) →
        b.gen ≠ g.toNat → Completes e.1 s (s.dropHalf s.th.arch.pc) none ∧
          (waitsAt s (.barrier w g) e.1 → RowCompletes .barrierWaitComplete e.1 s (s.dropHalf s.th.arch.pc)))) ∧
    (∀ d w g m sp b, waitsAt s (.barrier w g) (.barw c d) → s.barAt c = .word w m → g = s.g d → s.readBar w = .ok (sp, b) →
      Free (.barw c d) s → b.gen ≠ g.toNat → RowCompletes .barrierWaitComplete (.barw c d) s s)

/-- SIGADD adds g[d] to the counter and takes the armed actions that it crosses; SIGWAIT completes where the counter has reached
g[d], or once it is woken, and waits otherwise; both need an address that is a multiple of 8 (R109, R110, R160, R161). -/
def Sys2Proof.Claims.SignalsAddAndWait : Prop :=
  ∀ (s : State) (d a c : BitVec 5),
    let addr := s.g a
    (∀ i ∈ [Instr.sigadd d a c, .sigwait d a c], Free i s → addr.toNat % 8 ≠ 0 → Stops i s s (.trap 0x04 0 addr) none) ∧
    (∀ sp, Free (.sigadd d a c) s → addr.toNat % 8 = 0 → s.checkC addr 8 true true true = .ok sp →
      let old := wordAt s sp
      let new := (old + (s.g d).toNat) % 2 ^ 64
      s.allowEvent [eventItem 0x03 0 0 addr sp old (s.g d).toNat] = .ok () →
      Completes (.sigadd d a c) s
        ((((s.storeSpans addr sp (leBytes 8 new) true).crossActions (firstKey sp) old new).commitNow
          [eventItem 0x03 0 0 addr sp old (s.g d).toNat]).numberMine s (firstKey sp)) none) ∧
    (∀ v sp, Free (.sigwait d a c) s → addr.toNat % 8 = 0 → s.readC addr 8 true = .ok (v, sp) →
      let ev := [eventItem 0x03 1 0 addr sp v (s.g d).toNat]
      ((s.g d).toNat ≤ v → s.allowEvent ev = .ok () →
        Completes (.sigwait d a c) s ((s.afterRead addr 8 sp).commitNow ev) none ∧
        (waitsAt s .signal (.sigwait d a c) → RowCompletes .sigwaitComplete (.sigwait d a c) s ((s.afterRead addr 8 sp).commitNow ev))) ∧
      (v < (s.g d).toNat → Stops (.sigwait d a c) s s (.wait .signal) none)) ∧
    (∀ key, Free (.sigwait d a c) s → waitsAt s (.woken key) (.sigwait d a c) →
      let sp : List Span := [{ key := key, len := 8, leaf := 0 }]
      let ev := [eventItem 0x03 1 0 addr sp (s.unitsValue .natural addr 8 sp) (s.g d).toNat]
      s.allowEvent ev = .ok () → RowCompletes .sigwaitComplete (.sigwait d a c) s ((s.afterRead addr 8 sp).commitNow ev))

/-- An addition that does not wrap crosses the thresholds in (old, new]; one that wraps crosses every threshold above old. The
actions on the counter that are crossed leave their tables, and every other stays (R110). -/
def Sys2Proof.Claims.CrossedActionsLeaveTheirTables : Prop :=
  ∀ (s : State) (key old new : Nat) (d : Dctx), d ∈ s.dctxs →
    ∃ d' ∈ (s.crossActions key old new).dctxs, d'.id = d.id ∧
      ∀ x, x ∈ d'.actions ↔ x ∈ d.actions ∧
        ¬(x.key = key ∧ old < x.threshold.toNat ∧ (new < old ∨ x.threshold.toNat ≤ new))

/-- SIGARM arms its action with the arming thread's handle, or fires it at once where the counter has reached the threshold; a
full table stalls it until SIGARM_TABLE_FREE (R110, R161, R162). -/
def Sys2Proof.Claims.ActionsArmOrFire : Prop :=
  ∀ (s : State) (d a b c : BitVec 5), ∀ e ∈ [(Instr.sigarmWake d a c, 0, (0 : BitVec 64), 1), (Instr.sigarmPost d a b c, 1, s.g b, 48),
      (Instr.sigarmLaunch d a b c, 2, s.g b, 64)], Free e.1 s →
    let (i, kind, arg, unit) := e
    let addr := s.g a
    (addr.toNat % 8 ≠ 0 → Stops i s s (.trap 0x04 0 addr) none) ∧
    (addr.toNat % 8 = 0 → arg.toNat % unit ≠ 0 → Stops i s s (.trap 0x04 0 arg) none) ∧
    (∀ sp dc, addr.toNat % 8 = 0 → arg.toNat % unit = 0 → s.checkC addr 8 true true true = .ok sp → s.myDctx = some dc →
      let now := wordAt s sp
      let ev := [eventItem 0x03 (2 + kind) 0 addr sp now (s.g d).toNat]
      let x : Action :=
        { key := firstKey sp, counter := addr, threshold := s.g d, kind := kind, arg := arg, handle := s.th.handle
          event := if s.th.sup.level then none else some s.th.arch.mevents, armed := s.tick }
      (65536 ≤ dc.actions.length → Stops i s s (.wait .actions) none) ∧
      (dc.actions.length < 65536 → s.allowEvent ev = .ok () →
        let s1 := (s.observe sp).commitNow ev
        let t := (s1.arm x now).numberMine s (firstKey sp)
        Completes i s t none ∧ (waitsAt s .actions i → RowCompletes .sigarmTableFree i s t) ∧
        (now < (s.g d).toNat → t.dctxs = (s1.modDctx (handleDctx s1.th.handle) fun q => { q with actions := q.actions ++ [x] }).dctxs)))

/-- Signal counters and the actions armed on them (R109, R110, R160 to R162). -/
def Obligations.SignalsAndArmedActions : Prop :=
  Sys2Proof.Claims.CrossedActionsLeaveTheirTables ∧ Sys2Proof.Claims.SignalsAddAndWait ∧ Sys2Proof.Claims.ActionsArmOrFire


/-! ### Group B: block transfers, tree queries and control registers -/

/-- BXQ and BXQ.S (R166): the descriptor address in g[a + 3] must be a multiple of 48 and name a valid descriptor; a request
with room in the FIFO is pushed; with none BXQ waits, until BXQ_FIFO_FREE, and BXQ.S leaves 1 in g[d]. -/
def Obligations.BlockTransfersArePushed : Prop :=
  ∀ (s : State) (d a : BitVec 5),
    let ring := s.g (a + 3)
    (∀ i ∈ [Instr.bxq a, .bxqS d a], Free i s →
      (ring.toNat % 48 ≠ 0 → Stops i s s (.trap 0x04 0 ring) none) ∧
      (∀ v sp, ring.toNat % 48 = 0 → s.readC ring 48 false = .ok (v, sp) → ringDesc (leBytes 48 v) = none →
        Stops i s s (.trap 0x01 (wordOf i) 0) none)) ∧
    (∀ v sp, ring.toNat % 48 = 0 → s.readC ring 48 false = .ok (v, sp) → ringDesc (leBytes 48 v) ≠ none →
      (s.th.bxq.length < 8 → s.allowEvent [eventItem 6 0 0 ring sp 0 0] (k := 0) = .ok () →
        let s1 := (s.afterRead ring 48 sp).commitNow []
        let t := { s1 with th := { s1.th with bxq := s1.th.bxq ++ [s.requestOf a] } }
        (Free (.bxq a) s → Completes (.bxq a) s t none ∧
          (waitsAt s .bxqFifo (.bxq a) → RowCompletes .bxqFifoFree (.bxq a) s t)) ∧
        (Free (.bxqS d a) s → Completes (.bxqS d a) s (t.setG d 0) none)) ∧
      (8 ≤ s.th.bxq.length →
        (Free (.bxq a) s → Stops (.bxq a) s s (.wait .bxqFifo) none) ∧
        (Free (.bxqS d a) s → Completes (.bxqS d a) s (s.setG d 1) none)))

/-- WID, LVL, LVLN and PHYS leave the thread's index words, its sibling index or fan-out at a height, or the index of a
physical instance in g[d]; at and above the tree's depth the index is 0 and the fan-out 1; a context's slot, core, pod
and die are those it runs on (R171, R172). -/
def Sys2Proof.Claims.TreeQueries : Prop :=
  ∀ (s : State) (d h : BitVec 5) (l : BitVec 3),
    (Free (.wid d) s → Completes (.wid d) s (s.setG d s.th.wid) none) ∧
    (Free (.lvl d h) s → ∃ v, Completes (.lvl d h) s (s.setG d (BitVec.ofNat 64 v)) none ∧
      ∀ x, s.myLaunch = some x →
        let n := if h = 30 then s.th.arch.slv.toNat else h.toNat
        v = ((widFields x.info.tree s.th.wid.toNat)[n]?).getD 0) ∧
    (Free (.lvln d h) s → ∃ v, Completes (.lvln d h) s (s.setG d (BitVec.ofNat 64 v)) none ∧
      ∀ x, s.myLaunch = some x →
        let n := if h = 30 then s.th.arch.slv.toNat else h.toNat
        (x.info.tree.length ≤ n → v = 1) ∧ (∀ y, x.info.tree[n]? = some y → y.vl = false → v = y.fanout)) ∧
    (Free (.phys d l) s → ∃ v, Completes (.phys d l) s (s.setG d (BitVec.ofNat 64 v)) none ∧
      (l = 1 → v = s.th.slot) ∧ (l = 2 → v = s.th.core.toNat) ∧ (l = 3 → v = corePod s.th.core.toNat) ∧
      (l = 4 → v = coreDie s.th.core.toNat))

/-- CRD, CWR and CXG (R60, R173): an index of 0x800 or more at user level is the privilege trap, an unassigned index and a
write of a read-only register the illegal-instruction trap; CRD reads, CWR writes g[a], CXG writes g[a] and leaves the old
value in g[d]. -/
def Sys2Proof.Claims.ControlRegisterAccess : Prop :=
  ∀ (s : State) (d a : BitVec 5) (x : BitVec 12),
    let privileged := 2048 ≤ x.toNat ∧ s.th.sup.level = false
    (∀ i ∈ [Instr.crd d x, .cwr a x, .cxg d a x], Free i s →
      (privileged → Stops i s s (.trap 0x02 (wordOf i) 0) none) ∧
      (¬privileged → crKind x.toNat = none → Stops i s s (.trap 0x01 (wordOf i) 0) none)) ∧
    (∀ k, ¬privileged → crKind x.toNat = some k →
      (Free (.crd d x) s → Completes (.crd d x) s (s.setG d (s.crRead x.toNat)) none) ∧
      (∀ t, k ≠ .ro → s.crWrite x.toNat (s.g a) = .ok t →
        (Free (.cwr a x) s → Completes (.cwr a x) s t none) ∧
        (Free (.cxg d a x) s → Completes (.cxg d a x) s (t.setG d (s.crRead x.toNat)) none)) ∧
      (∀ i ∈ [Instr.cwr a x, .cxg d a x], Free i s → k = .ro ∨ s.crWrite x.toNat (s.g a) = .illegal →
        Stops i s s (.trap 0x01 (wordOf i) 0) none))

/-- The tree queries and the control-register instructions (R60, R171 to R173). -/
def Obligations.TreeAndControlRegisters : Prop :=
  Sys2Proof.Claims.TreeQueries ∧ Sys2Proof.Claims.ControlRegisterAccess


/-- The rows of register writes act as the writes that they name (R64, R284, R309, R310, R382, R391, R406): a value that is
no assigned one leaves the register unchanged. -/
def Obligations.RegisterWriteRows : Prop :=
  ∀ (s : State) (v : BitVec 64) (k : BitVec 2),
    (s.ev = .value v →
      (v.toNat % 16 ≤ 11 → exec .vformWrite s = .next { s with th := { s.th with
        arch := ({ s.th.arch with vform := v.setWidth 4 } : Arch).setVcount (grantCount s.th.lgG (formWidth (v.setWidth 4))) } }) ∧
      (11 < v.toNat % 16 → exec .vformWrite s = .next s) ∧
      (∃ u, exec .ipendClear s = .next { s with th := { s.th with sup := { s.th.sup with ipend := u } } } ∧
        ∀ n, u.getLsbD n = (s.th.sup.ipend.getLsbD n && !(v.getLsbD n && decide (n ≠ 8)))) ∧
      (∀ e ∈ [(Instr.fqdescWrite, fun (d : Dctx) => { d with fqdesc := v.setWidth 56 }),
          (Instr.mrdescWrite, fun (d : Dctx) => { d with mrdesc := v.setWidth 56, mrBroken := false })],
        exec e.1 s = .next (if (v.setWidth 56).toNat % 48 = 0 then s.modDctx (handleDctx s.th.handle) e.2 else s)) ∧
      exec .fqstatClear s =
        .next (if v.getLsbD 1 then s.modDctx (handleDctx s.th.handle) fun d => { d with fqOvf := false } else s) ∧
      exec .mrstatClear s =
        .next (if v.getLsbD 0 then s.modDctx (handleDctx s.th.handle) fun d => { d with mrHw := false } else s) ∧
      (v.getLsbD 0 = false → exec .mpctlFree s = .next s) ∧
      (v.getLsbD 0 = true → ∃ t, exec .mpctlFree s = .next t ∧ SameMemory s t ∧ t.dctxs = s.dctxs ∧
        t.launches = (s.launches.map fun l => if l.dc = handleDctx s.th.handle ∧ l.info.mode = 2 then { l with enforced := false } else l) ∧
        ∀ u ∈ t.threads, ∃ w ∈ s.threads, u = w ∨ (∃ g, w.place = .fifo g) ∧ u = { w with migrTo := none }) ∧
      (∀ e ∈ [(Instr.fqresumeRetry, 0), (Instr.fqresumeEnd, 1), (Instr.fqresumeHold, 2)],
        exec e.1 s = .next ((s.resumeParked (v.setWidth 32) e.2).getD s))) ∧
    (∀ d, s.ev = .valueAt k v → s.myDctx = some d →
      exec .dsmRemove s = .next (s.modDctx d.id (·.removeSlice (slotOf k) ((v &&& ~~~0x1_0000_0000_0000).setWidth 54))) ∧
      (d.dsSector[slotOf k] = none →
        exec .dsmInstall s = .next (s.installSlice d (slotOf k) ((v ||| 0x1_0000_0000_0000).setWidth 54))) ∧
      ((v.setWidth 56).toNat % 48 = 0 → d.dsSector[slotOf k] = none →
        exec .dsaWrite s = .next (s.putDctx { d with dsa := d.dsa.set (slotOf k) (v.setWidth 56), dsSector := d.dsSector.set (slotOf k) none })) ∧
      ((v.setWidth 56).toNat % 48 ≠ 0 → exec .dsaWrite s = .next s))

/-! ### Traps and their entry -/

/-- SYSC enters the handler with cause 0x0E, its number in `tdetail` and the next instruction's address in `tpc`; BRK stops
with cause 0x0D and its number; an unassigned word stops with cause 0x01 on every class (R120, R174, R285). -/
def Obligations.SystemCallsAndBreaks : Prop :=
  ∀ (s : State) (n : BitVec 15) (w : BitVec 32),
    (Free (.sysc n) s → s.th.runs = [] → s.th.sup.tip = false →
      exec (.sysc n) s = .next (s.trapAt 0x0E (s.th.arch.pc + 4) (n.setWidth 64) 0 0 s.th.arch.pc).advance) ∧
    (Free (.brk n) s → Stops (.brk n) s s (.trap 0x0D (n.setWidth 64) 0) none) ∧
    (Free (.unassignedEncoding w) s →
      Stops (.unassignedEncoding w) s s (.trap 0x01 (wordOf (.unassignedEncoding w)) 0) none) ∧
    (∀ i t detail addr, s.th.convoy = none → s.convoys i = false → s.th.runs = [] →
      s.stop i (.trap t detail addr) none = .next ((s.noteConsumed i (.trap t detail addr)).trapAt t s.th.arch.pc detail addr 0).advance ∧
      (t ≠ 0x0A → t ≠ 0x0B → s.noteConsumed i (.trap t detail addr) = s))

/-- Trap entry (R286): `tpc`, `tcause`, `tdetail` and `taddr` take the trap's values, tip is set, pm takes the level, pie takes
ie, ie is cleared, the level is supervisor and the pc is the handler's address; no general register, no other user
register and no byte of memory changes. -/
def Sys2Proof.Claims.TrapEntered : Prop :=
  ∀ (s : State) (cause : BitVec 8) (pc detail addr : BitVec 64) (info : BitVec 13), s.th.sup.tip = false →
    let t := s.trapAt cause pc detail addr info
    t.th.sup.tpc = pc ∧ t.th.sup.tcause = cause ∧ t.th.sup.tdetail = detail ∧ t.th.sup.taddr = addr ∧ t.th.sup.tinfo = info ∧
    t.th.sup.level = true ∧ t.th.sup.tip = true ∧ t.th.sup.ie = false ∧
    t.th.sup.sstat.getLsbD 2 = s.th.sup.level ∧ t.th.sup.sstat.getLsbD 1 = s.th.sup.ie ∧ t.th.sup.sstat.getLsbD 4 = false ∧
    t.th.arch = { s.th.arch with pc := (s.th.sup.tvec ++ 0#2).setWidth 64 } ∧ t.th.poison = s.th.poison ∧ t.others = s.others ∧
    t.launches = s.launches ∧ SameMemory s t

/-- A trap in trap state is a double trap (R288): the thread is held, a fault record of kind 0x03 with the second cause and the
trap registers as they stood waits for its fault queue, and its trap registers keep what they held. -/
def Sys2Proof.Claims.DoubleTrapHolds : Prop :=
  ∀ (s : State) (cause : BitVec 8) (pc detail addr : BitVec 64) (info : BitVec 13), s.th.sup.tip = true →
    let t := s.takeTrap cause pc detail addr info
    t.th.held = true ∧ t.th.sup = s.th.sup ∧ t.th.arch = { s.th.arch with pc := pc } ∧ SameMemory s t ∧
    t = { s.queueFault (handleDctx s.th.handle)
        { kind := 0x03, cause := cause, reason := s.th.sup.tcause, handle := s.th.handle, addr := s.th.sup.tdetail, pc := s.th.sup.tpc
          flags := if s.th.sup.level then 0x08 else 0, elem := 0, core := s.th.core.setWidth 16 } with th := t.th }

/-- Trap entry, and a trap in trap state (R286, R288). -/
def Obligations.TrapEntry : Prop :=
  Sys2Proof.Claims.TrapEntered ∧ Sys2Proof.Claims.DoubleTrapHolds

namespace Sys2Proof.Claims
open Sys2Proof.Machine

/-! ### Floating point -/

/-- The two-operand forms of the F group with the operation that each delivers (R181, R182). -/
def scalarFpForms (d a b : BitVec 5) (f : BitVec 2) : List (Instr × (Fmt → Mode → Nat → Nat → Nat × FFlags)) :=
  [ (.fadd d a b f, fpAdd), (.fsub d a b f, fpSub), (.fmul d a b f, fpMul), (.fdiv d a b f, fpDiv),
    (.fmin d a b f, fun f _ x y => fpMinMax f false x y), (.fmax d a b f, fun f _ x y => fpMinMax f true x y) ]

/-! ### Elements -/

/-- The two-operand integer element forms with each element's result at width w (R189, R208). -/
def elementForms (d a b : BitVec 6) (p : BitVec 3) (z : BitVec 1) : List (Instr × (Nat → Nat → Nat → Nat)) :=
  let low (w : Nat) : Int := -((2 ^ (w - 1) : Nat) : Int)
  let high (w : Nat) : Int := ((2 ^ (w - 1) : Nat) : Int) - 1
  [ (.vadd d a b p z, fun w x y => (x + y) % 2 ^ w), (.vsub d a b p z, fun w x y => (x + 2 ^ w - y) % 2 ^ w),
    (.vmul d a b p z, fun w x y => x * y % 2 ^ w),
    (.vmulh d a b p z, fun w x y => wrapInt w (signed w x * signed w y / ((2 ^ w : Nat) : Int))),
    (.vmulhn d a b p z, fun w x y => x * y / 2 ^ w),
    (.vmin d a b p z, fun w x y => if signed w y < signed w x then y else x),
    (.vmax d a b p z, fun w x y => if signed w x < signed w y then y else x),
    (.vminn d a b p z, fun _ x y => min x y), (.vmaxn d a b p z, fun _ x y => max x y),
    (.vand d a b p z, fun _ x y => x &&& y), (.vor d a b p z, fun _ x y => x ||| y), (.vxor d a b p z, fun _ x y => x ^^^ y),
    (.vsll d a b p z, fun w x y => (x <<< (y % w)) % 2 ^ w), (.vsrl d a b p z, fun w x y => x >>> (y % w)),
    (.vsra d a b p z, fun w x y => wrapInt w (signed w x / ((2 ^ (y % w) : Nat) : Int))),
    (.vsadd d a b p z, fun w x y => wrapInt w (max (low w) (min (high w) (signed w x + signed w y)))),
    (.vssub d a b p z, fun w x y => wrapInt w (max (low w) (min (high w) (signed w x - signed w y)))),
    (.vsaddn d a b p z, fun w x y => min (x + y) (2 ^ w - 1)), (.vssubn d a b p z, fun w x y => min (x - y) (2 ^ w - 1)),
    (.vdiv d a b p z, fun w x y => if y = 0 then 2 ^ w - 1 else wrapInt w ((signed w x).tdiv (signed w y))),
    (.vdivn d a b p z, fun w x y => if y = 0 then 2 ^ w - 1 else x / y),
    (.vrem d a b p z, fun w x y => if y = 0 then x else wrapInt w (signed w x - signed w y * (signed w x).tdiv (signed w y))),
    (.vremn d a b p z, fun _ x y => if y = 0 then x else x % y) ]

/-- The one-operand integer element forms (R189, R197). -/
def elementForms1 (d a : BitVec 6) (p : BitVec 3) (z : BitVec 1) : List (Instr × (Nat → Nat → Nat)) :=
  [ (.vabs d a p z, fun w x => (signed w x).natAbs), (.vclz d a p z, fun w x => if x = 0 then w else w - 1 - Nat.log2 x),
    (.vpopc d a p z, fun w x => (List.range w).countP fun i => x.testBit i), (.vmov d a p z, fun _ x => x) ]

/-- The scalar-operand integer forms (R190); `true` marks a shift, whose immediate is zero-extended. -/
def scalarForms (d a : BitVec 6) (g : BitVec 5) (p : BitVec 3) (z m : BitVec 1) : List (Instr × Bool × (Nat → Nat → Nat → Nat)) :=
  [ (.vaddScalar d a g p z m, false, fun w x y => (x + y) % 2 ^ w), (.vsubScalar d a g p z m, false, fun w x y => (x + 2 ^ w - y) % 2 ^ w),
    (.vmulScalar d a g p z m, false, fun w x y => x * y % 2 ^ w),
    (.vminScalar d a g p z m, false, fun w x y => if signed w y < signed w x then y else x),
    (.vmaxScalar d a g p z m, false, fun w x y => if signed w x < signed w y then y else x),
    (.vminnScalar d a g p z m, false, fun _ x y => min x y), (.vmaxnScalar d a g p z m, false, fun _ x y => max x y),
    (.vandScalar d a g p z m, false, fun _ x y => x &&& y), (.vorScalar d a g p z m, false, fun _ x y => x ||| y),
    (.vxorScalar d a g p z m, false, fun _ x y => x ^^^ y),
    (.vsllScalar d a g p z m, true, fun w x y => (x <<< (y % w)) % 2 ^ w), (.vsrlScalar d a g p z m, true, fun w x y => x >>> (y % w)),
    (.vsraScalar d a g p z m, true, fun w x y => wrapInt w (signed w x / ((2 ^ (y % w) : Nat) : Int))) ]

/-- The scalar of a scalar-operand form: the low bits of g[g], or the five-bit immediate. -/
def scalarValue (s : State) (g : BitVec 5) (m : BitVec 1) (shift : Bool) : Nat :=
  if m = 0 then (s.g g).toNat % 2 ^ s.w else if shift then g.toNat else wrapInt s.w g.toInt

/-- Flags that are those of the active elements alone, ORed. -/
def flagsOf (s : State) (p : BitVec 3) (fl : FFlags) (f : Nat → FFlags) : Prop :=
  ∀ n, fl.getLsbD n = true ↔ ∃ i, s.active p i = true ∧ (f i).getLsbD n = true

/-- The floating-point element forms with each element's result and flags (R191, R207). -/
def fpElementForms (s : State) (d a b : BitVec 6) (g : BitVec 5) (p : BitVec 3) (z : BitVec 1) :
    List (Instr × (Fmt → Nat → Nat × FFlags)) :=
  let x := s.elem a
  let y := s.elem b
  let v := s.elem d
  let k := (s.g g).toNat % 2 ^ s.w
  [ (.vfadd d a b p z, fun f i => fpAdd f s.mode (x i) (y i)), (.vfsub d a b p z, fun f i => fpSub f s.mode (x i) (y i)),
    (.vfmul d a b p z, fun f i => fpMul f s.mode (x i) (y i)),
    (.vfmin d a b p z, fun f i => fpMinMax f false (x i) (y i)), (.vfmax d a b p z, fun f i => fpMinMax f true (x i) (y i)),
    (.vfabs d a p z, fun f i => (fpSign f 3 (x i) 0, 0)), (.vfneg d a p z, fun f i => (fpSign f 1 (x i) (x i), 0)),
    (.vfma d a b p z, fun f i => fpFma f s.mode (x i) (y i) (v i)), (.vfnma d a b p z, fun f i => fpFnma f s.mode (x i) (y i) (v i)),
    (.vfaddScalar d a g p z, fun f i => fpAdd f s.mode (x i) k), (.vfmulScalar d a g p z, fun f i => fpMul f s.mode (x i) k),
    (.vfdiv d a b p z, fun f i => fpDiv f s.mode (x i) (y i)), (.vfsqrt d a p z, fun f i => fpSqrt f s.mode (x i)),
    (.vfexp2 d a p z, fun f i => fpExp2 f s.mode (x i)), (.vflog2 d a p z, fun f i => fpLog2 f s.mode (x i)),
    (.vftanh d a p z, fun f i => fpTanh f s.mode (x i)) ]

end Sys2Proof.Claims

/-! ### Group F -/

/-- Every F form completes: its operands read in the format, its result in g[d], and its flags ORed into `fstat`; FCLASS and
FSGN raise none (R76, R181 to R186). -/
def Sys2Proof.Claims.ScalarFloatsComplete : Prop :=
  ∀ (s : State) (d a b c : BitVec 5) (f : BitVec 2),
    let m := Mode.of s.th.arch.fround
    let fm := scalarFmt f
    let x := (s.g a).toNat % 2 ^ fm.bits
    let y := (s.g b).toNat % 2 ^ fm.bits
    let v := (s.g c).toNat % 2 ^ fm.bits
    let leaves (i : Instr) (r : Nat × FFlags) : Prop :=
      Free i s → Completes i s ((s.setG d (BitVec.ofNat 64 r.1)).orFlags r.2) none
    (∀ e ∈ scalarFpForms d a b f, leaves e.1 (e.2 fm m x y)) ∧
    leaves (.fsqrt d a f) (fpSqrt fm m x) ∧ leaves (.fma d a b c f) (fpFma fm m x y v) ∧ leaves (.fms d a b c f) (fpFms fm m x y v) ∧
    (∀ k, leaves (.fcmp d a b k f) (if (fpCompare fm k x y).1 then 1 else 0, (fpCompare fm k x y).2)) ∧
    (∀ t, leaves (.fcvt d a t f) (fcvtOut fm m t x)) ∧ (∀ t, leaves (.fcvtFromInt d a t f) (fcvtIn fm m t (s.g a).toNat)) ∧
    (Free (.fclass d a f) s → Completes (.fclass d a f) s (s.setG d (BitVec.ofNat 64 (fpClass fm x))) none) ∧
    (∀ g, Free (.fsgn d a b g f) s → Completes (.fsgn d a b g f) s (s.setG d (BitVec.ofNat 64 (fpSign fm g x y))) none)

/-- The special cases of R71, R181 and R182: a NaN operand of an arithmetic operation gives the canonical NaN, with invalid just
for a signalling one; a finite non-zero value over zero gives infinity and divide by zero, 0/0 and ∞/∞ the canonical NaN
and invalid; 0·∞ + z is invalid whatever z is; the minimum and maximum are one of the operands, the one that is no NaN, or
the canonical NaN. -/
def Sys2Proof.Claims.FloatingPointSpecialCases : Prop :=
  ∀ (f : Fmt) (m : Mode) (x y z : Nat),
    (∀ op ∈ [fpAdd, fpSub, fpMul, fpDiv], (f.decode x).isNan = true ∨ (f.decode y).isNan = true →
      op f m x y = (f.nanBits, if (f.decode x).isSNan ∨ (f.decode y).isSNan then flagInvalid else 0)) ∧
    (∀ n k e, f.decode x = .fin n k e → k ≠ 0 → (f.decode y).isZero = true →
      fpDiv f m x y = (f.signed (n ^^ (f.decode y).neg) f.infBits, flagDivZero)) ∧
    ((f.decode x).isZero = true → (f.decode y).isZero = true → fpDiv f m x y = (f.nanBits, flagInvalid)) ∧
    ((f.decode x).isInf = true → (f.decode y).isInf = true → fpDiv f m x y = (f.nanBits, flagInvalid)) ∧
    ((f.decode x).isZero = true → (f.decode y).isInf = true →
      (fpFma f m x y z).1 = f.nanBits ∧ (fpFma f m x y z).2.getLsbD 0 = true) ∧
    (∀ big, (fpMinMax f big x y).2 = (if (f.decode x).isSNan ∨ (f.decode y).isSNan then flagInvalid else 0) ∧
      ((f.decode x).isNan = false → (f.decode y).isNan = true → (fpMinMax f big x y).1 = x % 2 ^ f.bits) ∧
      ((f.decode x).isNan = true → (f.decode y).isNan = false → (fpMinMax f big x y).1 = y % 2 ^ f.bits) ∧
      ((f.decode x).isNan = true → (f.decode y).isNan = true → (fpMinMax f big x y).1 = f.nanBits % 2 ^ f.bits) ∧
      ((f.decode x).isNan = false → (f.decode y).isNan = false → (f.decode x).lt (f.decode y) = true →
        (fpMinMax f big x y).1 = (if big then y else x) % 2 ^ f.bits))

/-- Scalar floating point: its instructions complete with their values and flags, and the special cases. -/
def Obligations.ScalarFloatingPoint : Prop :=
  Sys2Proof.Claims.ScalarFloatsComplete ∧ Sys2Proof.Claims.FloatingPointSpecialCases


/-! ### Group VA and VX: elements -/

/-- How a vector destination is written (R178): an active element takes its result, an inactive one below `vcount` keeps its
value or, zeroing, becomes 0, and the bits at and above `vcount` elements keep theirs or become 0; every other physical
register keeps its value. -/
def Obligations.ElementResultsWritten : Prop :=
  ∀ (s : State) (d : BitVec 6) (p : BitVec 3) (z : BitVec 1) (f : Nat → Nat), s.vl * s.w ≤ 2048 →
    let t := s.putV d z (s.mapLanes p f)
    (∀ i, i < s.vl →
      t.elem d i = if s.active p i then f i % 2 ^ s.w else if z = 1 then 0 else s.elem d i) ∧
    (∀ k, s.vl * s.w ≤ k → k < 2048 → (t.vReg d).testBit k = (!decide (z = 1) && (s.vReg d).testBit k)) ∧
    (∀ k, k ≠ physV s.th.arch.vrot d → t.th.arch.v[k] = s.th.arch.v[k])

/-- Every integer element form completes with its results for the active elements (R189, R197, R208). -/
def Sys2Proof.Claims.IntegerElements : Prop :=
  ∀ (s : State) (d a b : BitVec 6) (p : BitVec 3) (z : BitVec 1),
    (∀ e ∈ elementForms d a b p z, Free e.1 s →
      Completes e.1 s (s.putV d z (s.mapLanes p fun i => e.2 s.w (s.elem a i) (s.elem b i))) none) ∧
    (∀ e ∈ elementForms1 d a p z, Free e.1 s →
      Completes e.1 s (s.putV d z (s.mapLanes p fun i => e.2 s.w (s.elem a i))) none) ∧
    (Free (.vmacc d a b p z) s →
      Completes (.vmacc d a b p z) s
        (s.putV d z (s.mapLanes p fun i => (s.elem d i + s.elem a i * s.elem b i % 2 ^ s.w) % 2 ^ s.w)) none) ∧
    (Free (.vidx d p z) s → formFmt s.th.arch.vform = none →
      Completes (.vidx d p z) s (s.putV d z (s.mapLanes p fun i => i)) none) ∧
    (∀ f, Free (.vidx d p z) s → formFmt s.th.arch.vform = some f →
      Completes (.vidx d p z) s (s.putV d z (s.mapLanes p fun i => ((intVal i).convert f .rne false).1)) none)

/-- The scalar-operand forms complete as the element forms with one scalar for every element of b; VBCAST writes the scalar,
converted under a floating-point `vform` when it is an immediate (R190). -/
def Sys2Proof.Claims.ScalarOperandForms : Prop :=
  ∀ (s : State) (d a : BitVec 6) (g : BitVec 5) (p : BitVec 3) (z m : BitVec 1),
    (∀ e ∈ scalarForms d a g p z m, Free e.1 s →
      Completes e.1 s (s.putV d z (s.mapLanes p fun i => e.2.2 s.w (s.elem a i) (scalarValue s g m e.2.1))) none) ∧
    (Free (.vbcast d g p z m) s → formFmt s.th.arch.vform = none ∨ m = 0 →
      Completes (.vbcast d g p z m) s (s.putV d z (s.mapLanes p fun _ => scalarValue s g m false)) none) ∧
    (∀ f, Free (.vbcast d g p z m) s → formFmt s.th.arch.vform = some f → m = 1 →
      Completes (.vbcast d g p z m) s (s.putV d z (s.mapLanes p fun _ => ((intVal g.toInt).convert f .rne false).1)) none)

/-- The integer element forms, with vector and with scalar operands. -/
def Obligations.IntegerElementForms : Prop :=
  Sys2Proof.Claims.IntegerElements ∧ Sys2Proof.Claims.ScalarOperandForms


/-- The floating-point element forms complete under a floating-point `vform`, with the flags of the active elements alone ORed
into `fstat`, and raise the illegal-instruction trap under an integer one (R178, R179, R190, R191, R207). -/
def Obligations.FloatingElementForms : Prop :=
  ∀ (s : State) (d a b : BitVec 6) (g : BitVec 5) (p : BitVec 3) (z : BitVec 1),
    ∀ e ∈ fpElementForms s d a b g p z, Free e.1 s →
      (formFmt s.th.arch.vform = none → Stops e.1 s s (.trap 0x01 (wordOf e.1) 0) none) ∧
      (∀ f, formFmt s.th.arch.vform = some f → ∃ fl : FFlags,
        Completes e.1 s ((s.putV d z (s.mapLanes p fun i => (e.2 f i).1)).orFlags fl) none ∧
        flagsOf s p fl fun i => (e.2 f i).2)

/-- Compares and predicate forms (R178, R192 to R196): a compare or PLOG writes its outcome to the active bits of the
destination, VFCMP with the flags of the active elements ORed into `fstat`, other bits below `vcount` keep their values or become 0, and a destination of p0 discards it; VSEL takes every
element from one source or the other; PCNT counts; BPANY and BPNONE branch. -/
def Obligations.ComparesAndPredicates : Prop :=
  ∀ (s : State) (c q u v : BitVec 3) (d a b : BitVec 6) (r : BitVec 5) (p : BitVec 3) (z : BitVec 1) (o : BitVec 18),
    (Free (.vcmp c q a b p z) s → Completes (.vcmp c q a b p z) s
      (s.putP q z (s.lanes.map fun i => if s.active p i then some (intCompare c s.w (s.elem a i) (s.elem b i)) else none)) none) ∧
    (Free (.vfcmp c q a b p z) s →
      (formFmt s.th.arch.vform = none → Stops (.vfcmp c q a b p z) s s (.trap 0x01 (wordOf (.vfcmp c q a b p z)) 0) none) ∧
      (∀ f, formFmt s.th.arch.vform = some f → ∃ fl : FFlags, Completes (.vfcmp c q a b p z) s
        ((s.putP q z (s.lanes.map fun i => if s.active p i then some (fpCondition f c (s.elem a i) (s.elem b i)).1 else none)).orFlags fl) none ∧
        flagsOf s p fl fun i => (fpCondition f c (s.elem a i) (s.elem b i)).2)) ∧
    (Free (.plog c q u v p z) s → Completes (.plog c q u v p z) s
      (s.putP q z (s.lanes.map fun i =>
        if s.active p i then some (predOp c ((s.pReg u).testBit i) ((s.pReg v).testBit i)) else none)) none) ∧
    (Free (.vsel d a b p) s → s.th.poison.v = Vector.replicate 64 0 →
      Completes (.vsel d a b p) s (s.putV d 0 (s.lanes.map fun i => some (s.elem (if s.active p i then a else b) i))) none) ∧
    (Free (.pcnt r u p) s → Completes (.pcnt r u p) s
      (s.setG r (BitVec.ofNat 64 (s.lanes.countP fun i => s.active p i && (s.pReg u).testBit i))) none) ∧
    (∀ i, s.active p i = true →
      (Free (.bpany o p) s → Completes (.bpany o p) s s (some (s.th.arch.pc + 4 * o.signExtend 64))) ∧
      (Free (.bpnone o p) s → Completes (.bpnone o p) s s none)) ∧
    ((∀ i, s.active p i = false) →
      (Free (.bpany o p) s → Completes (.bpany o p) s s none) ∧
      (Free (.bpnone o p) s → Completes (.bpnone o p) s s (some (s.th.arch.pc + 4 * o.signExtend 64)))) ∧
    (∀ f : Nat → Bool, s.vl ≤ 256 →
      let t := s.putP q z (s.lanes.map fun i => if s.active p i then some (f i) else none)
      (q = 0 → t = s) ∧
      (q ≠ 0 → ∀ i, t.th.arch.p[q.toNat].getLsbD i =
        (decide (i < s.vl) && if s.active p i then f i else !decide (z = 1) && s.th.arch.p[q.toNat].getLsbD i)) ∧
      (∀ k : Fin 8, k.val ≠ q.toNat → t.th.arch.p[k] = s.th.arch.p[k]))

/-- VEXT leaves the element that g[x] names, extended as `vform` says, and 0 at and above `vcount`; VCVT writes converted
elements with their flags, and raises the illegal-instruction trap for a scaled type under an integer `vform`, for TO a rime-2 type
always (R197 to R200). -/
def Obligations.MovesAndConversions : Prop :=
  ∀ (s : State) (r x : BitVec 5) (d a : BitVec 6) (q : BitVec 1) (t : BitVec 5) (p : BitVec 3) (z : BitVec 1),
    s.th.poison.v = Vector.replicate 64 0 →
    let own := vtype (s.th.arch.vform.setWidth 5)
    (Free (.vext r a x) s →
      let k := (s.g x).toNat
      Completes (.vext r a x) s
        (s.setG r (if s.vl ≤ k then 0
          else if s.th.arch.vform.toNat < 4 then BitVec.ofInt 64 (signed s.w (s.elem a k)) else BitVec.ofNat 64 (s.elem a k))) none) ∧
    (Free (.vcvtTo d a q t p z) s →
      (vtype t = .rime ∨ (∃ g, vtype t = .mx g ∧ formFmt s.th.arch.vform = none) →
        Stops (.vcvtTo d a q t p z) s s (.trap 0x01 (wordOf (.vcvtTo d a q t p z)) 0) none) ∧
      (∀ f g, vtype t = .mx g → formFmt s.th.arch.vform = some f →
        Completes (.vcvtTo d a q t p z) s (s.toMx d a f g (typeWidth t) p) none) ∧
      (t.toNat < 15 → ∃ fl : FFlags,
        Completes (.vcvtTo d a q t p z) s
          ((s.putConverted d (typeWidth t) z
            (s.mapLanes p fun i => (convertElem s.mode (q = 1) own (vtype t) (s.elem a i)).1)).orFlags fl) none ∧
        flagsOf s p fl fun i => (convertElem s.mode (q = 1) own (vtype t) (s.elem a i)).2)) ∧
    (Free (.vcvtFrom d a q t p z) s →
      let group := s.groupBits (typeGroup s.w t a)
      (typeScaled t = true → formFmt s.th.arch.vform = none →
        Stops (.vcvtFrom d a q t p z) s s (.trap 0x01 (wordOf (.vcvtFrom d a q t p z)) 0) none) ∧
      (∀ f, typeScaled t = true → formFmt s.th.arch.vform = some f → ∃ fl : FFlags,
        Completes (.vcvtFrom d a q t p z) s
          ((s.putV d z (s.mapLanes p fun i =>
            ((scaledElem (vtype t) group (s.vReg (a + 1)) i (typeWidth t)).convert f s.mode false).1)).orFlags fl) none ∧
        flagsOf s p fl fun i => ((scaledElem (vtype t) group (s.vReg (a + 1)) i (typeWidth t)).convert f s.mode false).2) ∧
      (t.toNat < 15 → ∃ fl : FFlags,
        Completes (.vcvtFrom d a q t p z) s
          ((s.putV d z (s.mapLanes p fun i =>
            (convertElem s.mode (q = 1) (vtype t) own (bitsOf group (i * typeWidth t) (typeWidth t))).1)).orFlags fl) none ∧
        flagsOf s p fl fun i => (convertElem s.mode (q = 1) (vtype t) own (bitsOf group (i * typeWidth t) (typeWidth t))).2))

/-- VCONF sets the active grant to the request limited by the launch's minimum and the first grant, with the full count of
elements, which it leaves in g[d]; any other request is illegal. VLOOP counts down to 0, turns the rotation back by one, and
shifts the stage predicates. VRGET and VRPUT move an entry of the deep file, and are illegal without one or from entry 192
up; VSYNC completes (R187, R188, R217, R218). -/
def Obligations.VectorLengthAndLoops : Prop :=
  ∀ (s : State) (d g : BitVec 5) (x : BitVec 6) (m : BitVec 1),
    (Free (.vconf d g m) s →
      let r := if m = 0 then (s.g g).toNat else 2 ^ g.toNat
      let low := (s.myLaunch.map fun l => l.info.vlmin).getD 7
      (r ∉ [128, 256, 512, 1024, 2048] → Stops (.vconf d g m) s s (.trap 0x01 (wordOf (.vconf d g m)) 0) none) ∧
      (∀ k, r = 2 ^ k → 7 ≤ k → k ≤ 11 →
        let lg := max low (min k s.th.lgG0)
        let t := (s.setGrant lg).fullCount
        Completes (.vconf d g m) s (t.setG d (BitVec.ofNat 64 t.vl)) none ∧ t.th.lgG = lg ∧
        (lg ≤ 11 → 7 ≤ lg → t.vl = min (2 ^ lg / s.w) 256) ∧
        (lg ≠ s.th.lgG → ∀ j n, n < 2048 → t.th.arch.v[(j : Fin 64)].getLsbD n = (decide (n < 2 ^ lg) && s.th.arch.v[j].getLsbD n)))) ∧
    (Free (.vloop g) s → ∃ t, Completes (.vloop g) s t none ∧
      (g ≠ 0 → t.g g = BitVec.ofNat 64 ((s.g g).toNat - 1)) ∧ t.th.arch.vrot = s.th.arch.vrot + 31 ∧
      t.vl = grantCount s.th.lgG s.w % 4096 ∧ t.th.arch.v = s.th.arch.v ∧
      (s.vl = grantCount s.th.lgG s.w →
        t.th.arch.p[7] = s.th.arch.p[6] ∧ t.th.arch.p[6] = s.th.arch.p[5] ∧ t.th.arch.p[5] = s.th.arch.p[4] ∧
        t.th.arch.p[4] = if 1 < (s.g g).toNat then BitVec.ofNat 256 (2 ^ t.vl - 1) else 0)) ∧
    (∀ h : (s.g g).toNat < 192, s.th.arch.vdeep ≠ 0 →
      (Free (.vrget x g) s → s.th.poison.deep[(s.g g).toNat] = 0 →
        Completes (.vrget x g) s (s.putVBits x s.th.arch.deep[(s.g g).toNat].toNat (2 ^ s.grantBits - 1)) none) ∧
      (Free (.vrput x g) s → s.th.poison.v = Vector.replicate 64 0 → ∃ u,
        Completes (.vrput x g) s { s with th := { s.th with
          poison := u, arch := { s.th.arch with deep := s.th.arch.deep.set (s.g g).toNat (BitVec.ofNat 2048 (s.vReg x % 2 ^ s.grantBits)) } } } none)) ∧
    (192 ≤ (s.g g).toNat ∨ s.th.arch.vdeep = 0 → ∀ i ∈ [Instr.vrget x g, .vrput x g], Free i s →
      Stops i s s (.trap 0x01 (wordOf i) 0) none) ∧
    (Free .vsync s → Completes .vsync s s none)

/-- The permutations, VSCAN, VRED and VRNG complete: each active element takes the source element that its form names, or
zero (R209 to R212); a scan takes the tree's value over the active elements up to it, with their flags ORed, a reduction leaves the tree's value in
element 0 (R213 to R215); random bits depend on the key, the base and the index alone (R216). -/
def Obligations.PermutationsAndReductions : Prop :=
  ∀ (s : State) (d a b : BitVec 6) (n : BitVec 5) (k o p : BitVec 3) (e z : BitVec 1),
    let pick (j : Nat) : Nat := if j < s.vl then s.elem a j else 0
    let chosen := s.lanes.filter (s.active p)
    (∀ x ∈ [(Instr.vxch d a k p z, fun i => if i ^^^ 2 ^ k.toNat < s.vl then s.elem a (i ^^^ 2 ^ k.toNat) else s.elem a i),
        (.vpermIx d a b p z, fun i => pick (s.elem b i)),
        (.vpermBr d a p z, fun i => pick (reverseBits (ceilLog2 s.vl) i)),
        (.vslideUp d a n p z, fun i => if (s.g n).toNat ≤ i then s.elem a (i - (s.g n).toNat) else 0),
        (.vslideDn d a n p z, fun i => pick (i + (s.g n).toNat))],
      Free x.1 s → Completes x.1 s (s.putV d z (s.mapLanes p x.2)) none) ∧
    (Free (.vcompact d a p z) s →
      Completes (.vcompact d a p z) s (s.putV d z (s.lanes.map fun i => (chosen[i]?).map (s.elem a))) none) ∧
    (Free (.vexpand d a p z) s →
      Completes (.vexpand d a p z) s (s.putV d z (s.mapLanes p fun i => s.elem a ((s.lanes.filter fun j => decide (j < i) && s.active p j).length))) none) ∧
    (Free (.vscan d a e o p z) s →
      (reduceOp s.th.arch.vform s.mode o = none → Stops (.vscan d a e o p z) s s (.trap 0x01 (wordOf (.vscan d a e o p z)) 0) none) ∧
      (∀ op, reduceOp s.th.arch.vform s.mode o = some op → ∃ fl : FFlags,
        Completes (.vscan d a e o p z) s ((s.putV d z (s.mapLanes p fun i =>
          (s.treeElem op o (s.lanes.map fun j =>
            if s.active p j && (decide (j < i) || (decide (j = i) && decide (e = 0))) then some (s.elem a j) else none)).1)).orFlags fl) none ∧
        flagsOf s p fl fun i => (s.treeElem op o (s.lanes.map fun j =>
          if s.active p j && (decide (j < i) || (decide (j = i) && decide (e = 0))) then some (s.elem a j) else none)).2)) ∧
    (Free (.vred d a o p z) s →
      (reduceOp s.th.arch.vform s.mode o = none → Stops (.vred d a o p z) s s (.trap 0x01 (wordOf (.vred d a o p z)) 0) none) ∧
      (∀ op, reduceOp s.th.arch.vform s.mode o = some op →
        let r := s.treeElem op o (s.mapLanes p (s.elem a))
        Completes (.vred d a o p z) s ((s.putV d z (s.lanes.map fun i => if i = 0 then some r.1 else none)).orFlags r.2) none)) ∧
    (∀ f, Free (.vrng d n p z) s → formFmt s.th.arch.vform = f →
      Completes (.vrng d n p z) s (s.putV d z (s.mapLanes p fun i =>
        let r := (rng s.th.arch.rngkey (s.g n + BitVec.ofNat 64 i)).toNat
        match f with
        | some f => (f.round .rne .arithmetic false (r >>> (64 - f.prec)) (-(f.prec : Int)) false).1
        | none => r % 2 ^ s.w)) none)

namespace Sys2Proof.Claims
open Sys2Proof.Machine

/-! ### Vector memory -/

/-- The element loads with the address of each element (R201, R204, R222). -/
def loadForms (s : State) (d : BitVec 6) (b r : BitVec 5) (x : BitVec 6) (p : BitVec 3) (z n c : BitVec 1) :
    List (Instr × (Nat → BitVec 64)) :=
  let unit (k : Nat) : BitVec 64 := s.g b + BitVec.ofNat 64 (s.w / 8 * k)
  [ (.vld d b p z n, unit), (.vldf d b p z n, unit),
    (.vlds d b r p z n, fun k => s.g b + s.g r * BitVec.ofNat 64 k),
    (.vgath d b x p z c, fun k => s.g b + BitVec.ofInt 64 (signed s.w (s.elem x k) * (if c = 1 then (s.w / 8 : Nat) else 1))) ]

/-- The element stores with the address of each element (R201, R223). -/
def storeForms (s : State) (y : BitVec 6) (b r : BitVec 5) (x : BitVec 6) (p : BitVec 3) (z n c : BitVec 1) :
    List (Instr × (Nat → BitVec 64)) :=
  [ (.vst y b p z n, fun k => s.g b + BitVec.ofNat 64 (s.w / 8 * k)),
    (.vsts y b r p z n, fun k => s.g b + s.g r * BitVec.ofNat 64 k),
    (.vscat y b x p z c, fun k => s.g b + BitVec.ofInt 64 (signed s.w (s.elem x k) * (if c = 1 then (s.w / 8 : Nat) else 1))) ]

/-- The group that `vcgroup` names governs no access of the instruction: it governs those of VGATH, VSCAT, VSCADD and VRDST, and of
none where its field is 0 (R219 to R221). -/
def ungrouped (s : State) (i : Instr) : Prop :=
  (match i with
    | .vgath .. | .vscat .. | .vscadd .. | .vrdst .. => False
    | _ => True) ∨ s.th.arch.vcgroup.extractLsb' 0 5 = 0

/-- t is `base` with vn alone written: element k of lo ≤ k < hi takes its loaded value where it is active and else keeps its
value or, zeroing, becomes 0; every other element below `vcount` keeps its value (R178, R202, R203). -/
def loadedInto (s base t : State) (d : BitVec 6) (p : BitVec 3) (z : BitVec 1) (lo hi : Nat) (value : Nat → Nat) : Prop :=
  (∃ v q, t = { base with th := { base.th with arch := { base.th.arch with v := v }, poison := q } }) ∧
  (∀ k, k < s.vl → t.elem d k =
    if lo ≤ k ∧ k < hi then (if s.active p k then value k % 2 ^ s.w else if z = 1 then 0 else s.elem d k) else s.elem d k) ∧
  (∀ j, j ≠ physV s.th.arch.vrot d → t.th.arch.v[j] = s.th.arch.v[j])

/-- What governs a load of these units: nothing, or the word of the slot that `vsnow` names (R106). -/
def governedBy (s : State) (us : List MemUnit) (w : Option Snow) : Prop :=
  (s.th.arch.vsnow = 0 ∧ w = none) ∨ (us ≠ [] ∧ ∃ x y, w = some x ∧ s.readSnow us = .ok (some x, s.touching y))

/-- An element whose last governing byte lies at an address need not stall: it lies below the base, or the watermark exceeds
its index (R107). -/
def passes (w : Option Snow) (a : BitVec 64) : Prop :=
  ∀ x, w = some x → a.toNat < x.base.toNat ∨ (a.toNat - x.base.toNat) / 2 ^ x.esz < x.mark

/-- The record of a governed load (R377). -/
def snowItems (w : Option Snow) : List EventItem := (w.map Snow.item).toList

/-- What follows a load that has read everything: `vresume` clears on a tensor core, and its event, if it is one, waits for
its perform. -/
def loadDone (t : State) (w : Option Snow) : State :=
  if w.isNone then t.clearResume else t.clearResume.deferEvent (snowItems w)

/-- Memory after the units of a store have been written in ascending order, each over the spans that it checks when its
turn comes. -/
def storedMemory (bytes : MemUnit → List (BitVec 8)) : State → List MemUnit → List Host.Cell → List Host.Cell
  | _, [], m => m
  | s, (i, a, n) :: t, m =>
    match s.checkC a n false true true i with
    | .error _ => m
    | .ok sp => storedMemory bytes (s.storeSpans a sp (bytes (i, a, n))) t (spansWritten m sp (bytes (i, a, n)))
where
  /-- Bytes written over spans. -/
  spansWritten : List Host.Cell → List Span → List (BitVec 8) → List Host.Cell
    | m, [], _ => m
    | m, sp :: t, bs => spansWritten (writeCells m sp.key (bs.take sp.len)) t (bs.drop sp.len)

end Sys2Proof.Claims

/-! ### Vector memory -/

/-- VLD, VLDS, VLDF and VGATH complete when no active element from `vresume` on has to stall and each passes its checks: each
takes the value at its address, no other register changes, and SNOWLINE_RELEASE completes a load that stalled in the same
way (R107, R201 to R204, R222). -/
def Sys2Proof.Claims.VectorLoadsComplete : Prop :=
  ∀ (s : State) (d : BitVec 6) (b r : BitVec 5) (x : BitVec 6) (p : BitVec 3) (z n c : BitVec 1) (w : Option Snow),
    settled s → s.vl * s.w ≤ 2048 → ∀ e ∈ loadForms s d b r x p z n c, ungrouped s e.1 → Free e.1 s → governedBy s (s.todo (s.units e.1)) w →
      (w ≠ none → s.allowEvent (snowItems w) = .ok ()) →
      (∀ k, s.resumeUnit ≤ k → s.active p k = true →
        passes w (e.2 k) ∧ ∃ sp, s.checkC (e.2 k) (s.w / 8) true false true k = .ok sp) →
      ∃ t value, loadedInto s s.countStall t d p z s.resumeUnit s.vl value ∧
        (∀ k sp, s.checkC (e.2 k) (s.w / 8) true false true k = .ok sp → value k = wordAt s sp) ∧
        Completes e.1 s (loadDone t w) none ∧
        (waitsAt s .snowline e.1 → RowCompletes .snowlineRelease e.1 s (loadDone t w))

/-- The lowest active element that has to stall or fails its checks stops VLD, VLDS, VLDF and VGATH, with a wait for the
snowline or the failure. On a vector core nothing of the instruction remains; on a tensor core the elements below it are
loaded and `vresume` names it. VLDF completes instead, with `vcount` trimmed to the element, when the failure is one of
translation or permission and the element is not its first (R107, R202 to R204). -/
def Sys2Proof.Claims.VectorLoadsStop : Prop :=
  ∀ (s : State) (d : BitVec 6) (b r : BitVec 5) (x : BitVec 6) (p : BitVec 3) (z n c : BitVec 1) (w : Option Snow) (k : Nat) (t : Trouble),
    settled s → s.vl * s.w ≤ 2048 → s.resumeUnit ≤ k → s.active p k = true →
    ∀ e ∈ loadForms s d b r x p z n c, ungrouped s e.1 → Free e.1 s → governedBy s (s.todo (s.units e.1)) w →
      (∀ j, s.resumeUnit ≤ j → j < k → s.active p j = true →
        passes w (e.2 j) ∧ ∃ sp, s.checkC (e.2 j) (s.w / 8) true false true j = .ok sp) →
      (¬passes w (e.2 k) ∧ t = .wait .snowline ∨ passes w (e.2 k) ∧ s.checkC (e.2 k) (s.w / 8) true false true k = .error t) →
      let trims := e.1 = .vldf d b p z n ∧ (∃ j, j < k ∧ s.active p j = true) ∧ ∃ a b w f g, t = .fail a b w f g
      (¬trims → s.th.cls ≠ .tensor → Stops e.1 s s t (some k)) ∧
      (¬trims → s.th.cls = .tensor → ∃ u value, loadedInto s s u d p z s.resumeUnit k value ∧
        (∀ j sp, s.checkC (e.2 j) (s.w / 8) true false true j = .ok sp → value j = wordAt s sp) ∧
        Stops e.1 s (u.setResume k) t (some k)) ∧
      (trims → (w ≠ none → s.allowEvent (snowItems w) = .ok ()) → ∃ u, Completes e.1 s u none ∧ u.vl = k ∧
        ∀ j sp, s.resumeUnit ≤ j → j < k → s.active p j = true → s.checkC (e.2 j) (s.w / 8) true false true j = .ok sp →
          u.elem d j = wordAt s sp % 2 ^ s.w)

/-- Vector loads complete with the elements loaded, or stop at one. -/
def Obligations.VectorLoads : Prop :=
  Sys2Proof.Claims.VectorLoadsComplete ∧ Sys2Proof.Claims.VectorLoadsStop


/-- VLDSEG loads each active segment's element bytes and its scale byte, and VSTSEG writes every active segment of 192 bits or
more with its padding zeroed; both are illegal where the grant holds no segment (R228 to R230). -/
def Obligations.SegmentsMove : Prop :=
  ∀ (s : State) (d : BitVec 6) (b t : BitVec 5) (p : BitVec 3) (z : BitVec 1) (w : Option Snow),
    let eb := (segBytes t).1
    let size := (segBytes t).2
    let count := segCount s.th.lgG t
    let at' (k : Nat) : BitVec 64 := s.g b + BitVec.ofNat 64 (size * k)
    let active (k : Nat) : Prop := k < count ∧ (s.pReg p).testBit k = true
    (∀ i ∈ [Instr.vldseg d b t p z, .vstseg d b t p z], Free i s → count = 0 → Stops i s s (.trap 0x01 (wordOf i) 0) none) ∧
    (Free (.vldseg d b t p z) s → count ≠ 0 → settled s → s.th.lgG ≤ 11 →
      governedBy s (s.todo (s.units (.vldseg d b t p z))) w → (w ≠ none → s.allowEvent (snowItems w) = .ok ()) →
      (∀ k, s.resumeUnit ≤ k → active k → passes w (at' k + BitVec.ofNat 64 (size - 1)) ∧
        ∃ sp, s.checkC (at' k) size true false true k = .ok sp) →
      ∃ u : State, Completes (.vldseg d b t p z) s (loadDone u w) none ∧
        (waitsAt s .snowline (.vldseg d b t p z) → RowCompletes .snowlineRelease (.vldseg d b t p z) s (loadDone u w)) ∧
        (∀ k sp, s.resumeUnit ≤ k → active k → s.checkC (at' k) size true false true k = .ok sp →
          bitsOf (u.vReg d) (k * (8 * eb)) (8 * eb) = wordAt s sp % 2 ^ (8 * eb) ∧
          bitsOf (u.vReg (d + 1)) (8 * k) 8 = wordAt s sp >>> (8 * eb) % 2 ^ 8)) ∧
    (Free (.vstseg d b t p z) s → count ≠ 0 →
      let us := s.units (.vstseg d b t p z)
      s.segmentPoison d t (s.todo us) = none →
      (storeUnits 3 (s.segmentBytes d t) s (s.todo us)).2.2 = none → s.anyOnL us = false →
      ∃ u : State, Completes (.vstseg d b t p z) s u.clearResume none ∧
        u.mem = storedMemory (s.segmentBytes d t) s (s.todo us) s.mem)

/-- The segments still to be stored pass: each one's checks do in its turn, with those before it stored. -/
def Sys2Proof.Claims.storesPass (bytes : MemUnit → List (BitVec 8)) : State → List MemUnit → Prop
  | _, [] => True
  | s, u :: rest => ∃ sp, s.checkC u.2.1 u.2.2 false true true u.1 = .ok sp ∧ storesPass bytes (s.storeSpans u.2.1 sp (bytes u)) rest

/-- VLDSEG and VSTSEG complete, with control passing on, wherever the grant holds a segment (R228). An ungoverned VLDSEG does when each active segment from
`vresume` on passes its checks (R230); VSTSEG when each passes in its turn, no word that it reads is poisoned (R345), and, but
at supervisor level, none lies on a log-all page, where its event may wait for the ring (R383). -/
def Obligations.SegmentsComplete : Prop :=
  ∀ (s : State) (d : BitVec 6) (b t : BitVec 5) (p : BitVec 3) (z : BitVec 1), segCount s.th.lgG t ≠ 0 →
    (Free (.vldseg d b t p z) s → s.th.arch.vsnow = 0 →
      (∀ u ∈ s.todo (s.units (.vldseg d b t p z)), ∃ sp, s.checkC u.2.1 u.2.2 true false true u.1 = .ok sp) →
      ∃ u, Completes (.vldseg d b t p z) s u none) ∧
    (Free (.vstseg d b t p z) s → s.segmentPoison d t (s.todo (s.units (.vstseg d b t p z))) = none →
      storesPass (s.segmentBytes d t) s (s.todo (s.units (.vstseg d b t p z))) →
      (s.th.sup.level = true ∨ s.anyOnL (s.units (.vstseg d b t p z)) = false) →
      ∃ u, Completes (.vstseg d b t p z) s u none)

/-- VST, VSTS and VSCAT complete where every active element's checks pass in turn, and memory then holds the elements at
their addresses, written in ascending order, and nothing else; the elements are counted as one event where they touch a
log-all page. The first element that fails stops them: on a vector core nothing is written, on a tensor core the elements
below stay and `vresume` names it (R201 to R203, R223, R301). -/
def Obligations.VectorStoresComplete : Prop :=
  ∀ (s : State) (y : BitVec 6) (b r : BitVec 5) (x : BitVec 6) (p : BitVec 3) (z n c : BitVec 1),
    ∀ e ∈ storeForms s y b r x p z n c, ungrouped s e.1 → Free e.1 s →
      let us := s.units e.1
      let out := storeUnits 1 (s.elemBytes y) s (s.todo us)
      us = ((s.lanes.filter fun k => s.active p k).map fun k => (k, e.2 k, s.w / 8)) ∧
      (out.2.2 = none → s.anyOnL us = false ∨ s.allowEvent out.2.1 = .ok () →
        ∃ t : State, Completes e.1 s (if s.anyOnL us then t.commitNow out.2.1 else t).clearResume none ∧
          t.mem = storedMemory (s.elemBytes y) s (s.todo us) s.mem) ∧
      (∀ k u, out.2.2 = some (k, u) → s.th.cls ≠ .tensor → Stops e.1 s s u (some k)) ∧
      (∀ k u, out.2.2 = some (k, u) → s.th.cls = .tensor → s.allowEvent out.2.1 true = .ok () →
        ∃ t : State, Stops e.1 s ((t.commitPart out.2.1).setResume k) u (some k) ∧
          t.mem = storedMemory (s.elemBytes y) s (s.todo us) s.mem)

/-- VGATH and VSCAT over a group (R219 to R223): a group, a stride or a format that R220 refuses traps. Otherwise the parts of the
active elements that this package owns are loaded or stored here, in order, where each passes its checks, and each of the others leaves
as one read or write to its owner; the instruction completes at once. -/
def Sys2Proof.Claims.GroupedAccesses : Prop :=
  ∀ (s : State) (d : BitVec 6) (b : BitVec 5) (x : BitVec 6) (p : BitVec 3) (z c : BitVec 1), s.th.arch.vcgroup.extractLsb' 0 5 ≠ 0 →
    (∀ i ∈ [Instr.vgath d b x p z c, .vscat d b x p z c], Free i s → ∀ t, s.groupTrap i false = some t → Stops i s s t none) ∧
    (let i := Instr.vgath d b x p z c
     let split := s.splitOwners (s.todo (s.units i))
     Free i s → s.groupTrap i false = none → settled s → s.vl * s.w ≤ 2048 →
     (∀ u ∈ split.1, ∃ sp, s.checkC u.2.1 u.2.2 true false true u.1 = .ok sp) →
     ∃ t, Completes i s t none ∧ SameMemory s t ∧
       t.remote = s.remote ++ split.2.map (fun u => s.awayElem u.2 u.1 15 0 split.2.length none) ∧
       t.th.remoteOut = s.th.remoteOut + split.2.length ∧
       ∀ k, s.resumeUnit ≤ k → k < s.vl →
         let a := s.g b + BitVec.ofInt 64 (signed s.w (s.elem x k) * (if c = 1 then (s.w / 8 : Nat) else 1))
         (s.active p k = false → t.elem d k = if z = 1 then 0 else s.elem d k) ∧
         (∀ sp, s.active p k = true → (∀ j, j < s.w / 8 → s.ownerOf (a + BitVec.ofNat 64 j) = none) →
           s.checkC a (s.w / 8) true false true k = .ok sp → t.elem d k = wordAt s sp % 2 ^ s.w)) ∧
    (let i := Instr.vscat d b x p z c
     let us := s.todo (s.units i)
     let split := s.splitOwners us
     let bytes (u : MemUnit) : List (BitVec 8) := leBytes u.2.2 (s.elem d u.1 >>> partShift us u % 2 ^ (8 * u.2.2))
     Free i s → s.groupTrap i false = none → (storeUnits 1 bytes s (s.todo split.1)).2.2 = none → s.anyOnL split.1 = false →
     ∃ t, Completes i s t none ∧ t.mem = storedMemory bytes s (s.todo split.1) s.mem ∧
       t.remote = s.remote ++ split.2.map (fun u => s.awayElem u.2 u.1 14 (s.elem d u.1.1 >>> partShift us u.1 % 2 ^ (8 * u.1.2.2)) split.2.length none) ∧
       t.th.remoteOut = s.th.remoteOut + split.2.length)

/-- VSCADD and VRDST (R219 to R221, R224 to R226): illegal when the format of `vcop` is not `vform`, or its operator is a bitwise one
over a floating-point format, and refused where R220 refuses their group. Otherwise every active element of this package is checked
first; the lowest that fails stops the instruction with nothing sent; when all pass, all leave for their homes, and those that another
package owns for it, in one instruction that completes at once and writes nothing here. -/
def Sys2Proof.Claims.RemoteUpdatesLeave : Prop :=
  ∀ (s : State) (y : BitVec 6) (b r : BitVec 5) (x : BitVec 6) (p : BitVec 3) (z c : BitVec 1),
    ∀ e ∈ [(Instr.vscadd y b x p z c, fun (k : Nat) =>
          s.g b + BitVec.ofInt 64 (signed s.w (s.elem x k) * (if c = 1 then (s.w / 8 : Nat) else 1)), (none : Option (BitVec 16))),
        (.vrdst y b r p z, fun k => s.g b + BitVec.ofNat 64 (s.w / 8 * k), some ((s.g r).setWidth 16))], Free e.1 s →
      let us := (s.lanes.filter fun k => s.active p k).map fun k => (k, e.2.1 k, s.w / 8)
      let here := us.filter fun u => (s.ownerOf u.2.1).isNone
      let away := us.filterMap fun u => (s.ownerOf u.2.1).map fun o => (u, o)
      let op := (s.th.arch.vcop.extractLsb' 0 4).toNat
      let bad := s.th.arch.vcop.extractLsb' 4 4 ≠ s.th.arch.vform ∨ (3 ≤ op ∧ (formFmt s.th.arch.vform).isSome = true)
      (bad → Stops e.1 s s (.trap 0x01 (wordOf e.1) 0) none) ∧
      (s.th.arch.vcgroup.extractLsb' 0 5 = 0 → here = us ∧ away = [] ∧ (¬bad → s.groupTrap e.1 true = none)) ∧
      (∀ t, s.groupTrap e.1 true = some t → Stops e.1 s s t none) ∧
      (∀ k u, s.groupTrap e.1 true = none → s.checkUnitsR here = .error (k, u) →
        Stops e.1 s (if s.th.cls = .tensor then s.setResume k else s) u (some k)) ∧
      (∀ checked, s.groupTrap e.1 true = none → s.checkUnitsR here = .ok checked →
        (us ≠ [] → s.allowEvent (checked.map fun q => remoteItem e.2.2 q.1 q.2 (s.elem y q.1.1)) (k := 0) = .ok ()) →
        ∃ es : List RemoteElem,
          es.map (fun q => (q.index, q.va, q.bytes, q.op, q.fmt, q.value, q.tag, q.handle, q.verdict)) =
            (here ++ away.map (·.1)).map (fun u => (u.1, u.2.1, u.2.2, BitVec.ofNat 4 op, s.th.arch.vform, s.elem y u.1, e.2.2, s.th.handle, none)) ∧
          (∀ q ∈ es.drop here.length, q.home = 15) ∧
          Completes e.1 s (if us = [] then (s.send es).clearResume else (s.send es).clearResume.commitNow []) none)

/-- HOME_COMBINE (R224, R227): the home of an element applies it when nothing before it on the same bytes and no turn of the
log holds it back: the bytes take the operator's value of the old number and the operand. A tag of 1 to 32,767 ahead of
the latest is applied and becomes the latest; one within the last 4,096 is applied and marked, or dropped if it is marked
already; an older one is applied. -/
def Sys2Proof.Claims.HomesApplyUpdates : Prop :=
  (∀ (s : State) (n : Nat), s.ev = .index n →
    exec .homeCombine s = .next (if s.combineMay n then s.combine n else s)) ∧
  (∀ (s : State) (n : Nat) (e : RemoteElem), s.remote[n]? = some e → e.tag = none →
    (∀ l, s.launchOf? e.handle = some l → l.acts = 0) →
    let sp := e.runs.map fun x => ({ key := x.1, len := x.2, leaf := 0 } : Span)
    (s.combine n).mem = storedMemory.spansWritten s.mem sp (leBytes e.bytes (combineResult e.op e.fmt (8 * e.bytes) (wordAt s sp) e.value))) ∧
  (∀ (op fmt : BitVec 4) (w old x : Nat), formFmt fmt = none →
    let less (a b : Nat) : Bool := if formSigned fmt then decide (signed w a < signed w b) else decide (a < b)
    (op = 0 → combineResult op fmt w old x = (old + x) % 2 ^ w) ∧
    (op = 1 → combineResult op fmt w old x = if less x old then x else old) ∧
    (op = 2 → combineResult op fmt w old x = if less old x then x else old) ∧
    (op = 3 → combineResult op fmt w old x = old &&& x) ∧ (op = 4 → combineResult op fmt w old x = old ||| x) ∧
    (op = 5 → combineResult op fmt w old x = old ^^^ x)) ∧
  (∀ (op fmt : BitVec 4) (f : Fmt) (w old x : Nat), formFmt fmt = some f →
    (op = 0 → combineResult op fmt w old x = (fpAdd f .rne old x).1) ∧
    (op = 1 → combineResult op fmt w old x = (fpMinMax f false old x).1) ∧
    (op = 2 → combineResult op fmt w old x = (fpMinMax f true old x).1)) ∧
  (∀ (t : TagState) (tag : BitVec 16),
    let ahead := (tag - t.latest).toNat
    let behind := (t.latest - tag).toNat
    (1 ≤ ahead → ahead ≤ 32767 → (t.judge tag).1 = true ∧ (t.judge tag).2.2.latest = tag ∧ (t.judge tag).2.2.marks.getLsbD 0 = true ∧
      ∀ k, k + ahead < 4096 → (t.judge tag).2.2.marks.getLsbD (k + ahead) = t.marks.getLsbD k) ∧
    (behind < 4096 → (t.marks.getLsbD behind = true → t.judge tag = (false, some 0x08, t)) ∧
      (t.marks.getLsbD behind = false → (t.judge tag).1 = true ∧ (t.judge tag).2.2.latest = t.latest ∧
        (t.judge tag).2.2.marks.getLsbD behind = true)) ∧
    (4096 ≤ behind → 32767 < ahead → t.judge tag = (true, some 0x10, t)))

/-- Accesses over a group leave for their owners; remote updates leave their instruction, and their homes apply them. -/
def Obligations.RemoteUpdates : Prop :=
  Sys2Proof.Claims.GroupedAccesses ∧ Sys2Proof.Claims.RemoteUpdatesLeave ∧ Sys2Proof.Claims.HomesApplyUpdates

namespace Sys2Proof.Claims
open Sys2Proof.Machine

/-! ### Group T -/

/-- The T forms with their accumulator access and what their checks and staging answer (R231, R239 to R242, R249 to R255). -/
def tileForms (s : State) (w c : BitVec 3) (a b x : BitVec 5) (v : BitVec 6) :
    List (Instr × Option (BitVec 3 × Nat) × Except Trouble (State × RunOp)) :=
  let kind := if s.th.arch.tfa = 8 then 1 else 0
  [ (.tmma w c a b, some (c, kind), prepareMul (.tmma w c a b) w c s),
    (.tmmagM w c a b v, some (c, kind), prepareMul (.tmmagM w c a b v) w c s),
    (.tmmagK w c a b v, some (c, 0), prepareMul (.tmmagK w c a b v) w c s),
    (.tmmas w c a b, some (c, 0), prepareMul (.tmmas w c a b) w c s),
    (.tzero w c, some (c, 4), prepareZero (.tzero w c) w c s),
    (.tadda w c a, some (c, 2), prepareAdda (.tadda w c a) w c (s.g a) s),
    (.tacc w c a b, some (c, 3), prepareAcc (.tacc w c a b) w c (s.g a) (s.g b) s),
    (.tdec w a b, none, prepareDec (.tdec w a b) (s.g a) (s.g b) s),
    (.ttrn w a b, none, prepareTrn (.ttrn w a b) (s.g a) (s.g b) s),
    (.tcmp w a b, none, prepareCmp (.tcmp w a b) (s.g a) (s.g b) s),
    (.tload w a b x, none, prepareTransfer (.tload w a b x) true (s.g a) (s.g b) (s.g x) s),
    (.tstore w a b x, none, prepareTransfer (.tstore w a b x) false (s.g a) (s.g b) (s.g x) s) ]

/-- The wait count is met and the unit is free: 16 core cycles for each unit of the count have passed since the thread's last
T or X instruction, and no thread of the core runs one on the unit (R231, R243, R244). One that starts from `tresume` also
waits for another that was resumed at a row above 0 and clears it at its end (DEDUCED, log 74). -/
def mayStart (s : State) (w : BitVec 3) (i : Instr) : Prop :=
  (∀ t, s.th.lastTX = some t → t + 16 * w.toNat ≤ s.coreCycle) ∧
  (∀ t ∈ s.threads, t.core = s.th.core → ∀ r ∈ t.runs, tileUnit r.instr ≠ tileUnit i) ∧
  (samplesRow i = true → ∀ r ∈ s.th.runs, samplesRow r.instr = true → r.first = 0)

/-- The state in which an instruction has begun to run. -/
def started (s : State) (w : BitVec 3) (own : Option (BitVec 3 × Nat)) (r : RunOp) : State :=
  { s with th :=
    { s.th with lastTX := some s.coreCycle, promises := nextPromises s.th.promises w own, runs := s.th.runs ++ [r] } }

/-- Values that stand in memory at addresses, n bytes each. -/
def standsAt (s : State) (n : Nat) (as : List (BitVec 64)) (vs : List Nat) : Prop :=
  vs.length = as.length ∧
  ∀ (i : Nat) (a : BitVec 64) (v : Nat), as[i]? = some a → vs[i]? = some v → ∃ sp, s.checkC a n true false false = .ok sp ∧ v = wordAt s sp

/-- Addresses of rows lo to 31 at `tstr` from a base. -/
def rowsFrom (s : State) (base : BitVec 64) (lo : Nat) : List (BitVec 64) :=
  (List.range (32 - lo)).map fun i => base + BitVec.ofNat 64 ((lo + i) * s.th.arch.tstr.toNat)

end Sys2Proof.Claims

/-! ### Group T -/

/-- A T instruction waits until its wait count is met and its unit is free; then its checks and its staging either stop it
without effect or start it, and it completes at once while it runs on, unless it would write bytes that an earlier one of
its thread has yet to write (R231, R234, R243, R244, R247). -/
def Sys2Proof.Claims.TensorInstructionsStart : Prop :=
  ∀ (s : State) (w c : BitVec 3) (a b x : BitVec 5) (v : BitVec 6),
    ∀ e ∈ tileForms s w c a b x v, Free e.1 s →
      (¬mayStart s w e.1 → Stops e.1 s s (.wait .unit) none) ∧
      (∀ t, mayStart s w e.1 → e.2.2 = .error t → Stops e.1 s s t none) ∧
      (∀ s1 r, mayStart s w e.1 → e.2.2 = .ok (s1, r) →
        (s.writesWait r = false → Completes e.1 s (started s1 w e.2.1 r) none) ∧
        (s.writesWait r = true → Stops e.1 s s (.wait .unit) none))

/-- What the checks of the T forms demand and what their staging takes (R233, R234, R238 to R255): the operands as memory
holds them at issue; a `tstr` that is no multiple of 64 is an illegal tensor combination; with `tchk` set, TZERO's promise
must reach its separation from every earlier access to the tile, and the latest that it does not reach is reported (R245,
R246; the choice among several is DEDUCED, log 72). -/
def Sys2Proof.Claims.TensorChecksAndStaging : Prop :=
  ∀ (s : State) (w c : BitVec 3) (a b x : BitVec 5) (v : BitVec 6),
    let short (q : BitVec 3 × Nat × Nat) : Prop := q.1 = c ∧ q.2.2 + 16 * w.toNat < (if q.2.1 = 0 then 64 else if q.2.1 = 1 then 128 else 0)
    settled s → s.th.poison.v = Vector.replicate 64 0 →
    (s.th.arch.tstr.toNat % 64 ≠ 0 →
      ∀ e ∈ tileForms s w c a b x v, e.1 ≠ .tzero w c → e.1 ≠ .tacc w c a b → e.2.2 = .error (.trap 0x09 (wordOf e.1) 0)) ∧
    (tilePair s.th.arch.tfa s.th.arch.tfb = none → ∀ i ∈ [Instr.tmma w c a b, .tmmas w c a b, .tmmagM w c a b v, .tmmagK w c a b v],
      prepareMul i w c s = .error (.trap 0x09 (wordOf i) 0)) ∧
    (s.th.arch.tchk = 0 ∨ (∀ q ∈ s.th.promises, ¬short q) →
      prepareZero (.tzero w c) w c s = .ok (s, { s.newRun (.tzero w c) with readRow := 32 })) ∧
    (∀ before q rest, s.th.arch.tchk ≠ 0 → s.th.promises = before ++ q :: rest → (∀ p ∈ before, ¬short p) → short q →
      prepareZero (.tzero w c) w c s =
        .error (.trap 0x08 (BitVec.ofNat 64 (q.2.2 + 16 * w.toNat + (if q.2.1 = 0 then 64 else 128) * 65536)) 0)) ∧
    (∀ s1 r, prepareMul (.tmma w c a b) w c s = .ok (s1, r) →
      (∃ z, s1 = s.touching z) ∧
      r.first = s.th.arch.tresume.toNat ∧ r.issue = s.coreCycle ∧ r.fa = s.th.arch.tfa ∧ r.fb = s.th.arch.tfb ∧
      standsAt s 256 (rowsFrom s (s.g a) r.first) r.a) ∧
    (∀ s1 r, prepareMul (.tmmagM w c a b v) w c s = .ok (s1, r) →
      standsAt s 256 ((List.range (32 - r.first)).map fun i =>
        s.g a + BitVec.ofNat 64 (bitsOf (s.vReg v) (16 * (r.first + i)) 16 * s.th.arch.tstr.toNat)) r.a) ∧
    (∀ s1 r, prepareMul (.tmmas w c a b) w c s = .ok (s1, r) →
      ∃ k n, tilePair s.th.arch.tfa s.th.arch.tfb = some (k, n) ∧ standsAt s 256 (rowsFrom s (s.g a) r.first) r.a ∧
        standsAt s (2 * k / 8) ((List.range (32 - r.first)).map fun i =>
          va56 s.th.arch.tma + BitVec.ofNat 64 ((r.first + i) * (2 * k / 8))) r.meta_) ∧
    (∀ s1 r, prepareAdda (.tadda w c a) w c (s.g a) s = .ok (s1, r) → (∃ z, s1 = s.touching z) ∧ standsAt s 128 (rowsFrom s (s.g a) 0) r.a) ∧
    (∀ s1 r, prepareTransfer (.tstore w a b x) false (s.g a) (s.g b) (s.g x) s = .ok (s1, r) →
      r.row = s.th.arch.tresume.toNat ∧ standsAt s 256 (rowsFrom s (s.g a) r.row) r.a) ∧
    (∀ (f : BitVec 4) (rows : List Nat) (i j : Nat), i < rows.length →
      tileElem (transposeRow f rows j) (tileWidth f) i = storedElem f (tileElem (rows.getD i 0) (tileWidth f) j) ∧
      (f = 2 ∨ f = 3 → tileElem (transposeRow f rows j) (tileWidth f) i < 64)) ∧
    (∀ s1 r, prepareTrn (.ttrn w a b) (s.g a) (s.g b) s = .ok (s1, r) →
      ∃ rows, standsAt s (4 * tileWidth s.th.arch.tfa) (rowsFrom s (s.g b) 0) rows ∧
        r.vals = (List.range 32).map (transposeRow s.th.arch.tfa rows))

/-- T instructions start, or are stopped by their checks and their staging. -/
def Obligations.TensorStart : Prop :=
  Sys2Proof.Claims.TensorInstructionsStart ∧ Sys2Proof.Claims.TensorChecksAndStaging


/-- ACCUMULATOR_ROW_ACCESS makes the earliest access of the thread's running instructions once its cycle has passed (R244,
R246): TZERO clears its tile; a multiply and TADDA read a row at the start of a cycle and write it at the end of a later
one, and only that row of that tile changes. Each element takes the sum with its own row and column (R239 to R241, R249,
R250). -/
def Obligations.AccumulatorRowsChange : Prop :=
  (∀ (s : State) (n time : Nat) (r : RunOp), s.th.nextRun = some (n, time) → s.th.runs[n]? = some r →
    (s.coreCycle ≤ time / 2 → exec .accumulatorRowAccess s = .next s) ∧
    (time / 2 < s.coreCycle → ∃ t, exec .accumulatorRowAccess s = .next t ∧
      ((∀ w c a b, r.instr ≠ .tacc w c a b) → SameMemory s t) ∧
      (∀ w c, r.instr = .tzero w c → t.th.arch.acc = s.th.arch.acc.set c.toNat 0 ∧
        ∃ r', t.th.runs = s.th.runs.set n r' ∧ r'.row = 32) ∧
      (∀ w c a b, r.instr = .tacc w c a b → r.writes[32 + r.readRow]? = none → t.th.arch = s.th.arch ∧
        let row := (accRow s.th.arch.acc[c.toNat] r.readRow).toNat
        let out := accDeliver r.desc ((List.range 32).map fun j => accValue r.desc (bitsOf row (32 * j) 32) (r.bias.getD j 0))
        let place := r.writes.getD r.readRow (0, 0)
        t.mem = writeCells s.mem place.1 (leBytes place.2 (packRow ((accWidth (bitsOf r.desc 0 8)).getD 8) out.1))) ∧
      ((isMultiply r.instr = true ∨ ∃ w c a, r.instr = .tadda w c a) →
        (time % 2 = 0 → t.th.arch = s.th.arch ∧ ∃ r', t.th.runs = s.th.runs.set n r' ∧
          r'.latch = r.latch ++ [(r.readRow, r.compute r.readRow (accRow s.th.arch.acc[(tileOf r.instr).toNat] r.readRow))]) ∧
        (∀ i v rest, time % 2 = 1 → r.latch = (i, v) :: rest → i < 32 →
          accRow t.th.arch.acc[(tileOf r.instr).toNat] i = v ∧
          (∀ j, j < 32 → j ≠ i → accRow t.th.arch.acc[(tileOf r.instr).toNat] j = accRow s.th.arch.acc[(tileOf r.instr).toNat] j) ∧
          (∀ k : Fin 8, k.val ≠ (tileOf r.instr).toNat → t.th.arch.acc[k] = s.th.arch.acc[k]))))) ∧
  (∀ (r : RunOp) (i j : Nat) (row : BitVec 1024), j < 32 →
    (∀ w c a, r.instr = .tadda w c a → bitsOf (r.compute i row).toNat (32 * j) 32 =
      if r.fa = 7 then (bitsOf row.toNat (32 * j) 32 + bitsOf (r.a.getD i 0) (32 * j) 32) % 2 ^ 32
      else (fpAdd .f32 .rne (bitsOf row.toNat (32 * j) 32) (bitsOf (r.a.getD i 0) (32 * j) 32)).1 % 2 ^ 32) ∧
    (isMultiply r.instr = true → bitsOf (r.compute i row).toNat (32 * j) 32 =
      r.dot (r.aValues i) i j (bitsOf row.toNat (32 * j) 32) % 2 ^ 32)) ∧
  (∀ (r : RunOp) (i j old : Nat) (av : List FVal), r.fa = 7 → r.fb = 7 →
    r.dot av i j old = wrapInt 32 (av.zipIdx.foldl (fun (acc : Int) x =>
      acc + x.1.asInt * (r.bValue j (r.pairOf i x.2)).asInt) (signed 32 old)))

/-- TILE_ROW_TRANSFER moves the next row of a TLOAD or TSTORE: TLOAD the 256 bytes at its memory address into its névé row, TSTORE
the staged row to memory; a row that has not been checked ahead and fails stops the instruction, which has not retired, with
`tresume` naming it, once no earlier T instruction runs; a store's row waits for a line that
another requester holds, and its log-all records for ring space or their turn (R247, R248, R253, R369, R377, R383). TENSOR_COMPLETE frees the unit of the first T
instruction that is over; one that writes the névé at its end has written it then, and one that starts from `tresume` leaves
it clear (R240, R247). -/
def Obligations.TileRowsMove : Prop :=
  (∀ (s : State) (r : RunOp), s.th.transferring = some r → r.row < 32 →
    let a := r.mem + BitVec.ofNat 64 r.row * r.memStride
    let s0 := s.setTransfer none
    let check := s0.checkC a 256 r.loads (!r.loads) (!r.skip) r.row
    let unchecked := r.ahead.bind List.head? = none
    let moved : List RunOp := s.th.runs.map fun x => if x = r then { r with row := r.row + 1, ahead := r.ahead.map List.tail } else x
    (∀ sp, (unchecked ∧ check = .ok sp) ∨ 
        (∃ l, r.ahead.bind List.head? = some l ∧ sp = spansOfRuns l ∧ (r.loads = true ∨ s0.missingLine sp = none)) →
      (r.loads = true → settled s → (r.writes.getD r.row (0, 0)).2 = 256 →
        ∃ t, exec .tileRowTransfer s = .next t ∧ t.th.runs = moved ∧ t.th.arch = s.th.arch ∧
          t.mem = writeCells s.mem (r.writes.getD r.row (0, 0)).1 (leBytes 256 (wordAt s sp))) ∧
      (r.loads = false → lSectors sp a = [] → s0.allowEvent [] true = .ok () →
        ∃ t, exec .tileRowTransfer s = .next t ∧ t.th.runs = moved ∧ t.th.arch = s.th.arch ∧
          t.mem = storedMemory.spansWritten s.mem sp (leBytes 256 (r.a.getD (r.row - r.first) 0))) ∧
      (r.loads = false →
        let dup := s.th.debugActs && (s.th.dbg.watch a 256 false true).isSome
        let items := sectorItems s0 (s0.putRun r sp dup (leBytes 256 (r.a.getD (r.row - r.first) 0))) sp a s.th.tileSectors
        (s0.allowEvent items true = .ok () → ∃ t, exec .tileRowTransfer s = .next t ∧ t.th.runs = moved ∧ t.th.arch = s.th.arch ∧
          t.th.tileSectors = s.th.tileSectors + items.length) ∧
        (∀ k, s0.allowEvent items true = .error (.wait k) → (∀ l, k ≠ .home l) → exec .tileRowTransfer s = .next s))) ∧
    (∀ l k, r.loads = false → r.ahead.bind List.head? = some l → s0.missingLine (spansOfRuns l) = some k →
      exec .tileRowTransfer s = .next (s.touchLine k)) ∧
    (∀ t, unchecked → check = .error t →
      (∀ k, t = .wait (.home k) → exec .tileRowTransfer s = .next (s.touchLine k)) ∧
      ((∃ k, t = .wait k ∧ ∀ l, k ≠ .home l) ∨ ((∀ k, t ≠ .wait k) ∧ 1 < s.th.runs.length) → exec .tileRowTransfer s = .next s) ∧
      ((∀ k, t ≠ .wait k) → s.th.runs = [r] →
        exec .tileRowTransfer s = (s.cutRun r).stop r.instr t (some r.row) ∧
        (s.cutRun r).th.arch.tresume = BitVec.ofNat 5 r.row ∧ (s.cutRun r).th.arch.pc = r.pc ∧ (s.cutRun r).th.arch.retired = r.before ∧
        (s.cutRun r).th.runs = []))) ∧
  (∀ (s : State) (r : RunOp), s.th.runs.find? (fun q => s.runOver q) = some r →
    ∃ t, exec .tensorComplete s = .next t ∧ t.th.runs = s.th.runs.erase r ∧
      (isTransfer r.instr = false →
        t.th.arch = (if isMultiply r.instr then { s.th.arch with tresume := 0 } else s.th.arch) ∧
        t.mem = (r.writes.zip r.vals).foldl (fun m x => writeCells m x.1.1 (leBytes x.1.2 x.2)) s.mem) ∧
      (isTransfer r.instr = true → t.mem = s.mem ∧ t.th.arch.tresume = 0 ∧
        (s.th.tileSectors = 0 → t.th.arch = { s.th.arch with tresume := 0 }))) ∧
  (∀ s : State, (∀ q ∈ s.th.runs, s.runOver q = false) → exec .tensorComplete s = .next s)

namespace Sys2Proof.Claims
open Sys2Proof.Machine

/-- The X-group wait count is met (R244, R267). -/
def paceMet (s : State) (w : BitVec 3) : Prop := ∀ t, s.th.lastTX = some t → t + 16 * w.toNat ≤ s.coreCycle

/-- The state that the issue of an X instruction leaves beside its own effect. -/
def paced (s : State) (w : BitVec 3) : State :=
  { s with th := { s.th with lastTX := some s.coreCycle, promises := nextPromises s.th.promises w none } }

/-- The first frame whose instant xbase + F · xframe + o lies after a link count. -/
def firstFrame (base length o l f : Nat) : Prop := l < base + f * length + o ∧ ∀ g, l < base + g * length + o → f ≤ g

/-- The slot-fault detail of R269: slot, kind, position and frame of an instant. -/
def slotDetail (k : BitVec 8) (kind base length at_ : Nat) : BitVec 64 :=
  BitVec.ofNat 64 (k.toNat + kind * 2 ^ 8 + (at_ - base) % length % 2 ^ 13 * 2 ^ 12 + (at_ - base) / length % 2 ^ 39 * 2 ^ 25)

end Sys2Proof.Claims

/-! ### Group X -/

/-- XSEND stages 256 bytes of the thread's window and binds them to the departure of the slot's open issue window; issued
before the window opens it is slot fault 1, for a departure that has bytes already kind 5, with a source that is not 64-byte
aligned within the window kind 6, and without a plan or an own entry kind 4 (R244, R257, R261, R268, R269). -/
def Sys2Proof.Claims.SendsBindToDepartures : Prop :=
  ∀ (s : State) (w : BitVec 3) (g : BitVec 5) (k : BitVec 8), Free (.xsend w g k) s → settled s →
    let e := s.th.slots[k.toNat]
    let L := s.th.arch.xframe.toNat
    let B := s.th.arch.xbase.toNat
    let l := s.lcc / 4 * 4
    (s.sourceBusy (s.g g) = true ∨ ¬paceMet s w → Stops (.xsend w g k) s s (.wait .unit) none) ∧
    (∀ f, s.sourceBusy (s.g g) = false → paceMet s w → 0 < L → slotOwn e = true → B ≤ l → firstFrame B L (slotStart e) l f →
      let dep := B + f * L + slotStart e
      let fault (kind : Nat) : Prop :=
        Stops (.xsend w g k) s { s with th := { s.th with lastTX := some s.coreCycle } } (.trap 0x07 (slotDetail k kind B L l) 0) none
      let taken := ∃ d ∈ s.th.departures, d.slot = k ∧ d.frame = f
      (l + slotWindow e < dep → fault 1) ∧
      (dep ≤ l + slotWindow e → taken → fault 5) ∧
      (dep ≤ l + slotWindow e → ¬taken → s.neveKey (s.g g) 256 64 = none → fault 6) ∧
      (∀ sp, dep ≤ l + slotWindow e → ¬taken → s.neveKey (s.g g) 256 64 ≠ none → s.checkC (s.g g) 256 true false false = .ok sp →
        Completes (.xsend w g k) s (paced { s with th := { s.th with departures := s.th.departures ++
          [{ slot := k, frame := f, departs := dep, arrives := dep + slotTravel e, sent := false, bad := false, data := BitVec.ofNat 2048 (wordAt s sp) }] } } w)
          none)) ∧
    (s.sourceBusy (s.g g) = false → paceMet s w → 0 < L → slotOwn e = false →
      Stops (.xsend w g k) s { s with th := { s.th with lastTX := some s.coreCycle } } (.trap 0x07 (slotDetail k 4 B L l) 0) none)

/-- XRECV and XRECV.S complete where the slot's fresh bit is set, and clear it; else XRECV.S is slot fault 2 and XRECV waits for
the slot's next arrival, which SLOT_ARRIVAL brings; a void one is kind 3. XWAIT completes in an open window, and waits for
its opening otherwise; XSLOT leaves frame number and position (R256, R257, R266, R268 to R270). -/
def Sys2Proof.Claims.ReceivesWaitsAndPositions : Prop :=
  ∀ (s : State) (w : BitVec 3) (g : BitVec 5) (k : BitVec 8), paceMet s w →
    let e := s.th.slots[k.toNat]
    let L := s.th.arch.xframe.toNat
    let B := s.th.arch.xbase.toNat
    let l := s.lcc / 4 * 4
    let s1 : State := { s with th := { s.th with lastTX := some s.coreCycle } }
    0 < L → B ≤ l →
    (slotRecv e = true → s.th.fresh.getLsbD k.toNat = true → ∀ i ∈ [Instr.xrecv w k, .xrecvS w k], Free i s →
      ∃ t, Completes i s t none ∧ t.th.fresh.getLsbD k.toNat = false ∧ (∀ j, j ≠ k.toNat → t.th.fresh.getLsbD j = s.th.fresh.getLsbD j) ∧
        t.th.arch = s.th.arch ∧ SameMemory s t) ∧
    (slotRecv e = true → s.th.fresh.getLsbD k.toNat = false →
      (Free (.xrecvS w k) s → Stops (.xrecvS w k) s s1 (.trap 0x07 (slotDetail k 2 B L l) 0) none) ∧
      (∀ f, Free (.xrecv w k) s → s.th.wait = none → firstFrame B L (slotStart e + slotTravel e) l f →
        Stops (.xrecv w k) s s1 (.wait (.arrival k (B + f * L + (slotStart e + slotTravel e)))) none)) ∧
    (slotOwn e = true → Free (.xwait w k) s → ∀ f, firstFrame B L (slotStart e) s.lcc f →
      let dep := B + f * L + slotStart e
      (dep ≤ s.lcc + slotWindow e → ∃ t, Completes (.xwait w k) s t none ∧ t.th.ahead = true ∧ t.th.arch = s.th.arch ∧ SameMemory s t) ∧
      (s.lcc + slotWindow e < dep → Stops (.xwait w k) s s1 (.wait (.window (dep - slotWindow e))) none)) ∧
    (Free (.xslot w g) s →
      Completes (.xslot w g) s ((paced s w).setG g (BitVec.ofNat 64 ((l - B) / L * 2 ^ 13 + (l - B) % L))) none)

/-- X instructions bind departures, receive, wait and report positions. -/
def Obligations.SendsReceivesAndWaits : Prop :=
  Sys2Proof.Claims.SendsBindToDepartures ∧ Sys2Proof.Claims.ReceivesWaitsAndPositions


/-- SLOT_DEPARTURE sends the bound bytes whose departure cycle has come; SLOT_ARRIVAL writes what arrives first to its receiver's
slot and sets fresh there, or completes or faults a waiting XRECV; XWAIT_COMPLETE completes an XWAIT whose window has
opened (R261, R265, R266, R268). -/
def Obligations.SlotsDepartAndArrive : Prop :=
  ∀ (s : State),
    (∃ t, exec .slotDeparture s = .next t ∧ SameMemory s t ∧ t.th.arch = s.th.arch ∧
      t.th.departures = s.th.departures.map fun d => if d.departs ≤ s.lcc then { d with sent := true } else d) ∧
    (∀ (a : Nat) (d : Departure), s.arrivalDue = some (a, some d) → d.arrives ≤ s.lcc ∧ d ∈ s.th.departures ∧ d.sent = true ∧
      ∃ t, exec .slotArrival s = .next t ∧ t.th.departures = s.th.departures.erase d ∧
        (slotRecv (s.th.slots[d.slot.toNat]) = true → t.th.fresh.getLsbD d.slot.toNat = true ∧
          (s.th.place = .resident → s.th.cls = .tensor → t.mem = writeCells s.mem (windowBase + s.th.handle.toNat * windowStep + slotDest (s.th.slots[d.slot.toNat])) (leBytes 256 d.data.toNat)))) ∧
    (s.arrivalDue = none → exec .slotArrival s = .next s) ∧
    (∀ (a : Nat) (w : BitVec 3) (k : BitVec 8) (at_ : Nat), s.arrivalDue = some (a, none) → waitsAt s (.arrival k at_) (.xrecv w k) →
      Free (.xrecv w k) s → 0 < s.th.arch.xframe.toNat → slotRecv (s.th.slots[k.toNat]) = true →
      (s.th.fresh.getLsbD k.toNat = true → ∃ t, RowCompletes .slotArrival (.xrecv w k) s t ∧ t.th.fresh.getLsbD k.toNat = false) ∧
      (s.th.fresh.getLsbD k.toNat = false → s.th.arch.xbase.toNat ≤ at_ →
        exec .slotArrival s =
          s.stop (.xrecv w k) (.trap 0x07 (slotDetail k 3 s.th.arch.xbase.toNat s.th.arch.xframe.toNat at_) 0) none)) ∧
    (∀ (a : Nat) (w : BitVec 3) (k : BitVec 8), waitsAt s (.window a) (.xwait w k) → Free (.xwait w k) s →
      (s.lcc < a → exec .xwaitComplete s = .next s) ∧
      (a ≤ s.lcc → 0 < s.th.arch.xframe.toNat → slotOwn (s.th.slots[k.toNat]) = true →
        ∀ f, firstFrame s.th.arch.xbase.toNat s.th.arch.xframe.toNat (slotStart (s.th.slots[k.toNat])) s.lcc f →
          s.th.arch.xbase.toNat + f * s.th.arch.xframe.toNat + slotStart (s.th.slots[k.toNat]) ≤ s.lcc + slotWindow (s.th.slots[k.toNat]) →
          ∃ t, RowCompletes .xwaitComplete (.xwait w k) s t ∧ t.th.ahead = true))

/-! ### Groups S and P -/

/-- TRET returns to `tpc` at the level in pm with ie from pie, and clears tip, counting itself; with end set it ends the thread, after its branch record
(R290, R291, R402; the record's target is open, log 20). IDLE completes where an unmasked line is pending, waits otherwise, and IDLE_COMPLETE completes it once one is
(R291). IPI sets a line of 0 to 7 of a live thread of its partition (R294). -/
def Sys2Proof.Claims.ReturnIdleAndIpi : Prop :=
  ∀ (s : State),
    (Free .tret s → s.th.sup.sstat.getLsbD 4 = false →
      (s.th.sup.sstat.getLsbD 2 = true ∨ s.th.core = s.th.trapCore) →
      ∃ t, exec .tret s = .next t ∧ t.th.arch = { s.th.arch with pc := s.th.sup.tpc, retired := s.th.arch.retired + 1 } ∧
        t.th.sup.level = s.th.sup.sstat.getLsbD 2 ∧ t.th.sup.ie = s.th.sup.sstat.getLsbD 1 ∧ t.th.sup.tip = false ∧
        t.th.sup.tpc = s.th.sup.tpc ∧ t.th.sup.tcause = s.th.sup.tcause ∧ SameMemory s t) ∧
    (Free .tret s → s.th.sup.sstat.getLsbD 4 = true → s.th.runs = [] →
      exec .tret s = .next ((((({ s with th := s.th.countUnit 1 0 false }).bumpCore 0x00 1).traceBranch true 8 s.th.arch.pc
        (Config.openField 24 s.tick 0)).endThread s.th.handle).advance)) ∧
    (Free .idle s →
      (s.ipendNow &&& s.th.sup.imask ≠ 0 → Completes .idle s s none ∧
        (waitsAt s .idle .idle → RowCompletes .idleComplete .idle s s)) ∧
      (s.ipendNow &&& s.th.sup.imask = 0 → Stops .idle s s (.wait .idle) none ∧
        (waitsAt s .idle .idle → exec .idleComplete s = .next s))) ∧
    (∀ a b : BitVec 5, Free (.ipi a b) s →
      (s.target (s.g a) = none → Stops (.ipi a b) s s (.trap 0x0F 1 0) none) ∧
      (∀ t, s.target (s.g a) = some t → 7 < (s.g b).toNat → Stops (.ipi a b) s s (.trap 0x0F 8 0) none) ∧
      (∀ t, s.target (s.g a) = some t → (s.g b).toNat ≤ 7 →
        Completes (.ipi a b) s (s.raiseLines t.handle (1 <<< (s.g b).toNat)) none ∧
        (t.inArea = false → s.raiseLines t.handle (1 <<< (s.g b).toNat) = s.modThread t.handle (·.setLines (1 <<< (s.g b).toNat))))) ∧
    ∃ t, exec .timerCompareMatch s = .next t ∧ t.lcc = max s.lcc (2 * s.th.sup.tcmp.toNat) ∧ t.th = s.th ∧ SameMemory s t ∧
      t.mod = { s.mod with counters := s.cycleCounters t.lcc }

/-- INTERRUPT: with ie set and tip clear, at a stop point, the lowest pending unmasked line n is taken as cause 0x10 with n in
`tdetail`; a line of 0 to 7 is cleared, and no other; where none is, or ie is clear, nothing is taken (R284, R286, R292). -/
def Sys2Proof.Claims.InterruptsTaken : Prop :=
  ∀ (s : State),
    (s.interruptLine = none → exec .interrupt s = .next s) ∧
    (∀ n, s.interruptLine = some n → s.th.sup.ie = true ∧ s.th.sup.tip = false ∧
      (s.ipendNow &&& s.th.sup.imask).getLsbD n = true ∧ ∀ m, m < n → (s.ipendNow &&& s.th.sup.imask).getLsbD m = false) ∧
    (∀ n s1, s.interruptLine = some n → s.atStop = some s1 → s1.th.sup = s.th.sup → ∃ t, exec .interrupt s = .next t ∧
      t.th.sup.tcause = 0x10 ∧ t.th.sup.tdetail = BitVec.ofNat 64 n ∧ t.th.sup.tpc = s1.th.arch.pc ∧ t.th.sup.level = true ∧
      t.th.sup.tip = true ∧ t.th.sup.ie = false ∧ t.th.arch.pc = (s.th.sup.tvec ++ 0#2).setWidth 64 ∧
      ∀ m, m < 12 → t.th.sup.ipend.getLsbD m = (s.th.sup.ipend.getLsbD m && !(decide (m = n) && decide (n < 8))))

/-- TRET, IDLE, IPI and the timer, and the interrupts that a boundary takes. -/
def Obligations.ReturnsAndInterrupts : Prop :=
  Sys2Proof.Claims.ReturnIdleAndIpi ∧ Sys2Proof.Claims.InterruptsTaken


/-- The privileged operations on threads refuse a target that is no live thread of the partition with reason 1 and the issuing
thread with reason 2, and an image address that is no multiple of 192 as misaligned. CTXSAVE of a held thread writes its
image, from its save area with its poison or, before it has started, its initial one; CTXLOAD of a fitting image restores it and
makes the thread runnable, and with a poisoned header leaves it held with a fault record; MIGR of a thread on the named core
completes at once, and of another moves it and completes when the move has ended (R293, R294, R347, R437). -/
def Sys2Proof.Claims.ThreadsSavedLoadedMoved : Prop :=
  ∀ (s : State) (a b : BitVec 5),
    (∀ i ∈ [Instr.ctxsave a b, .ctxload a b, .migr a b], Free i s → s.migrBegan = none →
      (s.target (s.g a) = none → Stops i s s (.trap 0x0F 1 0) none) ∧
      (∀ t, s.target (s.g a) = some t → t.handle = s.th.handle → Stops i s s (.trap 0x0F 2 0) none)) ∧
    (∀ t, s.target (s.g a) = some t → t.handle ≠ s.th.handle →
      (Free (.ctxsave a b) s →
        ((s.g b).toNat % 192 ≠ 0 → Stops (.ctxsave a b) s s (.trap 0x04 0 (s.g b)) none) ∧
        (∀ sp, (s.g b).toNat % 192 = 0 → s.checkAccess (s.g b) (s.imageSize t) false true false = .ok sp → t.held = true →
          s.thread? t.handle = some t →
          let u := s.copyImage t sp
          (∀ src, t.place ≠ .unstarted → s.areaSpans t.handle 0 (s.imageSize t) = some src →
            u.mem = (s.devicePut sp (s.spanBytes src)).mem ∧
            u.poison = ((s.devicePut sp (s.spanBytes src)).poisonParts (poisonRanges s.poison src 0) sp 0).poison) ∧
          (t.place = .unstarted → u.mem = (s.devicePut sp (s.imageOf t)).mem) ∧
          Completes (.ctxsave a b) s u none ∧
          (waitsAt s .ctxsave (.ctxsave a b) → RowCompletes .ctxsaveComplete (.ctxsave a b) s u))) ∧
      (Free (.ctxload a b) s →
        (t.held = false → Stops (.ctxload a b) s s (.trap 0x0F 3 0) none) ∧
        (t.held = true → (s.g b).toNat % 192 ≠ 0 → Stops (.ctxload a b) s s (.trap 0x04 0 (s.g b)) none) ∧
        (∀ e, t.held = true → (s.g b).toNat % 192 = 0 → s.readImageC (s.g b) (s.imageSize t) = .error e →
          Stops (.ctxload a b) s s e none) ∧
        (∀ bs bad sp, t.held = true → (s.g b).toNat % 192 = 0 → s.readImageC (s.g b) (s.imageSize t) = .ok (bs, bad, sp) →
          (settled s → bs = leBytes (s.imageSize t) (wordAt s sp)) ∧
          ((∃ x ∈ bad, x.1 < 256) → ∃ u, Completes (.ctxload a b) s u none ∧ u.thread? t.handle = s.thread? t.handle ∧
            ∀ d, s.dctx? (handleDctx t.handle) = some d → ∃ e, u.dctx? (handleDctx t.handle) = some e ∧
              e.fqWait = d.fqWait ++ [FaultRecord.header t (s.g b)]) ∧
          ((∀ x ∈ bad, 256 ≤ x.1) → imageFits t bs = false → Stops (.ctxload a b) s s (.trap 0x0F 4 0) none) ∧
          ((∀ x ∈ bad, 256 ≤ x.1) → imageFits t bs = true → t.migrTo = none → ∃ u, Completes (.ctxload a b) s u none ∧
            ∃ v, u.thread? t.handle = some v ∧ v.held = false ∧ v.arch = (t.loadImage bs).arch))) ∧
      (Free (.migr a b) s →
        let c := (s.g b).toNat % 8192
        s.migrBegan = none →
        (s.actsOn t.handle = 2 → Stops (.migr a b) s s (.trap 0x0F 6 0) none) ∧
        (s.actsOn t.handle ≠ 2 → s.couldHold t c = false → Stops (.migr a b) s s (.trap 0x0F 5 0) none) ∧
        (s.actsOn t.handle ≠ 2 → s.couldHold t c = true → t.arch.anchor = .none →
          (t.held = true → Completes (.migr a b) s (s.modThread t.handle fun t => { t with migrTo := some (BitVec.ofNat 13 c) }) none) ∧
          (t.held = false → t.place = .resident → t.core.toNat = c → Completes (.migr a b) s s none) ∧
          (∀ s1 s2, t.held = false → t.place = .resident → t.core.toNat ≠ c → s.fits t c = true → s.schedMay t 2 = true →
            s.fifoServable = false → s.stopOther t.handle = some s1 → s1.schedMigrateTo t.handle c = some s2 →
            Stops (.migr a b) s s2 (.wait (.migr (some s.lcc))) none)))) ∧
    (∀ n, Free (.migr a b) s → waitsAt s (.migr (some n)) (.migr a b) →
      let moving := (s.thread? ((s.g a).setWidth 32)).any fun t => decide (t.place = .transit) && decide (t.since = n)
      (moving = true → Stops (.migr a b) s s (.wait (.migr (some n))) none) ∧
      (moving = false → Completes (.migr a b) s s none))

/-- TLBINV in its three forms removes the translations of the partition, of a PASID or of an address under it, and the host's
pages under them, and nothing else of the machine but what their removal retries. It waits while a write of its own thread
has yet to perform, and then, with the translations removed, while an access that they had translated is under way, until
TLBINV_COMPLETE; a PASID of more than 20 bits is refused with reason 7 (R295, R305, R306, R312). -/
def Sys2Proof.Claims.TranslationsInvalidated : Prop :=
  ∀ (s : State) (a b : BitVec 5) (p : PartId), s.partOf s.th.handle = some p →
    (∀ i ∈ [Instr.tlbinvP a, .tlbinvPv a b], Free i s → 2 ^ 20 ≤ (s.g a).toNat → Stops i s s (.trap 0x0F 7 0) none) ∧
    (∀ e ∈ [(Instr.tlbinv, (none : Option Nat), true), (.tlbinvP a, some (s.g a).toNat, true), (.tlbinvPv a b, some (s.g a).toNat, false)],
      Free e.1 s → (∀ n, e.2.1 = some n → n < 2 ^ 20) →
      let ds := s.dctxsOf p e.2.1
      let removed (x : TlbEntry) : Prop := (∃ d ∈ ds, x.dc = d.id) ∧ (e.2.2 = true ∨ x.covers (s.g b) = true)
      let hosts (x : HostPage) : Prop := (∃ d ∈ ds, x.part = d.part ∧ x.pasid = d.pasid) ∧ (e.2.2 = true ∨ s.hostCovered ds x (s.g b) = true)
      let gone (u : State) : Prop :=
        (∀ x, x ∈ u.tlb ↔ x ∈ s.tlb ∧ ¬removed x) ∧ (∀ x, x ∈ u.host ↔ x ∈ s.host ∧ ¬hosts x) ∧
        (∀ x ∈ u.hist, x.writer = some s.th.handle → x.allC = true ∧ x.allB = true) ∧ u.th = s.th ∧ SameMemory s u
      let late (n : Nat) : Bool := s.servedBefore (ds.map (·.id)) n
      (s.ownPending = true → Stops e.1 s s (.wait (.tlbinv none)) none) ∧
      (s.ownPending = false → late s.lcc = true → ∃ u, gone u ∧ Stops e.1 s u (.wait (.tlbinv (some s.lcc))) none) ∧
      (s.ownPending = false → late s.lcc = false → ∃ u, gone u ∧ Completes e.1 s u none) ∧
      (waitsAt s (.tlbinv none) e.1 → exec .tlbinvComplete s = exec e.1 s) ∧
      (∀ n, waitsAt s (.tlbinv (some n)) e.1 →
        (late n = true → ∃ u, gone u ∧ exec .tlbinvComplete s = u.stop e.1 (.wait (.tlbinv (some n))) none) ∧
        (late n = false → ∃ u, gone u ∧ RowCompletes .tlbinvComplete e.1 s u)))

/-- The supervisor's instructions on threads and translations. -/
def Obligations.SupervisorMoves : Prop :=
  Sys2Proof.Claims.ThreadsSavedLoadedMoved ∧ Sys2Proof.Claims.TranslationsInvalidated

/-! ### Threads that move, proxies, convoys -/

/-- The rows of moving threads. MIGRATION_ARRIVE makes a thread in transit resident on its core with its registers, or holds it
where reserved fields of its save area have been altered (R336, R339); the FIFO grants a freed context to its earliest
eligible waiter, restored from its save area (R18, R336, R339); at an instruction of a group that the class lacks
TRAP_MIGRATION moves the thread, after every waiter that could be served, or raises the migration trap, 0x03, where
`migctl` pins it or no core could take it (R13, R15 to R18); SCHEDULER_MIGRATION moves it to the class wanted, or lets a
request lapse (R17, R18, R24, R176); ANCHOR_RELEASE ends the anchor (R24). A move whose records have no room waits for it (R383), and
none arrives over a link that has failed (R364; DEDUCED, log 175). -/
def Obligations.ThreadsMoveBetweenCores : Prop :=
  ∀ (s : State),
    (∀ p, s.partOf s.th.handle = some p → s.mod.linksDown &&& (s.part p).spokes ≠ 0 → exec .migrationArrive s = .next s) ∧
    (s.th.place = .transit → (∀ p, s.partOf s.th.handle = some p → s.mod.linksDown &&& (s.part p).spokes = 0) →
      ∃ t, exec .migrationArrive s = .next t ∧ t.th.arch.g = s.th.arch.g ∧ t.th.arch.pc = s.th.arch.pc ∧ t.mem = s.mem ∧
      ((s.readSave s.th.handle s.th.lastClass s.th.cls).2 = true → t.th.place = .resident ∧ t.th.core = s.th.core) ∧
      ((s.readSave s.th.handle s.th.lastClass s.th.cls).2 = false → t.th.place = .saved ∧ t.th.held = true)) ∧
    (s.th.place = .resident → exec .migrationArrive s = .next s) ∧
    (s.fifoPick s.th = none → exec .arbiterFifoGrant s = .next s) ∧
    (∀ c s1, s.fifoPick s.th = some c → s.th.held = false → s.firstWaiter s.th c = true → s.fifoMay s.th c = true →
      s.restoreArea s.th.handle (coreClass c) = (s1, true) → exec .arbiterFifoGrant s = .next (s1.fifoGrant s.th.handle)) ∧
    (∀ i, s.boundary = true → s.instrHere = some i → s.th.cls.implements (groupOf i) = false → s.breakpoint i = none →
      (groupOf i = .s ∨ groupOf i = .p → s.th.sup.level = true) → s.actsOn s.th.handle ≠ 2 → s.proxies i = false →
      s.th.runs = [] → s.th.transferStarted = false →
      (s.th.sup.level = false ∧ s.th.arch.migctl.getLsbD 0 = true ∨ s.anyCore s.th (fun c => c.implements (groupOf i)) = false →
        exec .trapMigration s =
          (s.bumpCore 0x20 1).stop i (.trap 0x03 (BitVec.ofNat 64 (groupOf i).bit) 0) none) ∧
      (¬(s.th.sup.level = false ∧ s.th.arch.migctl.getLsbD 0 = true) → s.anyCore s.th (fun c => c.implements (groupOf i)) = true →
        s.schedMay s.th 1 = true → s.fifoServable = true →
        exec .trapMigration s = s.stop i (.wait .drain) none) ∧
      (¬(s.th.sup.level = false ∧ s.th.arch.migctl.getLsbD 0 = true) → s.anyCore s.th (fun c => c.implements (groupOf i)) = true →
        (s.schedMay s.th 1 = false ∨
          (s.fifoServable = false ∧ ∃ c, s.nearest s.th (fun c => c.implements (groupOf i)) = some c ∧ s.trapMay s.th s.th.cls c = false)) →
        exec .trapMigration s = s.stop i (.wait .moraine) none) ∧
      (∀ c, ¬(s.th.sup.level = false ∧ s.th.arch.migctl.getLsbD 0 = true) → s.anyCore s.th (fun c => c.implements (groupOf i)) = true →
        s.schedMay s.th 1 = true → s.fifoServable = false → s.nearest s.th (fun c => c.implements (groupOf i)) = some c →
        s.trapMay s.th s.th.cls c = true →
        exec .trapMigration s = .next ((s.bumpCore 0x20 1).trapMigrateTo s.th.handle s.th.cls c).advance) ∧
      (¬(s.th.sup.level = false ∧ s.th.arch.migctl.getLsbD 0 = true) → s.anyCore s.th (fun c => c.implements (groupOf i)) = true →
        s.schedMay s.th 1 = true → s.fifoServable = false → s.nearest s.th (fun c => c.implements (groupOf i)) = none →
        exec .trapMigration s = .next ((s.bumpCore 0x20 1).enterFifo s.th.handle (groupOf i)).advance)) ∧
    (s.boundary = false → exec .trapMigration s = .next s ∧ exec .schedulerMigration s = .next s) ∧
    (s.boundary = true → s.actsOn s.th.handle ≠ 2 ∨ s.th.sup.level = true →
      (s.wanted = .none → exec .schedulerMigration s = .next s) ∧
      (s.wanted ≠ .none → s.wanted = s.th.cls → exec .schedulerMigration s = .next { s with th := { s.th with migh := .none } }) ∧
      (s.wanted ≠ .none → s.wanted ≠ s.th.cls →
        (s.moveStalls = false → exec .schedulerMigration s = .next ((s.grantMove s.wanted).getD s)) ∧
        (s.moveStalls = true → exec .schedulerMigration s = .next (s.waitFor .moraine (s.instrHere.getD .nop)).advance ∧
          s.grantMove s.wanted = none)) ∧
      (∀ k s1, s.grantMove k = some s1 → s.fifoServable = false) ∧
      (s.th.sup.level = false → s.th.arch.migctl.getLsbD 0 = true → s.wanted = .none) ∧
      (s.th.sup.level = true → s.wanted = s.th.migh) ∧
      (∀ i, s.th.sup.level = false → s.th.arch.migctl.getLsbD 0 = false → s.actsOn s.th.handle ≠ 2 → s.th.migh = .none → s.th.away = true →
        s.th.arch.anchor ≠ s.th.cls → s.instrHere = some i →
        s.wanted = if s.th.arch.anchor.implements (groupOf i) then s.th.arch.anchor else .none)) ∧
    (s.releaseDue = true → s.schedMay s.th 4 = true → s.actsOn s.th.handle = 0 → ∃ t, exec .anchorRelease s = .next t ∧
      t.th.arch = { s.th.arch with anchor := .none } ∧ t.th.mix = Vector.replicate 8 0 ∧ t.th.calm = 0 ∧ SameMemory s t) ∧
    (s.releaseDue = false → exec .anchorRelease s = .next s)

/-- PROXY_SERVICE takes a thread's request at its server in arrival order and counts it there, and PROXY_RESULT lets the thread
execute its instruction with its full effect (R23, R25); CONVOY_COMPLETE retires the whole convoy, once more for each time that a stop took it back to its head, and passes
control (R32, R63, R272); SLICE_WATCH_STOP enters the handler with cause 0x0C, 0x100 + k and the watched address (R409). -/
def Obligations.ProxiesConvoysAndSliceStops : Prop :=
  ∀ (s : State),
    (∀ c n i, waitsAt s (.proxy c n) i →
      (s.servedNext c = true → ∃ m, exec .proxyService s =
        .next { s with th := { s.th with wait := some { kind := .served c, instr := i } }, mod := { s.mod with counters := m } }) ∧
      (s.servedNext c = false → exec .proxyService s = .next s)) ∧
    (∀ c i, waitsAt s (.served c) i → exec .proxyResult s = .next { s with th := { s.th with wait := none, grant := true } }) ∧
    (∀ c target stood, s.th.convoy = some c → c.passing = some (target, stood) → c.events = [] → s.noStep →
      ∃ t, exec .convoyComplete s = .next t ∧ t.th.convoy = none ∧ 
        t.th.arch.retired = s.th.arch.retired + BitVec.ofNat 64 (c.members.length * (1 + s.th.rerunsOf c.head)) ∧
        t.th.arch.g = s.th.arch.g ∧ t.th.arch.v = s.th.arch.v ∧ SameMemory s t ∧
        (∀ a, target = some a → t.th.arch.pc = a) ∧
        (target = none → s.th.arch.loops = [] → t.th.arch.pc = s.th.arch.pc + 4)) ∧
    (s.th.convoy = none → exec .convoyComplete s = .next s) ∧
    (∀ k a n s1, s.th.sliceStop = some (k, a, n) → s.sliceStopNow = true → s.atStop = some s1 → s1.th.sup.tip = false →
      ∃ t, exec .sliceWatchStop s = .next t ∧ t.th.sliceStop = none ∧ t.th.sup.tcause = 0x0C ∧
        t.th.sup.tdetail = BitVec.ofNat 64 (0x100 + k.toNat) ∧ t.th.sup.taddr = va56 a ∧ t.th.sup.tpc = s1.th.arch.pc ∧
        t.th.sup.level = true) ∧
    (s.sliceStopNow = false → exec .sliceWatchStop s = .next s)

/-! ### Block-transfer engines -/

/-- The engine takes a context's next request, refusing one that is not sound with its code, and ends an empty one at once
(R167, R169); BXQ_PAGE copies or fills the part of a page, all of it or nothing, and a failing page ends the request with
the bytes done; its reads wait for T instructions that issued before it (R102, R169, R234); BXQ_COMPLETION_RECORD posts the record of a request that has ended and frees its entry, or waits
on a full ring (R163, R166, R169). -/
def Obligations.EnginesMoveBlocks : Prop :=
  ∀ (s : State) (x : Transfer) (rest : List Transfer) (d : Dctx), s.th.bxq = x :: rest → s.myDctx = some d → s.th.place = .resident →
    let headed (y : Transfer) : State → Prop := fun t => t.th.bxq = y :: rest ∧ t.th.arch = s.th.arch
    (x.started = false → x.ended = none →
      let code := s.transferCode s.th.handle x
      let engine := BitVec.ofNat 16 (coreDie s.th.core.toNat * 256 + diePod s.th.core.toNat)
      ∃ t, exec .bxqRequestStart s = .next t ∧ SameMemory s t ∧
        let ended := if code ≠ 0 then some (2, BitVec.ofNat 8 code) else if x.length = 0 then some (0, 0) else none
        headed { x with started := true, engine := engine, ended := ended } t) ∧
    (x.started = true → exec .bxqRequestStart s = .next s) ∧
    (x.started = true → x.ended = none → (x.refused = true ∨ d.pageAsked x.waitPage = false) → x.event = none →
      s.endMoving s.th.handle x = false → s.tilesFirst d x x.part = false →
      let n := x.part
      let a := x.w2 + BitVec.ofNat 64 x.done
      (∀ bs sp, x.dkind = 0 → x.overlaps = false → x.olds = [] → s.transferSource d s.th x n = .ok bs →
        s.translate d (s.engineAccess s.th false true) a n = .ok sp →
        ∃ t, exec .bxqPage s = .next t ∧ headed (x.moved n (bs.drop n)) t ∧
          t.mem = storedMemory.spansWritten s.mem sp (bs.take n)) ∧
      (∀ reason fa w f g sp, x.dkind = 0 → reason ≠ 0x33 → s.transferSource d s.th x n = .error (.fail reason fa w f g) →
        s.translate d (s.engineAccess s.th false true) a n = .ok sp →
        ∃ t, exec .bxqPage s = .next t ∧ SameMemory s t ∧
          headed { x with ended := some (1, if reasonCause reason = 0x06 then 2 else 1), faddr := fa, waitPage := none, refused := false } t) ∧
      (∀ bs fa w f, x.dkind = 0 → s.transferSource d s.th x n = .ok bs →
        s.translate d (s.engineAccess s.th false true) a n = .error (.page fa w f) →
        ∃ t, exec .bxqPage s = .next t ∧ SameMemory s t ∧ headed { x with waitPage := some fa, refused := false } t)) ∧
    (s.tilesFirst d x x.part = true → exec .bxqPage s = .next s) ∧
    (∀ st code, x.ended = some (st, code) → x.event = none →
      (∀ s1, s.postRing d x.w3 1 (fun bad => x.record st code bad s.cyc) = .posted s1 → s1.th = s.th →
        ∃ t, exec .bxqCompletionRecord s = .next t ∧ t.th.bxq = rest ∧ t.mem = s1.mem) ∧
      (s.postRing d x.w3 1 (fun bad => x.record st code bad s.cyc) = .full → exec .bxqCompletionRecord s = .next s))

/-! ### Coherence between the dies -/

/-- The home's action on a request for a stable line (R370, R371): the entry that it leaves and the messages that it sends, for
every state of the line and every request; a write-back of an agent that owns nothing is only acknowledged. -/
def Sys2Proof.Claims.HomeDirectoryTable : Prop :=
  ∀ (d : DirLine) (a : AgentId), a.toNat < 10 →
    let others := sharers d.shr a
    let turns (st : BitVec 2) (own : AgentId) (shr : BitVec 10) : DirLine := { d with st := st, own := own, shr := shr, trans := .stable }
    let invs := others.map fun x => (x, HomeMsg.inv)
    let mask := d.shr &&& ~~~((1 : BitVec 10) <<< a.toNat)
    (d.st = 0 → d.take .getS a = (turns 2 a 0, [(a, .dataE)]) ∧ d.take .getM a = (turns 2 a 0, [(a, .dataM)]) ∧
      d.take .upg a = (turns 2 a 0, [(a, .dataM)])) ∧
    (d.st = 1 →
      d.take .getS a = ({ d with shr := d.shr ||| ((1 : BitVec 10) <<< a.toNat) }, [(a, .dataS)]) ∧
      (others = [] → d.take .getM a = (turns 2 a 0, [(a, .dataM)]) ∧
        d.take .upg a = (turns 2 a 0, [(a, if d.shr.getLsbD a.toNat then .upgAck else .dataM)])) ∧
      (others ≠ [] → d.take .getM a = ({ d with trans := .acks a mask false }, invs) ∧
        d.take .upg a = ({ d with trans := .acks a mask (d.shr.getLsbD a.toNat) }, invs))) ∧
    (d.st = 2 →
      d.take .getS a = ({ d with trans := .bS a }, [(d.own, .fwdGetS)]) ∧
      (∀ r ∈ [Request.getM, .upg], d.take r a = ({ d with trans := .bM a 0 false }, [(d.own, .fwdGetM)])) ∧
      (∀ r ∈ [Request.putM, .putO, .putE], d.take r a = (if d.own = a then turns 0 0 0 else d, [(a, .putAck)]))) ∧
    (d.st = 3 →
      d.take .getS a = ({ d with trans := .bS a }, [(d.own, .fwdGetS)]) ∧
      d.take .getM a = ({ d with trans := .bM a mask false }, (d.own, .fwdGetM) :: invs) ∧
      (d.own = a → others ≠ [] → d.take .upg a = ({ d with trans := .acks a mask true }, invs)) ∧
      (d.own = a → others = [] → d.take .upg a = (turns 2 a 0, [(a, .upgAck)])) ∧
      (d.own ≠ a → d.shr.getLsbD a.toNat = true → others ≠ [] →
        d.take .upg a = ({ d with trans := .acks a mask true }, (d.own, .inv) :: invs)) ∧
      (d.own ≠ a → d.shr.getLsbD a.toNat = true → others = [] →
        d.take .upg a = (turns 2 a 0, [(d.own, .inv), (a, .upgAck)])) ∧
      (d.own ≠ a → d.shr.getLsbD a.toNat = false → d.take .upg a = d.take .getM a) ∧
      (∀ r ∈ [Request.putM, .putO, .putE], d.take r a =
        (if d.own = a then (if d.shr = 0 then turns 0 0 0 else turns 1 0 d.shr) else d, [(a, .putAck)]))) ∧
    (d.st ≠ 2 → d.st ≠ 3 → ∀ r ∈ [Request.putM, .putO, .putE], d.take r a = (d, [(a, .putAck)]))

/-- The home's rows. A request whose turn has come among those that have reached the hub, or a write-back that has arrived, of a line in
the directory cache that is stable with nothing queued acts as the table says, and the requester's agent awaits its answer; one of
a line that is not cached waits for DIRECTORY_FILL; a new request reaches the hub in its link cycle. A write-back that meets its
outstanding forward answers it. An owner's reply relays data to the requester, and the last acknowledgement gives it the line
(R362, R370 to R372). -/
def Sys2Proof.Claims.HomeRowsAct : Prop :=
  ∀ (s : State) (l : Nat) (a : AgentId), s.ev = .line l a →
    let d := s.fab.dirLine l
    let leaves (row : Instr) (e : DirLine) (ms : List (AgentId × HomeMsg)) : Prop := ∃ f, exec row s = .next { s with fab := f } ∧
      f.dirLine l = e ∧ f.toDie = s.fab.toDie ++ ms.map fun m => (m.1, l, m.2)
    (∀ q ∈ [(Instr.homeGets, Request.getS, [AgentState.i], AgentState.isD), (.homeGetm, .getM, [.i], .imD), (.homeUpg, .upg, [.s, .o], .smA)],
      (∀ x, (q.1, x) ∈ s.askRows → x.line = l → x.agent = a →
        (∀ f, exec q.1 s = .next { s with fab := f } → f.agentState l a = q.2.2.2 ∧ f.asks = s.fab.asks.erase x) ∧
        (d.cached = true → d.trans = .stable → d.queue = [] → leaves q.1 (d.take q.2.1 a).1 (d.take q.2.1 a).2) ∧
        (d.cached = false → leaves q.1 { d with trans := .fill, queue := d.queue ++ [(q.2.1, a)] } [])) ∧
      (a.toNat < 10 → (s.homeDie (192 * l)).isSome = true → (a = 9 ∨ s.lineCached l = true) → s.fab.agentState l a ∈ q.2.2.1 →
        (∀ x ∈ s.fab.asks, ¬(x.line = l ∧ x.agent = a)) →
        exec q.1 s = .next { s with fab := { s.fab with
          asks := s.fab.asks ++ [{ line := l, agent := a, write := decide (q.2.1 ≠ .getS), at_ := s.lcc }] } })) ∧
    (∀ q ∈ [(Instr.homePutm, Request.putM), (.homePuto, .putO), (.homePute, .putE)],
      (s.fab.nextToHub a = some (l, .put q.2) → d.cached = true → d.trans = .stable → d.queue = [] →
        leaves q.1 (d.take q.2 a).1 (d.take q.2 a).2) ∧
      (s.fab.nextToHub a = some (l, .put q.2) → d.cached = true → d.queue = [] → d.own = a →
        (∀ req, d.trans = .bS req →
          leaves q.1 { d with st := 1, own := 0, shr := d.shr ||| ((1 : BitVec 10) <<< req.toNat), trans := .stable } [(req, .dataS), (a, .putAck)]) ∧
        (∀ req, d.trans = .bM req 0 false →
          leaves q.1 { d with st := 2, own := req, shr := 0, trans := .stable } [(req, .dataM), (a, .putAck)]) ∧
        (∀ req acks, acks ≠ 0 → d.trans = .bM req acks false →
          leaves q.1 { d with trans := .bM req acks true } [(req, .dataM), (a, .putAck)])) ∧
      (s.fab.nextToHub a ≠ some (l, .put q.2) → exec q.1 s = .next s)) ∧
    (∀ req m upg, s.fab.nextToHub a = some (l, .invAck) → d.trans = .acks req m upg → d.queue = [] →
      (m &&& ~~~((1 : BitVec 10) <<< a.toNat) = 0 →
        leaves .homeInvAck { d with st := 2, own := req, shr := 0, trans := .stable } [(req, if upg then .upgAck else .dataM)]) ∧
      (m &&& ~~~((1 : BitVec 10) <<< a.toNat) ≠ 0 →
        leaves .homeInvAck { d with trans := .acks req (m &&& ~~~((1 : BitVec 10) <<< a.toNat)) upg } [])) ∧
    (∀ new, s.fab.nextToHub a = some (l, .fwdReply new) → d.queue = [] →
      (∀ req, d.trans = .bS req → new = .o →
        leaves .homeFwdReply { d with st := 3, own := a, shr := d.shr ||| ((1 : BitVec 10) <<< req.toNat), trans := .stable } [(req, .dataS)]) ∧
      (∀ req, d.trans = .bS req → new ≠ .o →
        leaves .homeFwdReply { d with st := 1, own := 0, shr := ((1 : BitVec 10) <<< a.toNat) ||| ((1 : BitVec 10) <<< req.toNat), trans := .stable }
          [(req, .dataS)]) ∧
      (∀ req m, m ≠ 0 → d.trans = .bM req m false → leaves .homeFwdReply { d with trans := .bM req m true } [(req, .dataM)]) ∧
      (∀ req, d.trans = .bM req 0 false →
        leaves .homeFwdReply { d with st := 2, own := req, shr := 0, trans := .stable } [(req, .dataM)])) ∧
    (d.trans = .fill → d.queue = [] → leaves .directoryFill { d with trans := .stable, cached := true } []) ∧
    (d.trans ≠ .fill → exec .directoryFill s = .next s)

/-- The home: its table and its rows (R362, R363, R370 to R373). -/
def Obligations.HomesAct : Prop :=
  Sys2Proof.Claims.HomeDirectoryTable ∧ Sys2Proof.Claims.HomeRowsAct


/-- The agents' rows (R372 to R374): the state that an agent takes for a line and what it answers to each message that has
reached it over a link that is up, by the state in which it finds the line; it answers none while an access to which it has been
given the line is still to perform. Data and upgrade grants give it the line, and the host's stores to it then perform. What an owner
in E has written silently is free. -/
def Sys2Proof.Claims.AgentsAnswer : Prop :=
  ∀ (s : State) (l : Nat) (a : AgentId), s.ev = .line l a →
    let now := s.fab.agentState l a
    let leaves (row : Instr) (st : AgentState) (answer : List AgentMsg) : Prop := ∃ f, exec row s = .next { s with fab := f } ∧
      f.agentState l a = st ∧ f.toHub = s.fab.toHub ++ answer.map fun m => (a, l, m)
    let asked (m : HomeMsg) : Prop := s.fab.nextToDie a = some (l, m) ∧ s.mayAnswer l a m = true
    (∀ q ∈ [(Instr.agentInv, HomeMsg.inv), (.agentFwdgets, .fwdGetS), (.agentFwdgetm, .fwdGetM), (.agentDataS, .dataS), (.agentDataE, .dataE),
        (.agentDataM, .dataM), (.agentUpgack, .upgAck), (.agentPutack, .putAck)],
      (s.fab.nextToDie a ≠ some (l, q.2) ∨ s.mayAnswer l a q.2 = false → exec q.1 s = .next s) ∧
      (q.2 = .inv ∨ q.2 = .fwdGetS ∨ q.2 = .fwdGetM → asked q.2 → now = .miA → leaves q.1 .miA [])) ∧
    (asked .inv →
      (now = .s ∨ now = .i → leaves .agentInv .i [.invAck]) ∧ (now = .smA ∨ now = .imD → leaves .agentInv .imD [.invAck]) ∧
      (now = .isD → leaves .agentInv .isD [.invAck]) ∧ (now = .o → leaves .agentInv .i [])) ∧
    (asked .fwdGetS →
      (now = .m ∨ now = .o → leaves .agentFwdgets .o [.fwdReply .o]) ∧
      (now = .e → s.wroteSilently l = true → leaves .agentFwdgets .o [.fwdReply .o]) ∧
      (now = .e → s.wroteSilently l = false → leaves .agentFwdgets .s [.fwdReply .s]) ∧
      (now = .smA → leaves .agentFwdgets .smA [.fwdReply .o])) ∧
    (asked .fwdGetM →
      (now = .m ∨ now = .o ∨ now = .e → leaves .agentFwdgetm .i [.fwdReply .i]) ∧
      (now = .smA → leaves .agentFwdgetm .imD [.fwdReply .i])) ∧
    (∀ q ∈ [(Instr.agentDataS, HomeMsg.dataS, AgentState.s), (.agentDataE, .dataE, .e), (.agentDataM, .dataM, .m), (.agentUpgack, .upgAck, .m)],
      asked q.2.1 → now = .isD ∨ now = .imD ∨ now = .smA →
      (a ≠ 9 → leaves q.1 q.2.2 []) ∧
      (∀ x, a = 9 → q.2.2 = .m → s.fab.hostStores = [x] → x.key / 192 = l → ∃ t, exec q.1 s = .next t ∧
        t.fab.agentState l a = .m ∧ t.fab.hostStores = [] ∧ t.mem = writeCells s.mem x.key x.bytes)) ∧
    (asked .putAck → now = .miA → leaves .agentPutack .i [])

/-- An eviction of a line that its agent holds (R374): the die's firn takes a remote line, in a free way or in that of its set's oldest
line, which leaves; where it takes none the line leaves with the Put of its state, one in S silently, one in E as exclusive or,
where it was written silently, as modified. -/
def Sys2Proof.Claims.EvictionsLeave : Prop :=
  ∀ (s : State) (l : Nat) (a : AgentId) (toFirn : Bool) (x : AgentLine), s.ev = .evict l a toFirn → s.fab.agentLine l a = some x →
    let leaves (st : AgentState) (answer : List AgentMsg) : Prop := ∃ f, exec .agentEviction s = .next { s with fab := f } ∧
      f.agentState l a = st ∧ f.toHub = s.fab.toHub ++ answer.map fun m => (a, l, m)
    (x.state.held = false → exec .agentEviction s = .next s) ∧
    (x.state.held = true → s.firnTakes x = false →
      (toFirn = true → exec .agentEviction s = .next s) ∧
      (toFirn = false →
        (x.state = .s → leaves .i []) ∧ (x.state = .m → leaves .miA [.put .putM]) ∧ (x.state = .o → leaves .miA [.put .putO]) ∧
        (x.state = .e → s.wroteSilently l = false → leaves .miA [.put .putE]) ∧
        (x.state = .e → s.wroteSilently l = true → leaves .miA [.put .putM]))) ∧
    (x.state.held = true → s.firnTakes x = true →
      (((s.fab.agents.filter (s.sameSet x)).length < 16) → ∃ t y, exec .agentEviction s = .next t ∧ t.fab.agentLine l a = some y ∧
        y.firn = true ∧ y.age = 0 ∧ y.state = x.state ∧ SameMemory s t ∧
        ∀ z ∈ s.fab.agents, s.sameSet x z = true → z.way ≠ y.way) ∧
      (∀ y, 16 ≤ (s.fab.agents.filter (s.sameSet x)).length → s.firnVictim x = some y →
        exec .agentEviction s = .next ((s.leaveAgent y).firnFill x)))

/-- The agents: their answers and their evictions (R372 to R374). -/
def Obligations.AgentRowsAct : Prop :=
  Sys2Proof.Claims.AgentsAnswer ∧ Sys2Proof.Claims.EvictionsLeave

/-! ### The host's answers and waiting records -/

/-- The host's answers, and what waits. A translation from the host is entered in place of the page's old one, in the partition
and PASID that asked, with the threads whose request it grants executing again (R303, R304, R306); of the page requests
outstanding at the host, Success ends those of the page and every other answer fails them for each access that awaits it
(R304), of threads and engines as of the units of the device; an invalidation removes the translations in its range and no others, and its completion is owed until the accesses
that they served have performed (R305, R310); a fault record is posted in its order or waits, those of kind 0x02 being
discarded then, but not where its ring waits for a page, and one of kind 0x06 that is posted ends its thread (R309, R390); room in the moraine ring frees the threads
that wait for it, once every record owed has been posted (R381, R383); REPLAY_TURN and HELD_ACCESS_RETRY try again (R386, R435). -/
def Obligations.HostAnswersAccesses : Prop :=
  ∀ (s : State) (dc : DctxId) (d : Dctx), s.dctx? dc = some d →
    let at_ (va : BitVec 64) (page : BitVec 64) : Prop := page.toNat = va.toNat / 4096
    let freed (va : BitVec 64) (t : State) : Prop :=
      ∀ u ∈ t.threads, handleDctx u.handle = dc → u.waitsFor (BitVec.ofNat 64 (va.toNat / 4096)) = false
    let owes (ds : List Dctx) (retry : Bool) (t : State) : Prop :=
      ∃ e, t.dctx? dc = some e ∧ e.invals = d.invals ++ [{ dctxs := ds.map (·.id), since := s.lcc, retry := retry }]
    (∀ va hpa r w x, s.ev = .page dc va hpa r w x → ∃ t, exec .atsCompletion s = .next t ∧ SameMemory s t ∧ t.tlb = s.tlb ∧
      (∀ e, e ∈ t.host ↔ ((r || w || x) = true ∧ e.part = d.part ∧ e.pasid = d.pasid ∧ at_ va e.page ∧ e.hpa = hpa ∧ e.r = r ∧ e.w = w ∧
          e.x = x ∧ e.level = s.delegatedAt d va) ∨
        (e ∈ s.host ∧ ¬(e.part = d.part ∧ e.pasid = d.pasid ∧ at_ va e.page))) ∧
      ((∃ q ∈ d.pages, q.failed = false ∧ at_ va q.page ∧ (if q.write then w else if q.fetch then x else r) = true) → freed va t)) ∧
    (∀ va answer, s.ev = .answer dc va answer →
      ((∃ q ∈ d.pages, at_ va q.page ∧ s.outstanding d q = true) → ∃ t e, exec .priResponse s = .next t ∧ SameMemory s t ∧ freed va t ∧
        t.dctx? dc = some e ∧
        (answer = .success → ∀ q, q ∈ e.pages ↔ q ∈ d.pages ∧ ¬(at_ va q.page ∧ s.outstanding d q = true)) ∧
        (answer = .success → ∀ h ∈ t.host, ¬(h.part = d.part ∧ h.pasid = d.pasid ∧ at_ va h.page)) ∧
        (answer ≠ .success → t.host = s.host ∧ (∀ q ∈ e.pages, at_ va q.page → q.failed = true) ∧
          (∀ q ∈ d.pages, at_ va q.page → q.device = true → { q with failed := true } ∈ e.pages) ∧
          (∀ u ∈ s.threads, handleDctx u.handle = dc → u.waitsFor (BitVec.ofNat 64 (va.toNat / 4096)) = true →
            ∃ v ∈ t.threads, v.handle = u.handle ∧ v.wait = none ∧ v.refused = some (BitVec.ofNat 64 (va.toNat / 4096))) ∧
          (∀ u ∈ s.threads, handleDctx u.handle = dc → ∀ x ∈ u.bxq, (∃ a, x.waitPage = some a ∧ a.toNat / 4096 = va.toNat / 4096) →
            ∃ v ∈ t.threads, v.handle = u.handle ∧ { x with refused := true } ∈ v.bxq))) ∧
      ((∀ q ∈ d.pages, at_ va q.page → s.outstanding d q = false) → exec .priResponse s = .next s)) ∧
    (∀ va count, s.ev = .pages dc va count →
      let ds := s.dctxsOf d.part (some d.pasid.toNat)
      ∃ t, exec .atsInvalidation s = .next t ∧ SameMemory s t ∧ t.tlb = s.tlb ∧ owes ds false t ∧
        ∀ e, e ∈ t.host ↔ e ∈ s.host ∧ ¬((∃ x ∈ ds, e.part = x.part ∧ e.pasid = x.pasid) ∧ va.toNat / 4096 ≤ e.page.toNat ∧
          e.page.toNat < va.toNat / 4096 + count)) ∧
    (∀ va, s.ev = .invalidate dc va →
      let ds := s.dctxsOf d.part (va.map fun _ => d.pasid.toNat)
      ∃ t, exec .hostInvalidationRequest s = .next t ∧ SameMemory s t ∧ owes ds true t ∧
        ∀ e, e ∈ t.tlb ↔ e ∈ s.tlb ∧ ¬((∃ x ∈ ds, e.dc = x.id) ∧ ∀ a, va = some a → e.covers a = true)) ∧
    (s.ev = .dctx dc →
      (d.fqWait = [] → exec .faultRecordPost s = .next s) ∧
      (∀ r rest, d.fqWait = r :: rest →
        (s.postFault d r = .full → exec .faultRecordPost s = .next ((s.dropActionFaults dc).faultWaits dc)) ∧
        (∀ a w f, s.postFault d r = .failed (.page a w f) →
          exec .faultRecordPost s = .next ((s.askPage dc a w f).modDctx dc fun d => { d with fqOvf := true })) ∧
        (∀ x a w f p, s.postFault d r = .failed (.fail x a w f p) → ∃ t e, exec .faultRecordPost s = .next t ∧ t.dctx? dc = some e ∧
          e.fqWait = d.fqWait.filter (fun q => decide (q.kind ≠ 0x02))) ∧
        (∀ s1, s.postFault d r = .posted s1 →
          let t := s1.modDctx dc fun d => { d with fqWait := rest }
          (r.kind ≠ 0x06 → exec .faultRecordPost s = .next t) ∧
          (r.kind = 0x06 → exec .faultRecordPost s = .next (t.endNow r.handle)))) ∧
      (s.ringRoom d 1 = false → exec .moraineRingSpace s = .next s) ∧
      (s.ringRoom d 1 = true → ∃ t, exec .moraineRingSpace s = .next t ∧
        (t.owes dc = false → ∀ u ∈ t.threads, handleDctx u.handle = dc → u.waitsKind .moraine = false) ∧
        ((∀ u ∈ s.threads, u.moraineDebt = []) → SameMemory s t)) ∧
      (d.heldItems = [] → exec .heldAccessRetry s = .next s) ∧
      (∀ r o, d.heldItems = [.packet r] → s.packetAt d r = .ok o → exec .heldAccessRetry s = .next (s.unhold dc (.packet r))) ∧
      (∀ slot l, d.heldItems = [.launchRecord slot] → s.launch? dc slot = some l →
        exec .heldAccessRetry s = .next (s.completeLaunch d l))) ∧
    (∀ i, waitsAt s .replay i →
      exec .replayTurn s =
        .next (if s.actsOn s.th.handle = 2 ∨ s.replayNext = true then { s with th := { s.th with wait := none } } else s)) ∧
    (s.th.wait = none → exec .replayTurn s = .next s)

/-! ### The command processor -/

/-- A kick moves the tail of its ring, where it may, or counts an error (R317). The packet at a ring's head, when the ring's
turn has come (R327): NOP passes; SIGNAL adds its value; a packet that breaks its form is refused with code 0x0A; and
LAUNCH is fetched into a free slot or refused with its code (R318, R319, R321, R324, R325). The head moves on and its index
is written to headw (R318). -/
def Obligations.RingsAndPackets : Prop :=
  ∀ (s : State) (dc : DctxId) (d : Dctx), s.dctx? dc = some d →
    (∀ r tail x, s.ev = .kick dc r tail → d.rings[r.toNat]? = some x → ∃ t e, exec .kickWrite s = .next t ∧ SameMemory s t ∧ t.dctx? dc = some e ∧
      e.rings[r.toNat]? = some (
        if x.enabled = true ∧ x.tail.toNat ≤ tail.toNat ∧ tail.toNat - x.head.toNat ≤ 2 ^ x.lg then { x with tail := tail }
        else { x with errors := x.errors + 1 }) ∧
      ∀ k, k ≠ r.toNat → e.rings[k]? = d.rings[k]?) ∧
    (∀ r, s.ev = .ring dc r →
      (s.packetAt d r = .ok none → ∀ i ∈ [Instr.packetNop, .packetSignal, .packetLaunch], exec i s = .next s) ∧
      (∀ bs, s.packetAt d r = .ok (some bs) →
        (packetBad bs = false → packetKind bs = 0 ∨ packetKind bs = 2 → s.takeTurn dc r = none →
          exec .packetNop s = .next s ∧ exec .packetSignal s = .next s) ∧
        (∀ a, s.takeTurn dc r = some a →
          (packetBad bs = true → exec .packetLaunch s = .next ((a.passHead dc r).reportPacket d r bs 2 0x0A false)) ∧
          (packetBad bs = false →
            (packetKind bs = 0 → exec .packetNop s = .next (a.passHead dc r)) ∧
            (∀ sp, packetKind bs = 2 → a.counterSpans d (packetTarget bs) = .ok sp →
              exec .packetSignal s = .next (((a.addSpans sp (fieldAt bs 32 8)).passHead dc r).reportPacket d r bs 0 0 false)) ∧
            (∀ slot code, packetKind bs = 1 → s.freeLaunchSlot dc = some slot → s.describe d (packetTarget bs) = .error (.refuse code none) →
              exec .packetLaunch s = .next ((a.passHead dc r).reportPacket d r bs 2 code false)))) ∧
        (packetBad bs = false → packetKind bs = 1 →
          (s.freeLaunchSlot dc = none → exec .packetLaunch s = .next s) ∧
          (∀ slot info lg n late, s.freeLaunchSlot dc = some slot → s.describe d (packetTarget bs) = .ok (info, lg, n, late) →
            ∃ t l, exec .packetLaunch s = .next t ∧ SameMemory s t ∧ t.launches = s.launches ++ [l] ∧ l.dc = dc ∧ l.slot = slot ∧ l.info = info ∧
              l.threads = n ∧ l.refusal = late ∧ l.state = (if info.deps.isEmpty then .admitting else .waiting) ∧ l.fetched = s.lcc)))) ∧
    (∀ r x, r.toNat < 64 → d.rings[r.toNat]? = some x →
      (∃ e, (s.passHead dc r).dctx? dc = some e ∧ (∀ sp, s.deviceSpans d x.headw 8 false = .ok sp →
        e.rings[r.toNat]? = some { x with head := x.head + 1, atHead := none })) ∧
      (∀ sp, s.deviceSpans d x.headw 8 false = .ok sp →
        (s.passHead dc r).mem = storedMemory.spansWritten s.mem sp (leBytes 8 (x.head.toNat + 1))))

/-- The life of a launch. A waiting launch keeps the counters that read below their thresholds and leaves `waiting` when none
is left (R326); an admitted one is bound with its gangs waiting in their order, with its launch record where it records and its
divergences counted from 0 where it replays, or refused with binding's code (R329, R334, R380, R385); a
gang that may be dispatched becomes resident on its core (R330, R331); one that must make room is preempted, its slice being
over or at once (R332), or for a thread in the arbiter's FIFO that a barrier awaits (R18, R50), and joins the waiting list at its end; a finished launch posts its record and adds to its
counter, which publishes what it has written, and frees its slot (R320); and the energy meter moves the
partition's cap (R334, R335). -/
def Obligations.LaunchesRun : Prop :=
  (∀ (s : State) (dc : DctxId) (slot : LaunchSlot) (d : Dctx) (l : Launch), s.dctx? dc = some d → s.launch? dc slot = some l →
    (s.ev = .launch dc slot →
      (l.state ≠ .waiting → exec .dependenceMet s = .next s) ∧
      (∀ v : BitVec 64 → Nat, l.state = .waiting → (∀ x ∈ l.info.deps, ∃ bs sp, s.deviceRead d x.1 8 = .ok (bs, sp) ∧ leNat bs = v x.1) →
        ∃ t m, exec .dependenceMet s = .next t ∧ SameMemory s t ∧ t.launch? dc slot = some m ∧
          (∀ x, x ∈ m.info.deps ↔ x ∈ l.info.deps ∧ v x.1 < x.2.toNat) ∧ (m.state = .admitting ↔ m.info.deps = []) ∧ m.cores = l.cores) ∧
      (s.mayAdmit d l = false → exec .launchAdmit s = .next s) ∧
      (∀ a m code, s.mayAdmit d l = true → s.takeTurn dc l.ring = some a → a.bindLaunch d (l.sampled d) = .ok (m, code) →
        let b := (if l.info.mode = 2 then a.logRead d (a.replayCores d (l.sampled d)) else a).passHead dc m.ring
        let bound (w : Launch) : Prop := w.state = .binding ∧ w.info = m.info ∧ w.threads = m.threads ∧ w.cores = m.cores ∧
          w.waiting = (List.range (m.threads / max 1 m.gang)).filter fun g => s.isHere d.part m (g * m.gang)
        (code ≠ 0 → exec .launchAdmit s =
          .next ((b.dropLaunch dc slot).tryRecord dc (launchRecord 2 code m.tag m.ring dc false 0 0 0) m.cring m.csig (some m.header) false)) ∧
        (code = 0 → m.info.mode = l.info.mode → ∃ w, bound w ∧
          (l.info.mode ≠ 1 → l.info.mode ≠ 2 → exec .launchAdmit s = .next (b.modLaunch dc slot fun _ => w)) ∧
          (l.info.mode = 1 → exec .launchAdmit s =
            .next (((b.modLaunch dc slot fun _ => w).postMoraine dc w.moraineRecord).getD (b.modLaunch dc slot fun _ => w))) ∧
          (l.info.mode = 2 → exec .launchAdmit s =
            .next ((b.modLaunch dc slot fun _ => w).modDctx dc fun d => { d with mpdiv := 0 })))) ∧
      (l.state ≠ .done → s.launchOver l = false → exec .launchCompletion s = .next s) ∧
      (l.state = .done ∨ s.launchOver l = true →
        let add (x : State) : State := if l.csig = 0 then x else x.deviceAdd d l.csig 1
        let left (x : State) : State := ((x.published fun h => decide (handleLaunch h = handleLaunch (l.handle 0))).unhold dc
          (.launchRecord slot)).dropLaunch dc slot
        l.csig = 0 ∨ (∃ sp, s.counterSpans d l.csig = .ok sp) →
        (l.cring = 0 → exec .launchCompletion s = .next (left (add s))) ∧
        (∀ s1, l.cring ≠ 0 →
          s.postRing d l.cring 1 (fun _ => launchRecord 0 0 l.tag l.ring dc false l.ended (l.started.getD 0) s.cyc) = .posted s1 →
          exec .launchCompletion s = .next (left (add s1))))) ∧
    (∀ g, s.ev = .gang dc slot g →
      (∀ c chosen, l.waiting.contains g = true → s.gangNeeds l g ≠ [] → s.isHere d.part l (g * l.gang) = true →
        (s.mayDispatch l g = none → exec .gangDispatch s = .next s) ∧
        (s.mayDispatch l g = some (c, chosen) → l.started.isSome = true →
          exec .gangDispatch s = .next ((s.gangNeeds l g).foldl (fun (a : State) n => a.settle (l.handle n) (s.memberCore l c n))
            (s.modLaunch dc slot fun l =>
              { l with waiting := l.waiting.erase g, resident := l.resident ++ [(g, BitVec.ofNat 13 c, s.lcc)]
                       left := l.left.filter fun (k, _) => decide (k ≠ g), instances := chosen
                       promised := l.promised.filter fun (k, _) => decide (k ≠ g) })))) ∧
      (∀ w, s.makesRoomFor l g (fun _ => true) = some w → exec .preemption s = .next (s.preempt l g (some w))) ∧
      (s.makesRoomFor l g (fun _ => true) = none →
        exec .preemption s = .next (if (s.fifoVictim l).any (fun x => decide (x.2 = g)) then s.preempt l g none else s)) ∧
      (∀ w s1 m, s.stopAll (s.gangResident l g) = some s1 →
        ((s.gangResident l g).foldl (fun (a : State) t => a.saveThread t.handle) (s1.promise l g w)).launch? dc slot = some m →
        ∃ m', (s.preempt l g w).launch? dc slot = some m' ∧ m'.waiting = m.waiting ++ [g]) ∧
      (exec .sliceExpiry s = .next (
        if (l.resident.any fun (k, _, since) => decide (k = g) && decide (since + s.sliceCycles dc ≤ s.lcc)) &&
          s.mustLeave l g (fun w => decide (w.prio = l.prio)) then { s with agenda := .event .preemption (.gang dc slot g) :: s.agenda }
        else s)))) ∧
  (∀ (s : State) p window projected, s.ev = .meter p window projected →
    ∃ t, exec .energyMeterUpdate s = .next t ∧ SameMemory s t ∧ t.th = s.th ∧ (t.part p).metered = window ∧
      (t.part p).cap = (if (s.part p).budget < projected then max 1 ((s.part p).cap - 1)
        else if projected * 16 < 15 * (s.part p).budget then min 16 ((s.part p).cap + 1) else (s.part p).cap) ∧
      ∀ q, q ≠ p → t.part q = s.part q)

/-! ### Errors, resets, other packages -/

/-- Errors and what they reset. A corrected error is only logged; an uncorrectable one poisons its register or sector, or
resets what its class names (R342 to R346); what a failed link still carried is gone, and the failure is fatal to its
partition, on the M-die to all (R350, R364), and to the module where no partition could report it (the model's choice, log 141);
a stop not honoured in 1 ms resets the partition, reason 0x05 (R352); PARTITION_RESET, which waits for moves under way (R20)
and for the host pages that its records need, destroys the partition's device contexts, threads and launches, then scrubs its memory and leaves it ready (R353). -/
def Sys2Proof.Claims.ErrorsAndResets : Prop :=
  ∀ (s : State),
    let all (reason : BitVec 8) : List Turn := [.event .partitionReset (.reset 0 reason), .event .partitionReset (.reset 1 reason),
      .event .partitionReset (.reset 2 reason), .event .partitionReset (.reset 3 reason)]
    (∀ u ok, s.ev = .ecc u ok → ∃ t, exec .eccError s = .next t ∧ SameMemory s t ∧
      (ok = true → t.th = s.th ∧ t.poison = s.poison ∧ t.agenda = s.agenda) ∧
      (∀ q b, ok = false → u = .memorySector q b → (∀ h o, s.areaAt (48 * q) = some (h, o) → 256 ≤ o) →
        t.poison = insertNat q s.poison ∧ t.th = s.th ∧ t.agenda = s.agenda) ∧
      (∀ h r, ok = false → u = .gReg h r → s.th.exists = true → s.th.handle = h → t.poison = s.poison ∧ t.th.arch = s.th.arch ∧
        t.th.poison = (if r = 0 then s.th.poison else { s.th.poison with g := s.th.poison.g ||| (1 <<< r.toNat) })) ∧
      (∀ die b a p, ok = false → u = .directory die b a → s.spokePart die.toNat = some p →
        t.agenda = s.agenda ++ [.event .partitionReset (.reset p 0x02)]) ∧
      (∀ l b w i, ok = false → u = .cxlDirectory l b → s.windowAt (192 * l) = some (i, w) →
        t.agenda = s.agenda ++ [.event .partitionReset (.reset w.part 0x02)]) ∧
      (∀ k, ok = false → u = .walkCache k → t.tlb = s.tlb.eraseIdx k ∧ t.th = s.th ∧ t.agenda = s.agenda) ∧
      (∀ k, ok = false → u = .cirqueQueue k → t.agenda = s.agenda ++ all 0x04 ++ [.event .moduleReset .none])) ∧
    (∀ d, s.ev = .die d →
      (exec .linkCrcRetry s = .next (s.logLink 1 d.toNat (((s.spokePart d.toNat).map (·.toNat)).getD 0xFF))) ∧
      (∀ p, d ≠ 8 → s.spokePart d.toNat = some p → ∃ t, exec .linkIntegrityFailure s = .next t ∧ SameMemory s t ∧ t.th.arch = s.th.arch ∧
        t.mod.linksDown = s.mod.linksDown ||| ((1 : BitVec 10) <<< d.toNat) ∧ (∀ x ∈ t.fab.asks, x.agent ≠ BitVec.ofNat 4 d.toNat) ∧
        (∀ x ∈ t.th.departures, x ∈ s.th.departures ∧ ¬(x.sent = true ∧ s.crossesLink s.th x d.toNat = true)) ∧
        (∀ m, m ∈ t.fab.toDie ↔ m ∈ s.fab.toDie ∧ m.1 ≠ BitVec.ofNat 4 d.toNat) ∧
        t.agenda = s.agenda ++ [.event .partitionReset (.reset p 0x03)]) ∧
      (d ≠ 8 → s.spokePart d.toNat = none → exec .linkIntegrityFailure s = .next s) ∧
      (d = 8 → ∃ t, exec .linkIntegrityFailure s = .next t ∧ t.mod.linksDown.getLsbD 8 = true ∧
        ((∃ p, (s.part p).abortRing.isSome = true) → t.agenda = s.agenda ++ all 0x03) ∧
        ((∀ p, (s.part p).abortRing = none) → t.agenda = s.agenda ++ all 0x04 ++ [.event .moduleReset .none]))) ∧
    (∀ p, s.ev = .part p →
      ((∀ u ∈ s.threads, s.partOf u.handle = some p → ∀ at_, u.stopAsked = some at_ → s.lcc < at_ + 4400000) →
        exec .stopWatchdogExpiry s = .next s) ∧
      (∀ u at_, u ∈ s.threads → s.partOf u.handle = some p → u.stopAsked = some at_ → at_ + 4400000 ≤ s.lcc →
        ∃ t, exec .stopWatchdogExpiry s = .next t ∧ t.agenda = s.agenda ++ [.event .partitionReset (.reset p 0x05)] ∧
          ∀ v ∈ t.threads, s.partOf v.handle = some p → v.stopAsked = none)) ∧
    (∀ p reason, s.ev = .reset p reason →
      ((s.part p).resetting.isSome = true ∨ (s.part p).resetAsked.isSome = true → exec .partitionReset s = .next s) ∧
      ((s.part p).resetting = none → (s.part p).resetAsked = none →
        (s.resetHeld p = true → exec .partitionReset s = .next (s.modPart p fun x => { x with resetAsked := some reason })) ∧
        (s.resetHeld p = false → ∃ t, exec .partitionReset s = .next t ∧ (t.part p).resetting = some (reason, s.cyc) ∧
          (∀ x ∈ t.dctxs, x ∉ s.dctxsOf p none) ∧
          (∀ u ∈ t.threads, u.exists = true → ∀ x ∈ s.dctxsOf p none, handleDctx u.handle ≠ x.id) ∧
          (∀ l ∈ t.launches, ∀ x ∈ s.dctxsOf p none, l.dc ≠ x.id)))) ∧
    (∀ p, s.ev = .part p →
      ((s.part p).resetting = none → exec .partitionReset s = .next s) ∧
      (∀ was, (s.part p).resetting = some was → ∃ t, exec .partitionReset s = .next t ∧ (t.part p).resetting = none ∧ (t.part p).images = [] ∧
        (t.part p).cap = 16 ∧ t.mod.linksDown = s.mod.linksDown &&& ~~~(s.part p).spokes ∧ (s.mod.mbWait = some p → t.mod.mbWait = none) ∧
        (∀ c ∈ t.mem, c.1 < hostBase → s.installed p c.1 = false) ∧
        ∀ k, hostBase ≤ k → readCell t.mem k = readCell s.mem k))

/-- Deliveries from another package act in the device context of their number where it is the port's partition's (R423):
a write stores its bytes, a read stores nothing and its data goes back; each is acknowledged, or refused with its reason, with
0x20 where there is no such context or its partition is under reset, and one that needs a page of the host waits for it (what a read of
poison answers is the model's choice, log 128); and an element that left the package is completed by its acknowledgement,
or reported with its refusal, or with reason 0x21 after 100 ms. -/
def Sys2Proof.Claims.PackagesExchangeDeliveries : Prop :=
  ∀ (s : State),
    (∀ x, s.ev = .delivery x →
      let answer (refusal : Option (BitVec 8)) (data : List (BitVec 8)) : RemoteReply :=
        { port := x.port, number := x.number, refusal := refusal, data := data }
      ((∀ p, (s.part p).ports.getLsbD x.port.toNat = false) → exec .remoteDeliveryReceive s = .next s) ∧
      (∀ p, allParts.find? (fun p => (s.part p).ports.getLsbD x.port.toNat) = some p →
        (s.dctx? x.dc = none → exec .remoteDeliveryReceive s = .next (s.reply x (some 0x20))) ∧
        (∀ d, s.dctx? x.dc = some d →
          (d.part ≠ p ∨ (s.part p).resetting.isSome = true → exec .remoteDeliveryReceive s = .next (s.reply x (some 0x20))) ∧
          (d.part = p → (s.part p).resetting = none → ∃ t, exec .remoteDeliveryReceive s = .next t ∧
            (∀ sp, x.kind = .write → s.translate d (deviceAccess false true) x.addr x.bytes = .ok sp →
              t.mem = storedMemory.spansWritten s.mem sp (leBytes x.bytes x.value) ∧ t.replies = s.replies ++ [answer none []]) ∧
            (x.kind = .read → SameMemory s t) ∧
            (∀ sp, x.kind = .read → s.translate d (deviceAccess true false) x.addr x.bytes = .ok sp →
              (spanPoison s.poison sp 0 = none → t.replies = s.replies ++ [answer none (s.spanBytes sp)]) ∧
              ((spanPoison s.poison sp 0).isSome = true → t.replies = s.replies ++ [answer (some 0x33) []])) ∧
            (∀ r a w f p, x.kind = .read → s.translate d (deviceAccess true false) x.addr x.bytes = .error (.fail r a w f p) →
              t.replies = s.replies ++ [answer (some r) []]) ∧
            (∀ a w f, x.kind = .read → s.translate d (deviceAccess true false) x.addr x.bytes = .error (.page a w f) →
              t.arriving = s.arriving ++ [x] ∧ t.replies = s.replies))))) ∧
    (∀ n x, s.ev = .index n → s.arriving[n]? = some x →
      exec .remoteDeliveryReceive s = .next (({ s with arriving := s.arriving.eraseIdx n } : State).takeDelivery x)) ∧
    (∀ n refusal, s.ev = .ack n refusal →
      ((s.awayAt n).isSome = false → exec .remoteAck s = .next s) ∧
      ((s.awayAt n).isSome = true → exec .remoteAck s = .next (s.answered n refusal))) ∧
    (∀ n e, s.ev = .index n → s.awayAt n = some e →
      (e.left + 440000000 ≤ s.lcc → exec .remoteTimeout s = .next (s.answered n (some 0x21))) ∧
      (s.lcc < e.left + 440000000 → exec .remoteTimeout s = .next s)) ∧
    (∀ n up, s.ev = .port n up → ∃ t, exec .ultraEthernetLinkChange s = .next t ∧
      (∀ k : Nat, k < 8 → t.mod.ueUp.getLsbD k = (if k = n.toNat then up else s.mod.ueUp.getLsbD k)) ∧
      { t with mod := s.mod } = s)

/-- Errors and the resets that they cause, and deliveries between packages (R342 to R353, R421 to R423). -/
def Obligations.ErrorsResetsAndDeliveries : Prop :=
  Sys2Proof.Claims.ErrorsAndResets ∧ Sys2Proof.Claims.PackagesExchangeDeliveries


/-! ### The register BAR and the management controller -/

/-- Writes of the register BAR while the controller is ready: `ttq` sets the pair's travel time (R368), the mailbox's
payload takes 8 bytes, an unknown opcode returns code 1 and one whose payload is too long code 2, a command while one runs
is discarded, and every other offset discards (R416, R424, R425). A controller that is not ready discards all (R432). A store of the
host to device memory performs where agent 9 holds its line, and else waits for it (R369, R373, R416). -/
def Sys2Proof.Claims.RegisterBarWrites : Prop :=
  ∀ (s : State),
    (∀ v, s.ev = .value v →
      (s.mod.ready = false → exec .ttqWrite s = .next s) ∧
      (s.mod.ready = true → v.toNat % 2 ^ 13 < 4672 → v.toNat / 2 ^ 16 % 2 ^ 13 < 4672 → ∃ m, exec .ttqWrite s = .next { s with mod := m } ∧
        m.ttrTime = BitVec.ofNat 8 (travelTime (v.toNat % 2 ^ 13) (v.toNat / 2 ^ 16 % 2 ^ 13)) ∧ m.parts = s.mod.parts)) ∧
    (∀ off v, s.ev = .mmio off v →
      (s.mod.ready = false → exec .mmioRegisterWrite s = .next s) ∧
      (s.mod.ready = true →
        (off.toNat ≠ 0x30_0000 → ¬(0x30_1000 ≤ off.toNat ∧ off.toNat + 8 ≤ 0x30_2000 ∧ off.toNat % 8 = 0) →
          exec .mmioRegisterWrite s = .next s) ∧
        (off.toNat = 0x30_0000 →
          (s.mod.mbRun.isSome = true → v.toNat.testBit 32 = true → exec .mmioRegisterWrite s = .next s) ∧
          (s.mod.mbRun = none → s.mod.mbQueue = [] → v.toNat.testBit 32 = true →
            (mailboxOps.contains (v.toNat % 2 ^ 16) = false → ∃ m, exec .mmioRegisterWrite s = .next { s with mod := m } ∧ m.mbRc = 1 ∧ m.mbGo = false) ∧
            (mailboxOps.contains (v.toNat % 2 ^ 16) = true → 4096 < v.toNat / 2 ^ 16 % 2 ^ 16 →
              ∃ m, exec .mmioRegisterWrite s = .next { s with mod := m } ∧ m.mbRc = 2 ∧ m.mbGo = false) ∧
            (v.toNat % 2 ^ 16 = 0x01 → v.toNat / 2 ^ 16 % 2 ^ 16 ≤ 4096 → ∃ m, exec .mmioRegisterWrite s =
              .next { s with mod := m, agenda := s.agenda ++ [.event .identify .none] } ∧ m.mbGo = true ∧
              m.mbRun = some { i3c := false, op := 0x01 }))) ∧
        (∀ k, off.toNat = 0x30_1000 + 8 * k → k < 512 → s.mod.mbData.length = 4096 → ∃ m, exec .mmioRegisterWrite s = .next { s with mod := m } ∧
          ∀ j, j < 4096 → m.mbData[j]? = (if 8 * k ≤ j ∧ j < 8 * k + 8 then some (BitVec.ofNat 8 (v.toNat / 2 ^ (8 * (j - 8 * k)))) else s.mod.mbData[j]?)))) ∧
    (∀ k bytes, s.ev = .hostStore k bytes → bytes ≠ [] → k / 192 = (k + bytes.length - 1) / 192 → (s.homeDie k).isSome = true →
      (s.fab.agentState (k / 192) 9 = .m → s.fab.hostStores = [] → ∃ t, exec .mmioRegisterWrite s = .next t ∧ t.mem = writeCells s.mem k bytes ∧
        t.fab.hostStores = []) ∧
      (s.fab.agentState (k / 192) 9 ≠ .m → s.fab.agentState (k / 192) 9 ≠ .e → ∃ t, exec .mmioRegisterWrite s = .next t ∧ SameMemory s t ∧
        t.fab.hostStores = s.fab.hostStores ++ [{ key := k, bytes := bytes }]))

/-- The turn of a command of an opcode has come: no other runs on either path (R424). -/
def Sys2Proof.Claims.turnOf (s : State) (op : Nat) : Prop :=
  (∀ r, s.mod.mbRun = some r → r.op.toNat = op) ∧ s.mod.mbWait = none ∧ ∀ x, s.mod.mbHeld = some x → x = s.ev

/-- A command that comes while another runs waits for it, in the order of arrival (R424); a command that ends gives the oldest that
waits its turn, and leaves its code where its path reads it. -/
def Sys2Proof.Claims.CommandsTakeTurns : Prop :=
  ∀ (s : State),
    (∀ q ∈ [(Instr.identify, 0x01), (.setPartition, 0x10), (.resetPartition, 0x11), (.setBudget, 0x12), (.setCarveout, 0x13), (.setAbortRing, 0x14),
        (.createDctx, 0x20), (.destroyDctx, 0x21), (.updateRing, 0x22), (.setIroute, 0x23), (.setCxlWindow, 0x30), (.setEndpoint, 0x31),
        (.readSensors, 0x40), (.readLog, 0x41), (.fwWrite, 0x50), (.fwActivate, 0x51), (.loadSupervisor, 0x52), (.setOwner, 0x53)],
      ¬Sys2Proof.Claims.turnOf s q.2 → exec q.1 s = .next { s with mod := { s.mod with mbQueue := s.mod.mbQueue ++ [(q.1, s.ev)] } }) ∧
    (∀ op rc i x rest, s.mod.mbQueue = (i, x) :: rest → (s.mbFinish op rc).agenda = .event i x :: s.agenda ∧ (s.mbFinish op rc).mod.mbQueue = rest) ∧
    (∀ op rc, op < 2 ^ 16 →
      (s.mod.mbRun = some { i3c := false, op := BitVec.ofNat 16 op } → (s.mbFinish op rc).mod.mbGo = false ∧
        (s.mbFinish op rc).mod.mbRc = BitVec.ofNat 16 rc ∧ (s.mbFinish op rc).mod.mbRun = none) ∧
      (s.mod.mbRun = none → (s.mbFinish op rc).mod.mbRc = s.mod.mbRc ∧
        (s.mbFinish op rc).mod.mbI3c = some (BitVec.ofNat 16 op, BitVec.ofNat 16 rc, [])))

/-- The commands about partitions and device contexts, in their turn: each returns code 3 while the partition is under reset, code 2 where
its limits are broken, and else has its effect and code 0: holdings that stand from the reset point that they cause, once nothing
holds it up (R20, R352), after which they return, a budget
within 4,000 W, a carve-out for the next reset, an abort ring, a device context from a sound descriptor, its rings and its
interrupt route (R314 to R316, R334, R348, R352, R354, R368, R425, R428). -/
def Sys2Proof.Claims.PartitionCommands : Prop :=
  ∀ (s : State),
    let answers (row : Instr) (op code : Nat) : Prop := exec row s = .next (s.mbFinish op code)
    let most (q : PartId) : Nat := ((s.holdings q).map fun x => x.2.2.2).foldl max 0
    (∀ p spokes windows ports channels, s.ev = .assign p spokes windows ports channels → turnOf s 0x10 →
      (s.busy p = true → answers .setPartition 0x10 3) ∧
      (s.busy p = false → 12 < (((allParts.filter fun q => decide (q ≠ p)).map most).foldl (· + ·) 0) + channels → answers .setPartition 0x10 2) ∧
      (s.busy p = false → (∀ q, q ≠ p → ∀ x ∈ s.holdings q, x.1 &&& spokes = 0 ∧ x.2.1 &&& windows = 0 ∧ x.2.2.1 &&& ports = 0) →
        (((allParts.filter fun q => decide (q ≠ p)).map most).foldl (· + ·) 0) + channels ≤ 12 → spokes &&& 0x300 = 0 →
        ∃ t, exec .setPartition s = .next t ∧ t.mod.mbWait = some p ∧
          (s.resetHeld p = false → (t.part p).spokes = spokes ∧ (t.part p).windows = windows ∧ (t.part p).ports = ports ∧
            (t.part p).channels = channels ∧ (t.part p).assign = none ∧ (t.part p).resetting = some (0x01, s.cyc)) ∧
          (s.resetHeld p = true → (t.part p).assign = some (spokes, windows, ports, channels) ∧ (t.part p).resetAsked = some 0x01))) ∧
    (∀ p, s.ev = .part p → turnOf s 0x11 →
      (s.busy p = true → answers .resetPartition 0x11 3) ∧
      (s.busy p = false → ∃ t, exec .resetPartition s = .next t ∧ t.mod.mbWait = some p ∧
        (s.resetHeld p = false → (t.part p).resetting = some (0x01, s.cyc)) ∧ (s.resetHeld p = true → (t.part p).resetAsked = some 0x01))) ∧
    (∀ p n, s.ev = .partVal p n → turnOf s 0x12 →
      let sum := (((allParts.filter fun q => decide (q ≠ p)).map fun q => (s.part q).budget).foldl (· + ·) 0) + n
      (s.busy p = true → answers .setBudget 0x12 3) ∧ (s.busy p = false → 4000 < sum → answers .setBudget 0x12 2) ∧
      (s.busy p = false → sum ≤ 4000 → exec .setBudget s = .next ((s.modPart p fun x => { x with budget := n }).mbFinish 0x12 0))) ∧
    (∀ v, s.ev = .value v → turnOf s 0x13 →
      (3 < v.toNat → answers .setCarveout 0x13 2) ∧
      (v.toNat ≤ 3 → exec .setCarveout s = .next (({ s with mod := { s.mod with carveNext := v.setWidth 2 } } : State).mbFinish 0x13 0))) ∧
    (∀ p desc, s.ev = .abortRing p desc → turnOf s 0x14 →
      (s.busy p = true → answers .setAbortRing 0x14 3) ∧ (s.busy p = false → desc.toNat % 48 ≠ 0 → answers .setAbortRing 0x14 2) ∧
      (s.busy p = false → desc.toNat % 48 = 0 →
        exec .setAbortRing s = .next ((s.modPart p fun x => { x with abortRing := some desc }).mbFinish 0x14 0))) ∧
    (∀ dc p desc, s.ev = .create dc p desc → turnOf s 0x20 →
      let b := readCells s.mem desc.toNat 96
      let d := dctxOf dc p b
      (s.busy p = true → answers .createDctx 0x20 3) ∧
      (s.busy p = false → desc.toNat % 192 ≠ 0 ∨ s.installed p desc.toNat = false → answers .createDctx 0x20 2) ∧
      (s.busy p = false → (poisonedSector s.poison desc.toNat 96).isSome = false →
        (s.dctx? dc).isSome = true ∨ descriptorSound b = false ∨ s.sentrySound d = false → answers .createDctx 0x20 2) ∧
      (∀ cap x sp, s.busy p = false → desc.toNat % 192 = 0 → s.installed p desc.toNat = true → (poisonedSector s.poison desc.toNat 96).isSome = false →
        s.dctx? dc = none → descriptorSound b = true → s.sentrySound d = true → s.deviceRead d d.capblk 64 = .ok (cap, x) →
        s.deviceSpans d (d.capblk + 32) 32 false = .ok sp → fieldAt cap 0 2 ≠ 0 →
        ∃ t e, exec .createDctx s = .next t ∧ t.dctx? dc = some e ∧ e.part = p ∧ e.pasid = d.pasid ∧ e.ptroot = d.ptroot ∧ e.sentry = d.sentry ∧
          e.fqdesc = d.fqdesc ∧ t.mem = storedMemory.spansWritten s.mem sp capabilityAnswer)) ∧
    (∀ dc, s.ev = .dctx dc → turnOf s 0x21 →
      (s.dctx? dc = none → answers .destroyDctx 0x21 2) ∧
      (∀ d, s.dctx? dc = some d →
        ((∃ l ∈ s.launches, l.dc = dc) ∨ d.heldItems.any HeldItem.ofLaunch = true → answers .destroyDctx 0x21 3) ∧
        ((∀ l ∈ s.launches, l.dc ≠ dc) → d.heldItems.any HeldItem.ofLaunch = false → ∃ t, exec .destroyDctx s = .next t ∧ t.dctx? dc = none))) ∧
    (∀ dc r, s.ev = .ring dc r → turnOf s 0x22 →
      (s.dctx? dc = none ∨ 64 ≤ r.toNat → answers .updateRing 0x22 2) ∧
      (∀ d x bs, s.dctx? dc = some d → r.toNat < 64 → s.deviceRead d (d.ringTable + BitVec.ofNat 64 (32 * r.toNat)) 32 = .ok (bs, x) →
        exec .updateRing s = .next ((s.modRing dc r fun y => ringOf d.pmax bs y).mbFinish 0x22 0)) ∧
      (∀ d a w f, s.dctx? dc = some d → r.toNat < 64 → s.deviceRead d (d.ringTable + BitVec.ofNat 64 (32 * r.toNat)) 32 = .error (.page a w f) →
        ∃ t, exec .updateRing s = .next t ∧ SameMemory s t ∧ t.mod.mbHeld = some s.ev ∧ t.mod.mbRun.isSome = true)) ∧
    (∀ dc h, s.ev = .iroute dc h → turnOf s 0x23 →
      (s.dctx? dc = none → answers .setIroute 0x23 2) ∧
      (∀ d, s.dctx? dc = some d → s.live h = false →
        exec .setIroute s = .next ((s.modDctx dc fun d => { d with iroute := h }).mbFinish 0x23 0)))

/-- Writes of the register BAR, and the commands about partitions and device contexts. -/
def Obligations.RegistersAndPartitionCommands : Prop :=
  Sys2Proof.Claims.RegisterBarWrites ∧ Sys2Proof.Claims.CommandsTakeTurns ∧ Sys2Proof.Claims.PartitionCommands


/-- The commands about the module, in their turn: identity, windows of second-tier memory and endpoint tables within their limits, sensors,
the log, the inactive firmware slot and its activation when it is signed and not below the floor, supervisor images, the
owner key; what ports and sensors bring about; and bring-up, with its fallback slot (R314, R356, R417 to R420, R422, R426 to
R429, R432). -/
def Obligations.ModuleCommands : Prop :=
  ∀ (s : State),
    let answers (row : Instr) (op code : Nat) : Prop := exec row s = .next (s.mbFinish op code)
    (turnOf s 0x01 → ∃ out bytes, exec .identify s = .next (s.mbFinish 0x01 0 out bytes) ∧ bytes.length ≤ 4096 ∧
      out = .identity 0x1_0001 0x15_4333_2222 (BitVec.ofNat 64 s.dienab)
        (s.mod.fw.toList.map fun f => f.image.map fun i => i.version) s.mod.fwActive) ∧
    (turnOf s 0x40 → ∃ bytes, exec .readSensors s = .next (s.mbFinish 0x40 0 (.sensors s.mod.sensors.toList) bytes) ∧ bytes.length = 312 ∧
      ∀ (k : Nat) (_ : k < 39), (bytes.drop (8 * k)).take 8 = sensorRecord (s.mod.sensors[k]).1 (s.mod.sensors[k]).2) ∧
    (turnOf s 0x41 → ∃ k, exec .readLog s = .next (s.mbFinish 0x41 0 (.log (s.mod.logFatal ++ s.mod.logGeneral))
      ((((s.mod.logFatal ++ s.mod.logGeneral).drop k).take 64).flatMap LogEntry.bytes))) ∧
    (∀ i p base size ports, s.ev = .window i p base size ports → turnOf s 0x30 →
      (s.busy p = true → answers .setCxlWindow 0x30 3) ∧
      (s.busy p = false → base.toNat % (3 * 2 ^ 29) ≠ 0 ∨ size.toNat % (3 * 2 ^ 29) ≠ 0 ∨ ports = [] ∨ 3 < ports.length →
        answers .setCxlWindow 0x30 2) ∧
      (∀ q b, s.busy p = false → base.toNat % (3 * 2 ^ 29) = 0 → size.toNat % (3 * 2 ^ 29) = 0 → cxlBase ≤ base.toNat → base.toNat + size.toNat ≤ 2 ^ 52 →
        ports = [(q, b)] → q ≠ 0 →
        b.toNat + size.toNat ≤ s.portUsable q.toNat → size.toNat ≤ s.cxlUsable → (∀ j, j ≠ i.toNat → ∀ h : j < 16, s.mod.windows[j] = none) →
        (∀ x, x ≠ p → (s.part x).windows.getLsbD i.toNat = false) →
        ∃ w : CxlWindow, w.part = p ∧ w.base = base.toNat ∧ w.size = size.toNat ∧ w.ports = [(q, b.toNat)] ∧
          exec .setCxlWindow s = .next ((s.setWindow i w).mbFinish 0x30 0) ∧
          (s.setWindow i w).mod = { s.mod with windows := s.mod.windows.set i.toNat (some w) } ∧
          (s.canonical → ∀ k, k < cxlBase → readCell (s.setWindow i w).mem k = readCell s.mem k))) ∧
    (∀ p rack table, s.ev = .endpoints p rack table → turnOf s 0x31 →
      (s.busy p = true → answers .setEndpoint 0x31 3) ∧ (s.busy p = false → endpointsSound rack table = false → answers .setEndpoint 0x31 2) ∧
      (s.busy p = false → endpointsSound rack table = true → exec .setEndpoint s =
        .next ((s.modPart p fun x => if rack then { x with rack := table.map (endpointEntry true) } else { x with node := table.map (endpointEntry false) }).mbFinish 0x31 0))) ∧
    (∀ n up, s.ev = .port n up →
      (n.toNat = 0 ∨ 3 < n.toNat → exec .cxlPortFailure s = .next s) ∧
      (1 ≤ n.toNat → n.toNat ≤ 3 → ∃ t, exec .cxlPortFailure s = .next t ∧ SameMemory s t ∧
        (∀ k : Nat, k < 4 → t.mod.cxlUp.getLsbD k = (s.mod.cxlUp.getLsbD k && (up || decide (k ≠ n.toNat)))))) ∧
    (∀ n v, s.ev = .sensor n v →
      (39 ≤ n.toNat → exec .sensorUpdate s = .next s) ∧
      (∀ h : n.toNat < 39, ∃ t, exec .sensorUpdate s = .next t ∧ SameMemory s t ∧
        t.mod.sensors[n.toNat] = (BitVec.ofNat 48 v, (s.mod.sensors[n.toNat]).2 + 1) ∧
        (∀ hd : n.toNat < 10,
          t.mod.heat[n.toNat] = (if 1050 < v then some (match s.mod.heat[n.toNat] with
            | none => 8
            | some k => max 1 (k - 1)) else if v < 1000 then none else s.mod.heat[n.toNat]) ∧
          (v ≤ 1150 → t.agenda = s.agenda) ∧ (1150 < v → t.agenda = s.agenda ++
            [.event .partitionReset (.reset 0 0x04), .event .partitionReset (.reset 1 0x04), .event .partitionReset (.reset 2 0x04),
             .event .partitionReset (.reset 3 0x04), .event .moduleReset .none])))) ∧
    (∀ image, s.ev = .firmware image → turnOf s 0x50 → exec .fwWrite s =
      .next (({ s with mod := { s.mod with fw := s.mod.fw.set (~~~s.mod.fwActive).toNat { image := some image, verified := false } } } : State).mbFinish 0x50 0)) ∧
    (turnOf s 0x51 →
     let slot := s.mod.fw[(~~~s.mod.fwActive).toNat]
     (slot.image = none → answers .fwActivate 0x51 4) ∧
     (∀ i, slot.image = some i →
      let good := s.signed (i.bytes ++ leBytes 4 i.version.toNat) i.signature
      (good = false → answers .fwActivate 0x51 4) ∧ (good = true → i.version.toNat < s.mod.fwFloor.toNat → answers .fwActivate 0x51 5) ∧
      (good = true → s.mod.fwFloor.toNat ≤ i.version.toNat → ∃ m, exec .fwActivate s = .next (({ s with mod := m } : State).mbFinish 0x51 0) ∧
        m.fwNext = ~~~s.mod.fwActive ∧ m.fwActive = s.mod.fwActive))) ∧
    (∀ part reserved src dst bytes, s.ev = .supervisor part reserved src dst bytes → turnOf s 0x52 →
      (3 < part.toNat ∨ reserved ≠ 0 → answers .loadSupervisor 0x52 2) ∧
      (part.toNat ≤ 3 → reserved = 0 → s.busy (part.setWidth 2) = true → answers .loadSupervisor 0x52 3) ∧
      (part.toNat ≤ 3 → reserved = 0 → s.busy (part.setWidth 2) = false →
        src.toNat % 8 ≠ 0 ∨ dst.toNat % 196608 ≠ 0 ∨ bytes.toNat < 208 → answers .loadSupervisor 0x52 2) ∧
      (∀ es, part.toNat ≤ 3 → reserved = 0 → s.busy (part.setWidth 2) = false → src.toNat % 8 = 0 → dst.toNat % 196608 = 0 → 208 ≤ bytes.toNat →
        let p : PartId := part.setWidth 2
        let n := bytes.toNat
        let image := (readCells s.mem src.toNat n).take (n - 112)
        let trailer := (readCells s.mem src.toNat n).drop (n - 112)
        let svn := BitVec.ofNat 32 (fieldAt trailer 4 4)
        s.installed p src.toNat = true → s.installed p (src.toNat + n - 1) = true → s.installed p dst.toNat = true →
        s.installed p (dst.toNat + (n - 113)) = true → (poisonedSector s.poison src.toNat n).isSome = false →
        supervisorEntries image = some es → fieldAt image 0x3C 4 + 112 = n → fieldAt trailer 0 4 = 0x4E47_4953 → zeroBytes (trailer.drop 104) = true →
        supervisorSound image = true → (s.part p).images = [] →
        (s.signed (image ++ leBytes 4 svn.toNat) ((trailer.take 104).drop 8) = false → answers .loadSupervisor 0x52 4) ∧
        (s.signed (image ++ leBytes 4 svn.toNat) ((trailer.take 104).drop 8) = true →
          (svn.toNat < s.mod.supFloor.toNat → answers .loadSupervisor 0x52 5) ∧
          (s.mod.supFloor.toNat ≤ svn.toNat → ∃ t, exec .loadSupervisor s = .next t ∧ t.mem = writeCells s.mem dst.toNat image ∧
            t.mod.supFloor = svn ∧ (t.part p).images = [{
              base := dst.toNat, bytes := n - 112, svn := svn, entries := es.map (dst.toNat + ·)
              texts := (imageTexts image).map fun x => (dst.toNat + x.1, x.2) }])))) ∧
    (∀ key sig, s.ev = .owner key sig → turnOf s 0x53 →
      (s.mod.owner = none → sig ≠ [] → answers .setOwner 0x53 4) ∧
      (s.mod.owner = none → sig = [] →
        exec .setOwner s = .next (({ s with mod := { s.mod with owner := some (Config.sha384 key) } } : State).mbFinish 0x53 0)) ∧
      (∀ h, s.mod.owner = some h → Config.signatureGood h key sig = false → answers .setOwner 0x53 4) ∧
      (∀ h, s.mod.owner = some h → Config.signatureGood h key sig = true →
        exec .setOwner s = .next (({ s with mod := { s.mod with owner := some (Config.sha384 key) } } : State).mbFinish 0x53 0))) ∧
    (s.mod.ready = true → (∃ p, (s.part p).resetAsked.isSome = true) →
      exec .moduleReset s = .next { s with mod := { s.mod with resetDue := true } }) ∧
    (s.mod.ready = true → exec .fwBootTimeout s = .next s ∧ ((∀ p, (s.part p).resetAsked = none) → ∃ t, exec .moduleReset s = .next t ∧ t.mod.ready = false ∧ t.th = State.reset.th ∧
      t.dctxs = [] ∧ t.launches = [] ∧ t.mod.boot = s.mod.boot + 1 ∧ t.mod.fwFloor = s.mod.fwFloor ∧ t.mod.owner = s.mod.owner ∧
      (∀ c ∈ t.mem, hostBase ≤ c.1) ∧ ∀ k, hostBase ≤ k → k < windowBase → readCell t.mem k = readCell s.mem k)) ∧
    (s.mod.ready = false →
      (s.slotGood (~~~s.mod.fwActive) = true → exec .fwBootTimeout s = .next { s with mod := { s.mod with fwActive := ~~~s.mod.fwActive } }) ∧
      (s.slotGood (~~~s.mod.fwActive) = false → exec .fwBootTimeout s = .next s) ∧
      (s.slotGood s.mod.fwActive = false → exec .moduleReset s = .next s) ∧
      (s.slotGood s.mod.fwActive = true → ∃ m, exec .moduleReset s = .next { s with mod := m } ∧ m.ready = true ∧ s.mod.fwFloor.toNat ≤ m.fwFloor.toNat ∧ m.fwNext = s.mod.fwActive))

namespace Sys2Proof.Claims
open Sys2Proof.Machine

/-- Nothing comes before the next instruction of the current thread (R289, R292, R333, R399): nothing is owed, nothing else
could happen, no other context shares the module, its partition waits for no reset, the thread stands at a boundary without a
wait, a posted stop, an interrupt or a migration that is due, and a cycle of its core begins in which it may issue. -/
structure AtRest (s : State) : Prop where
  owed : s.owed.isNone = true
  alone : s.candidates = []
  others : s.others = []
  place : s.th.place = .resident
  free : s.frozen s.th = false
  convoy : s.th.convoy = none
  going : s.th.parked = none ∧ s.th.held = false ∧ s.th.wait = none ∧ s.th.grant = false ∧ s.th.stepDue = false ∧ s.th.due = none ∧ s.th.halted = none
  quiet : s.takeSlot.sliceDue = false ∧ s.takeSlot.interruptDue = false ∧ s.takeSlot.releaseDue = false ∧ s.takeSlot.moveDue = false
  traps : s.takeSlot.instrHere.any s.takeSlot.awaitsTrap = false
  issues : s.mayIssue = true

/-- What a step makes of the run of an instruction: the run, counted; where the thread waits as before, time passes. -/
def stepOf (s : State) (run : Step) : Step := Step.counted s (if s.nothingDone run then s.quiet else run)

/-- The integer instructions, which write g[d] alone. -/
def registerForms (d a b : BitVec 5) (n : BitVec 6) (k : BitVec 16) (c : BitVec 15) : List Instr :=
  (integerForms d a b).map (·.1) ++ (productForms d a b).map (·.1) ++ (unaryForms d a n k c).map (·.1) ++
    [.lih d (n.setWidth 2) k, .lihK d (n.setWidth 2) k]

/-- The element forms that write vd alone: those of integers, and the permutations. -/
def lanewiseForms (d a b : BitVec 6) (g n : BitVec 5) (k p : BitVec 3) (z m : BitVec 1) : List Instr :=
  (elementForms d a b p z).map (·.1) ++ (elementForms1 d a p z).map (·.1) ++ (scalarForms d a g p z m).map (·.1) ++
    [.vmacc d a b p z, .vidx d p z, .vbcast d g p z m, .vsel d a b p, .vxch d a k p z, .vpermIx d a b p z, .vpermBr d a p z,
      .vslideUp d a n p z, .vslideDn d a n p z, .vcompact d a p z, .vexpand d a p z, .vrng d n p z]

/-- The F forms, which write g[d] and `fstat`. -/
def floatForms (d a b c : BitVec 5) (f g k u : BitVec 2) (t : BitVec 3) : List Instr :=
  (scalarFpForms d a b f).map (·.1) ++
    [.fsqrt d a f, .fma d a b c f, .fms d a b c f, .fcmp d a b k f, .fcvt d a t f, .fcvtFromInt d a u f, .fclass d a f, .fsgn d a b g f]

/-- The instruction ran outside a convoy, or its convoy is still open: no abandoned convoy has taken registers back (R31). -/
def keepsConvoy (s t : State) : Prop := s.th.convoy = none ∨ t.th.convoy.isSome = true

/-- No record of a moraine log is written for the current thread's events: its launch does not record, or it is at supervisor level (R377). -/
def unlogged (s : State) : Prop := s.th.sup.level = true ∨ s.actsOn s.th.handle ≠ 1

/-- Of the user registers only vd, the pc, the loop stack, `retired` and, where the form raises flags, `fstat` have changed; vd's poison
marks are the only ones that have; and nothing of the thread, the module or memory has but what completion counts. -/
def VectorOnly (d : BitVec 6) (s t : State) : Prop :=
  (∀ j, j ≠ physV s.th.arch.vrot d → t.th.arch.v[j] = s.th.arch.v[j] ∧ t.th.poison.v[j] = s.th.poison.v[j]) ∧
  { t.th.arch with v := s.th.arch.v, fstat := s.th.arch.fstat, pc := s.th.arch.pc, loops := s.th.arch.loops, retired := s.th.arch.retired } = s.th.arch ∧
  { t.th.poison with v := s.th.poison.v } = s.th.poison ∧ t.th.sup = s.th.sup ∧ SameThread s t ∧ SameModule s t ∧ SameMemory s t

end Sys2Proof.Claims

/-! ### Steps and decoding -/

/-- A step runs the decoded instruction. At rest, the word at an aligned pc is fetched: if it decodes to i the step is exec of i,
on a vector core with its convoy opened first; a word that no row assigns is the illegal-instruction trap's; a pc that is no
multiple of 4 is the misaligned trap's (R31, R118, R120, R285). The next member of an open convoy executes without a
fetch. A turn on the agenda, when no posting waits, runs its event's row with its operands. -/
def Obligations.StepRunsDecodedInstruction : Prop :=
  (∀ s : State, AtRest s →
    let u := s.takeSlot
    let v := u.afterFetch s.th.arch.pc
    (∀ w i, s.th.arch.pc.toNat % 4 = 0 → u.fetchWord s.th.arch.pc = .ok w → decode w = .ok i →
      step s = stepOf s (if v.convoys i then exec i (v.openConvoy i) else exec i v)) ∧
    (∀ w e, s.th.arch.pc.toNat % 4 = 0 → u.fetchWord s.th.arch.pc = .ok w → decode w = .error e →
      step s = stepOf s (exec (.unassignedEncoding w) v)) ∧
    (∀ e, s.th.arch.pc.toNat % 4 = 0 → u.fetchWord s.th.arch.pc = .error e → step s = stepOf s (u.stop .nop e none)) ∧
    (s.th.arch.pc.toNat % 4 ≠ 0 → step s = stepOf s (u.stop .nop (.trap 0x04 0 s.th.arch.pc) none))) ∧
  (∀ (s : State) c a i, s.owed.isNone = true → s.candidates = [] → s.others = [] → s.th.place = .resident → s.frozen s.th = false →
    s.th.convoy = some c → c.passing = none → c.members[c.next]? = some (a, i) → s.sliceDue = false → s.th.parked = none → s.th.held = false →
    s.th.wait = none → s.th.due = none → s.th.halted = none → s.mayIssue = true → step s = stepOf s (exec i s.takeSlot)) ∧
  (∀ (s : State) i ops rest, s.nextPosting = none → s.agenda = .event i ops :: rest →
    step s = Step.counted s (match exec i { s with agenda := rest, ev := ops } with
      | .next t => .next { t with ev := .none }
      | r => r))

/-- Decode and encode agree: the word of every well-formed instruction that has one decodes to that instruction, with every
operand at every value that the encoding admits (R118 to R129). -/
def Obligations.DecodeOfEncodeIsTheInstruction : Prop :=
  ∀ (i : Instr) (w : BitVec 32), i.wellFormed = true → encode i = some w → decode w = .ok i

/-- The worked words of the encoding examples and further words written out from the tables of R123 to R125 decode to the
instructions that they stand for; a word of no assigned major, and one with a field marked 0 set, decode to none (R118,
R120). -/
def Obligations.KnownWordsDecode : Prop :=
  decode 0x04611000 = .ok (.add 3 1 2) ∧ decode 0x4CA43030 = .ok (.ld 5 4 0 3 0x30) ∧ decode 0x49000005 = .ok (.lpImmediate 8 5) ∧
  decode 0x60600200 = .ok (.bar 3) ∧ decode 0x65090100 = .ok (.sigwait 8 9 0) ∧ decode 0x70074006 = .ok (.cwr 7 6) ∧
  decode 0x90304240 = .ok (.vfadd 3 1 2 2 0) ∧ decode 0x98908000 = .ok (.vcmp 1 1 2 0 0 0) ∧ decode 0xA0130044 = .ok (.vst 1 6 1 0 0) ∧
  decode 0xC1A21400 = .ok (.tmma 3 2 4 5) ∧ decode 0x84000000 = .ok (.fma 0 0 0 0 0) ∧ (∃ e, decode 0x60600201 = .error e) ∧
  decode 0x08840100 = .ok (.addi 4 4 0x100) ∧ decode 0x43E00003 = .ok (.jmp 31 3) ∧ decode 0x441F0000 = .ok (.jr 0 31 0) ∧
  decode 0x54463180 = .ok (.ldq 2 6 0 3 3 0) ∧ decode 0x54A6B180 = .ok (.stq 5 6 3 3 0) ∧ decode 0x584401C5 = .ok (.atom 2 4 0 3 2 5) ∧
  decode 0x58449FE5 = .ok (.cas 2 4 31 3 5) ∧ decode 0x64A9001F = .ok (.sigadd 5 9 31) ∧ decode 0x680A0000 = .ok (.bxq 10) ∧
  decode 0x70600011 = .ok (.crd 3 0x011) ∧ decode 0x74002800 = .ok (.sysc 5) ∧ decode 0x74400003 = .ok (.migh 2) ∧
  decode 0x74000004 = .ok .tret ∧ decode 0x78000000 = .ok .nop ∧ decode 0x78000001 = .ok .cvb ∧
  (∃ e, decode 0 = .error e) ∧ (∃ e, decode 0xFFFF_FFFF = .error e) ∧ (∃ e, decode 0x68000000 = .error e)

/-! ### What every step keeps -/

/-- After every step each thread's age, by which issue orders the contexts of a core (R333), is kept while it is ready, and otherwise
only while its wait is one that its instruction ends in an issue slot of its own, whatever the step did: an instruction, an event, a
reset; and the model's count of steps (log 8) has risen. -/
def Obligations.EveryStepKeepsTheAges : Prop :=
  ∀ s t : State, s.agesKept → step s = .next t → t.agesKept ∧ s.tick < t.tick

/-- After every step memory has its canonical form, addresses rising and no byte listed that reads as an unlisted one, if it had it
before: whatever instruction, event, command or reset the step was. The form is the model's own (log 2). -/
def Obligations.EveryStepKeepsMemoryCanonical : Prop :=
  ∀ s t : State, s.canonical → step s = .next t → t.canonical

/-- The machine after reset: no device context, launch, thread, translation, delivery or poisoned sector stands, no coherence
message is under way and every agent is in I, no partition is under reset (R353, R372, R432); the general registers and the
pc read 0 (the model's choice for a thread that is not there, log 1), as does every byte of memory (its choice, log 2); memory
has its canonical form and the ages are kept. -/
def Obligations.ResetState : Prop :=
  let s := State.reset
  s.dctxs = [] ∧ s.launches = [] ∧ s.others = [] ∧ s.th.exists = false ∧ s.tlb = [] ∧ s.host = [] ∧ s.remote = [] ∧ s.tags = [] ∧ s.poison = [] ∧
  s.fab.dir = [] ∧ s.fab.toDie = [] ∧ s.fab.toHub = [] ∧ (∀ l a, s.fab.agentState l a = .i) ∧ (∀ p, (s.part p).resetting = none) ∧
  (∀ r, s.g r = 0) ∧ s.th.arch.pc = 0 ∧ (∀ k, readCell s.mem k = 0) ∧ s.canonical ∧ s.agesKept

/-! ### Frames -/

/-- The frame of the integer operations: when one completes, no general register but g[d], no other user register, no state of
the thread but its counts, and nothing of the module or of memory has changed; g0 still reads 0. -/
def Sys2Proof.Claims.IntegerFrame : Prop :=
  ∀ (s t : State) (d a b : BitVec 5) (n : BitVec 6) (k : BitVec 16) (c : BitVec 15), ∀ i ∈ registerForms d a b n k c,
    Free i s → s.noStep → exec i s = .next t →
      SameGeneralBut d s t ∧ t.g 0 = 0 ∧ SameButGeneral s t ∧ SameThread s t ∧ t.th.poison = { s.th.poison with g := t.th.poison.g } ∧
      t.th.sup = s.th.sup ∧ SameModule s t ∧ SameMemory s t

/-- The frame of branches, jumps and LP, where they do not trap: they change no general register but a link, no other user register but
the pc and the loop stack, and no memory. -/
def Sys2Proof.Claims.BranchFrame : Prop :=
  ∀ (s t : State) (d a : BitVec 5) (o : BitVec 16) (j : BitVec 21) (l : BitVec 15), s.noStep →
    let linked (r : BitVec 5) : Prop := SameGeneralBut r s t ∧ SameButGeneral s t ∧ SameThread s t ∧ SameModule s t ∧ SameMemory s t
    (∀ i ∈ (branchForms d a o).map (·.1), Free i s → exec i s = .next t → linked 0) ∧
    (Free (.jmp d j) s → exec (.jmp d j) s = .next t → linked d) ∧
    ((s.g a + o.signExtend 64).toNat % 4 = 0 → Free (.jr d a o) s → exec (.jr d a o) s = .next t → linked d) ∧
    (s.th.arch.loops.length < 6 → ∀ i ∈ [Instr.lp d l, .lpImmediate d l], Free i s → exec i s = .next t → linked 0)

/-- The frame of the stores, ST in both address forms, STQ, and of the atomic word operations, which also write g[d]: the bytes
that the access at their address covers change, and every other byte of memory reads as before, but for the records of a recording
launch's ring, and every other general register; at supervisor level, and for ST off log-all pages at every level, no supervisor register and no other user register changes. -/
def Sys2Proof.Claims.StoreFrame : Prop :=
  ∀ (s t : State) (x b : BitVec 5) (k : BitVec 2) (o : BitVec 12) (y c : BitVec 5) (o7 : BitVec 7) (op : BitVec 4) (r : BitVec 2), s.noStep →
    ∀ e ∈ [(Instr.st x b k o, s.g b + o.signExtend 64, 2 ^ k.toNat, false, (0 : BitVec 5)), (.stIndexed x b k y, s.g b + s.g y, 2 ^ k.toNat, false, 0),
        (.stq x b k c o7, s.g b + o7.signExtend 64 * BitVec.ofNat 64 (2 ^ k.toNat), 2 ^ k.toNat, false, 0),
        (.atom x b op c r y, s.g b, 8, true, x), (.cas x b c r y, s.g b, 8, true, x), (.snowpub x b c, s.g b, 8, true, 0)],
      let plain := e.1 = .st x b k o ∨ e.1 = .stIndexed x b k y
      Free e.1 s → exec e.1 s = .next t → ∀ sp, e.2.1.toNat % e.2.2.1 = 0 ∨ plain → s.checkC e.2.1 e.2.2.1 e.2.2.2.1 true true = .ok sp →
        (keepsConvoy s t → s.th.sup.tip = false → SameGeneralBut e.2.2.2.2 s t ∧
          (unlogged s → ∀ key, ¬covers sp key → readCell t.mem key = readCell s.mem key)) ∧
        (s.th.sup.level = true ∨ (plain ∧ onLPage sp = false) →
          (∀ key, ¬covers sp key → readCell t.mem key = readCell s.mem key) ∧ SameGeneralBut e.2.2.2.2 s t ∧
          t.th.sup = s.th.sup ∧ SameButGeneral s t)

/-- The frames of groups VA, VX and F: an element form writes vd alone, a floating-point one, a scan or a reduction also ORs flags into `fstat`;
compares and predicate operations write their predicate; F forms write g[d] and `fstat`. Nothing else of the thread changes, and no byte of
memory does. -/
def Sys2Proof.Claims.ElementFrame : Prop :=
  ∀ (s t : State) (d a b : BitVec 6) (g n r u : BitVec 5) (k c q o p : BitVec 3) (e z m : BitVec 1) (f w h j : BitVec 2),
    s.noStep →
    (∀ i ∈ lanewiseForms d a b g n k p z m, Free i s → exec i s = .next t →
      (i = .vsel d a b p → s.th.poison.v = Vector.replicate 64 0) → VectorOnly d s t ∧ t.th.arch.fstat = s.th.arch.fstat) ∧
    (∀ i ∈ (fpElementForms s d a b g p z).map (·.1), Free i s → exec i s = .next t → (formFmt s.th.arch.vform).isSome = true → VectorOnly d s t) ∧
    (∀ i ∈ [Instr.vscan d a e o p z, .vred d a o p z], Free i s → exec i s = .next t →
      (reduceOp s.th.arch.vform s.mode o).isSome = true → VectorOnly d s t) ∧
    (∀ i ∈ [Instr.vcmp c q a b p z, .plog c q k o p z, .vfcmp c q a b p z], Free i s → exec i s = .next t →
      (i = .vfcmp c q a b p z → (formFmt s.th.arch.vform).isSome = true) →
      (∀ j : Fin 8, j.val ≠ q.toNat → t.th.arch.p[j] = s.th.arch.p[j]) ∧
      { t.th.arch with p := s.th.arch.p, fstat := s.th.arch.fstat, pc := s.th.arch.pc, loops := s.th.arch.loops, retired := s.th.arch.retired } = s.th.arch ∧
      t.th.sup = s.th.sup ∧ SameThread s t ∧ SameModule s t ∧ SameMemory s t) ∧
    (∀ i ∈ floatForms g n r u f w h j c, Free i s → exec i s = .next t →
      SameGeneralBut g s t ∧
      { t.th.arch with g := s.th.arch.g, fstat := s.th.arch.fstat, pc := s.th.arch.pc, loops := s.th.arch.loops, retired := s.th.arch.retired } = s.th.arch ∧
      t.th.sup = s.th.sup ∧ SameThread s t ∧ SameModule s t ∧ SameMemory s t)

/-- The frames of vector memory, however the instruction ends, as long as its convoy was not abandoned and no trap stands: loads write
their vector registers, which for VLDSEG are vd and the next; stores and remote updates write no general, vector or predicate register;
and loads and remote updates change no byte of memory but a recording launch's ring. -/
def Sys2Proof.Claims.VectorMemoryFrame : Prop :=
  ∀ (s t : State) (d : BitVec 6) (b r : BitVec 5) (x : BitVec 6) (p : BitVec 3) (z n c : BitVec 1),
    keepsConvoy s t → s.th.sup.tip = false →
    let seg := Instr.vldseg d b r p z
    let update (i : Instr) : Prop := i = .vscadd d b x p z c ∨ i = .vrdst d b r p z
    (∀ i ∈ seg :: (loadForms s d b r x p z n c).map (·.1), Free i s → exec i s = .next t →
      SameGeneralBut 0 s t ∧ (unlogged s → SameMemory s t) ∧ t.th.arch.acc = s.th.arch.acc ∧ t.th.arch.deep = s.th.arch.deep ∧
      ∀ j, j ≠ physV s.th.arch.vrot d → (i = seg → j ≠ physV s.th.arch.vrot (d + 1)) → t.th.arch.v[j] = s.th.arch.v[j]) ∧
    (∀ i ∈ .vstseg d b r p z :: .vscadd d b x p z c :: .vrdst d b r p z :: (storeForms s d b r x p z n c).map (·.1), Free i s → exec i s = .next t →
      { t.th.arch with
        vresume := s.th.arch.vresume, mevents := s.th.arch.mevents, pc := s.th.arch.pc, loops := s.th.arch.loops
        retired := s.th.arch.retired } = s.th.arch ∧
      (update i → unlogged s → SameMemory s t))

/-- The frames of the control-register instructions, where the access is a legal one: CRD writes g[d] alone. CWR and CXG write no other general register, and no
vector, predicate, accumulator or deep register but the predicate bits at and above a lowered `vcount`; a write of a user register leaves the supervisor
registers alone, and memory but for the saved copies that S registers have off tensor cores (R61). A write of a supervisor register other than
`fqresume`, which resumes or ends a thread, leaves the user registers and memory alone. -/
def Sys2Proof.Claims.ControlRegisterFrame : Prop :=
  ∀ (s t : State) (d a : BitVec 5) (x : BitVec 12), s.noStep →
    (x.toNat < 0x800 ∨ s.th.sup.level = true) →
    (crKind x.toNat ≠ none → Free (.crd d x) s → exec (.crd d x) s = .next t →
      SameGeneralBut d s t ∧ SameButGeneral s t ∧ SameThread s t ∧ SameModule s t ∧ SameMemory s t ∧ t.th.sup = s.th.sup) ∧
    (∀ k u, crKind x.toNat = some k → k ≠ .ro → s.crWrite x.toNat (s.g a) = .ok u →
      ∀ e ∈ [(Instr.cwr a x, (0 : BitVec 5)), (.cxg d a x, d)], Free e.1 s → exec e.1 s = .next t →
        (x.toNat ≠ 0x834 → SameGeneralBut e.2 s t ∧ t.th.arch.v = s.th.arch.v ∧ t.th.arch.acc = s.th.arch.acc ∧ t.th.arch.deep = s.th.arch.deep ∧
          ∀ i : Fin 8, ∀ n, n < t.vl → t.th.arch.p[i].getLsbD n = s.th.arch.p[i].getLsbD n) ∧
        (x.toNat < 0x800 → t.th.sup = s.th.sup ∧ (savedCrs.contains x.toNat = false ∨ s.th.cls = .tensor → SameMemory s t)) ∧
        (0x800 ≤ x.toNat → x.toNat ≠ 0x834 → SameButGeneral s t ∧ SameMemory s t))

/-- The frames of groups T and X at issue, however it ends outside a convoy and while no trap stands: no memory, no general register but that of XSLOT, and no other user
register but the pc, the loop stack and `retired` changes; what a T instruction writes, its rows write later. -/
def Sys2Proof.Claims.TensorAndExchangeFrame : Prop :=
  ∀ (s t : State) (w c : BitVec 3) (a b x : BitVec 5) (v : BitVec 6) (k : BitVec 8), s.th.convoy = none → s.th.sup.tip = false →
    (∀ i ∈ (tileForms s w c a b x v).map (·.1) ++ [.xsend w a k, .xrecv w k, .xrecvS w k, .xwait w k], Free i s → exec i s = .next t →
      SameGeneralBut 0 s t ∧ SameButGeneral s t ∧ SameMemory s t) ∧
    (Free (.xslot w a) s → exec (.xslot w a) s = .next t → SameGeneralBut a s t ∧ SameButGeneral s t ∧ SameMemory s t)

/-- What instructions leave unchanged when they answer a next state, form by form: integer operations write g[d] alone, branches and jumps
only a link and the loop stack, stores and atomics the bytes at their address and, the atomics, g[d]; element forms write vd and flags,
compares a predicate, F forms g[d] and flags; vector loads their vector registers and vector stores memory; CRD writes g[d], CWR and
CXG what their control register holds; T and X forms at issue write no register but XSLOT's and no memory. Beyond that, each form changes only
what its clause names. -/
def Obligations.FramesOfInstructions : Prop :=
  Sys2Proof.Claims.IntegerFrame ∧ Sys2Proof.Claims.BranchFrame ∧ Sys2Proof.Claims.StoreFrame ∧ Sys2Proof.Claims.ElementFrame ∧
  Sys2Proof.Claims.VectorMemoryFrame ∧ Sys2Proof.Claims.ControlRegisterFrame ∧ Sys2Proof.Claims.TensorAndExchangeFrame
end

