-- ==== Sys2Proof/Laws/State.lean ====
section
/-! SUPPORT. What each small update of the state leaves as it was: one lemma for each field and update, all by rfl. -/

namespace Sys2Proof.Machine


@[simp] theorem State.setG_others (s : State) (r : BitVec 5) (x : BitVec 64) : (s.setG r x).others = s.others := rfl
@[simp] theorem State.setG_dctxs (s : State) (r : BitVec 5) (x : BitVec 64) : (s.setG r x).dctxs = s.dctxs := rfl
@[simp] theorem State.setG_launches (s : State) (r : BitVec 5) (x : BitVec 64) : (s.setG r x).launches = s.launches := rfl
@[simp] theorem State.setG_mem (s : State) (r : BitVec 5) (x : BitVec 64) : (s.setG r x).mem = s.mem := rfl
@[simp] theorem State.setG_frames (s : State) (r : BitVec 5) (x : BitVec 64) : (s.setG r x).frames = s.frames := rfl
@[simp] theorem State.setG_hist (s : State) (r : BitVec 5) (x : BitVec 64) : (s.setG r x).hist = s.hist := rfl
@[simp] theorem State.setG_reports (s : State) (r : BitVec 5) (x : BitVec 64) : (s.setG r x).reports = s.reports := rfl
@[simp] theorem State.setG_poison (s : State) (r : BitVec 5) (x : BitVec 64) : (s.setG r x).poison = s.poison := rfl
@[simp] theorem State.setG_tlb (s : State) (r : BitVec 5) (x : BitVec 64) : (s.setG r x).tlb = s.tlb := rfl
@[simp] theorem State.setG_host (s : State) (r : BitVec 5) (x : BitVec 64) : (s.setG r x).host = s.host := rfl
@[simp] theorem State.setG_remote (s : State) (r : BitVec 5) (x : BitVec 64) : (s.setG r x).remote = s.remote := rfl
@[simp] theorem State.setG_tags (s : State) (r : BitVec 5) (x : BitVec 64) : (s.setG r x).tags = s.tags := rfl
@[simp] theorem State.setG_order (s : State) (r : BitVec 5) (x : BitVec 64) : (s.setG r x).order = s.order := rfl
@[simp] theorem State.setG_mod (s : State) (r : BitVec 5) (x : BitVec 64) : (s.setG r x).mod = s.mod := rfl
@[simp] theorem State.setG_fab (s : State) (r : BitVec 5) (x : BitVec 64) : (s.setG r x).fab = s.fab := rfl
@[simp] theorem State.setG_lcc (s : State) (r : BitVec 5) (x : BitVec 64) : (s.setG r x).lcc = s.lcc := rfl
@[simp] theorem State.setG_agenda (s : State) (r : BitVec 5) (x : BitVec 64) : (s.setG r x).agenda = s.agenda := rfl
@[simp] theorem State.setG_outbox (s : State) (r : BitVec 5) (x : BitVec 64) : (s.setG r x).outbox = s.outbox := rfl
@[simp] theorem State.setG_issued (s : State) (r : BitVec 5) (x : BitVec 64) : (s.setG r x).issued = s.issued := rfl
@[simp] theorem State.setG_pace (s : State) (r : BitVec 5) (x : BitVec 64) : (s.setG r x).pace = s.pace := rfl
@[simp] theorem State.setG_pending (s : State) (r : BitVec 5) (x : BitVec 64) : (s.setG r x).pending = s.pending := rfl
@[simp] theorem State.setG_ev (s : State) (r : BitVec 5) (x : BitVec 64) : (s.setG r x).ev = s.ev := rfl
@[simp] theorem State.setG_tick (s : State) (r : BitVec 5) (x : BitVec 64) : (s.setG r x).tick = s.tick := rfl
@[simp] theorem State.setG_th_handle (s : State) (r : BitVec 5) (x : BitVec 64) : (s.setG r x).th.handle = s.th.handle := rfl
@[simp] theorem State.setG_th_wid (s : State) (r : BitVec 5) (x : BitVec 64) : (s.setG r x).th.wid = s.th.wid := rfl
@[simp] theorem State.setG_th_place (s : State) (r : BitVec 5) (x : BitVec 64) : (s.setG r x).th.place = s.th.place := rfl
@[simp] theorem State.setG_th_core (s : State) (r : BitVec 5) (x : BitVec 64) : (s.setG r x).th.core = s.th.core := rfl
@[simp] theorem State.setG_th_slot (s : State) (r : BitVec 5) (x : BitVec 64) : (s.setG r x).th.slot = s.th.slot := rfl
@[simp] theorem State.setG_th_sup (s : State) (r : BitVec 5) (x : BitVec 64) : (s.setG r x).th.sup = s.th.sup := rfl
@[simp] theorem State.setG_th_dbg (s : State) (r : BitVec 5) (x : BitVec 64) : (s.setG r x).th.dbg = s.th.dbg := rfl
@[simp] theorem State.setG_th_wait (s : State) (r : BitVec 5) (x : BitVec 64) : (s.setG r x).th.wait = s.th.wait := rfl
@[simp] theorem State.setG_th_parked (s : State) (r : BitVec 5) (x : BitVec 64) : (s.setG r x).th.parked = s.th.parked := rfl
@[simp] theorem State.setG_th_held (s : State) (r : BitVec 5) (x : BitVec 64) : (s.setG r x).th.held = s.th.held := rfl
@[simp] theorem State.setG_th_convoy (s : State) (r : BitVec 5) (x : BitVec 64) : (s.setG r x).th.convoy = s.th.convoy := rfl
@[simp] theorem State.setG_th_grant (s : State) (r : BitVec 5) (x : BitVec 64) : (s.setG r x).th.grant = s.th.grant := rfl
@[simp] theorem State.setG_th_runs (s : State) (r : BitVec 5) (x : BitVec 64) : (s.setG r x).th.runs = s.th.runs := rfl
@[simp] theorem State.setG_th_bxq (s : State) (r : BitVec 5) (x : BitVec 64) : (s.setG r x).th.bxq = s.th.bxq := rfl
@[simp] theorem State.setG_th_slots (s : State) (r : BitVec 5) (x : BitVec 64) : (s.setG r x).th.slots = s.th.slots := rfl
@[simp] theorem State.setG_th_fresh (s : State) (r : BitVec 5) (x : BitVec 64) : (s.setG r x).th.fresh = s.th.fresh := rfl
@[simp] theorem State.setG_th_departures (s : State) (r : BitVec 5) (x : BitVec 64) : (s.setG r x).th.departures = s.th.departures := rfl
@[simp] theorem State.setG_th_told (s : State) (r : BitVec 5) (x : BitVec 64) : (s.setG r x).th.told = s.th.told := rfl
@[simp] theorem State.setG_th_mix (s : State) (r : BitVec 5) (x : BitVec 64) : (s.setG r x).th.mix = s.th.mix := rfl
@[simp] theorem State.setG_th_position (s : State) (r : BitVec 5) (x : BitVec 64) : (s.setG r x).th.position = s.th.position := rfl
@[simp] theorem State.setG_th_lgG (s : State) (r : BitVec 5) (x : BitVec 64) : (s.setG r x).th.lgG = s.th.lgG := rfl
@[simp] theorem State.setG_th_lgG0 (s : State) (r : BitVec 5) (x : BitVec 64) : (s.setG r x).th.lgG0 = s.th.lgG0 := rfl
@[simp] theorem State.setG_th_deepHeld (s : State) (r : BitVec 5) (x : BitVec 64) : (s.setG r x).th.deepHeld = s.th.deepHeld := rfl
@[simp] theorem Arch.setG_pc (a : Arch) (r : BitVec 5) (x : BitVec 64) : (a.setG r x).pc = a.pc := by
  unfold Arch.setG; split <;> rfl
@[simp] theorem Arch.setG_v (a : Arch) (r : BitVec 5) (x : BitVec 64) : (a.setG r x).v = a.v := by
  unfold Arch.setG; split <;> rfl
@[simp] theorem Arch.setG_p (a : Arch) (r : BitVec 5) (x : BitVec 64) : (a.setG r x).p = a.p := by
  unfold Arch.setG; split <;> rfl
@[simp] theorem Arch.setG_acc (a : Arch) (r : BitVec 5) (x : BitVec 64) : (a.setG r x).acc = a.acc := by
  unfold Arch.setG; split <;> rfl
@[simp] theorem Arch.setG_deep (a : Arch) (r : BitVec 5) (x : BitVec 64) : (a.setG r x).deep = a.deep := by
  unfold Arch.setG; split <;> rfl
@[simp] theorem Arch.setG_loops (a : Arch) (r : BitVec 5) (x : BitVec 64) : (a.setG r x).loops = a.loops := by
  unfold Arch.setG; split <;> rfl
@[simp] theorem Arch.setG_vcount (a : Arch) (r : BitVec 5) (x : BitVec 64) : (a.setG r x).vcount = a.vcount := by
  unfold Arch.setG; split <;> rfl
@[simp] theorem Arch.setG_vform (a : Arch) (r : BitVec 5) (x : BitVec 64) : (a.setG r x).vform = a.vform := by
  unfold Arch.setG; split <;> rfl
@[simp] theorem Arch.setG_vrot (a : Arch) (r : BitVec 5) (x : BitVec 64) : (a.setG r x).vrot = a.vrot := by
  unfold Arch.setG; split <;> rfl
@[simp] theorem Arch.setG_fstat (a : Arch) (r : BitVec 5) (x : BitVec 64) : (a.setG r x).fstat = a.fstat := by
  unfold Arch.setG; split <;> rfl
@[simp] theorem Arch.setG_fround (a : Arch) (r : BitVec 5) (x : BitVec 64) : (a.setG r x).fround = a.fround := by
  unfold Arch.setG; split <;> rfl
@[simp] theorem Arch.setG_retired (a : Arch) (r : BitVec 5) (x : BitVec 64) : (a.setG r x).retired = a.retired := by
  unfold Arch.setG; split <;> rfl
@[simp] theorem Arch.setG_xframe (a : Arch) (r : BitVec 5) (x : BitVec 64) : (a.setG r x).xframe = a.xframe := by
  unfold Arch.setG; split <;> rfl
@[simp] theorem Arch.setG_xbase (a : Arch) (r : BitVec 5) (x : BitVec 64) : (a.setG r x).xbase = a.xbase := by
  unfold Arch.setG; split <;> rfl
@[simp] theorem Arch.setG_tresume (a : Arch) (r : BitVec 5) (x : BitVec 64) : (a.setG r x).tresume = a.tresume := by
  unfold Arch.setG; split <;> rfl
@[simp] theorem Arch.setG_vresume (a : Arch) (r : BitVec 5) (x : BitVec 64) : (a.setG r x).vresume = a.vresume := by
  unfold Arch.setG; split <;> rfl
@[simp] theorem State.setG_th_arch (s : State) (r : BitVec 5) (x : BitVec 64) : (s.setG r x).th.arch = s.th.arch.setG r x := rfl

@[simp] theorem State.putVBits_others (s : State) (n : BitVec 6) (val mask : Nat) : (s.putVBits n val mask).others = s.others := rfl
@[simp] theorem State.putVBits_dctxs (s : State) (n : BitVec 6) (val mask : Nat) : (s.putVBits n val mask).dctxs = s.dctxs := rfl
@[simp] theorem State.putVBits_launches (s : State) (n : BitVec 6) (val mask : Nat) : (s.putVBits n val mask).launches = s.launches := rfl
@[simp] theorem State.putVBits_mem (s : State) (n : BitVec 6) (val mask : Nat) : (s.putVBits n val mask).mem = s.mem := rfl
@[simp] theorem State.putVBits_frames (s : State) (n : BitVec 6) (val mask : Nat) : (s.putVBits n val mask).frames = s.frames := rfl
@[simp] theorem State.putVBits_hist (s : State) (n : BitVec 6) (val mask : Nat) : (s.putVBits n val mask).hist = s.hist := rfl
@[simp] theorem State.putVBits_reports (s : State) (n : BitVec 6) (val mask : Nat) : (s.putVBits n val mask).reports = s.reports := rfl
@[simp] theorem State.putVBits_poison (s : State) (n : BitVec 6) (val mask : Nat) : (s.putVBits n val mask).poison = s.poison := rfl
@[simp] theorem State.putVBits_tlb (s : State) (n : BitVec 6) (val mask : Nat) : (s.putVBits n val mask).tlb = s.tlb := rfl
@[simp] theorem State.putVBits_host (s : State) (n : BitVec 6) (val mask : Nat) : (s.putVBits n val mask).host = s.host := rfl
@[simp] theorem State.putVBits_remote (s : State) (n : BitVec 6) (val mask : Nat) : (s.putVBits n val mask).remote = s.remote := rfl
@[simp] theorem State.putVBits_tags (s : State) (n : BitVec 6) (val mask : Nat) : (s.putVBits n val mask).tags = s.tags := rfl
@[simp] theorem State.putVBits_order (s : State) (n : BitVec 6) (val mask : Nat) : (s.putVBits n val mask).order = s.order := rfl
@[simp] theorem State.putVBits_mod (s : State) (n : BitVec 6) (val mask : Nat) : (s.putVBits n val mask).mod = s.mod := rfl
@[simp] theorem State.putVBits_fab (s : State) (n : BitVec 6) (val mask : Nat) : (s.putVBits n val mask).fab = s.fab := rfl
@[simp] theorem State.putVBits_lcc (s : State) (n : BitVec 6) (val mask : Nat) : (s.putVBits n val mask).lcc = s.lcc := rfl
@[simp] theorem State.putVBits_agenda (s : State) (n : BitVec 6) (val mask : Nat) : (s.putVBits n val mask).agenda = s.agenda := rfl
@[simp] theorem State.putVBits_outbox (s : State) (n : BitVec 6) (val mask : Nat) : (s.putVBits n val mask).outbox = s.outbox := rfl
@[simp] theorem State.putVBits_issued (s : State) (n : BitVec 6) (val mask : Nat) : (s.putVBits n val mask).issued = s.issued := rfl
@[simp] theorem State.putVBits_pace (s : State) (n : BitVec 6) (val mask : Nat) : (s.putVBits n val mask).pace = s.pace := rfl
@[simp] theorem State.putVBits_pending (s : State) (n : BitVec 6) (val mask : Nat) : (s.putVBits n val mask).pending = s.pending := rfl
@[simp] theorem State.putVBits_ev (s : State) (n : BitVec 6) (val mask : Nat) : (s.putVBits n val mask).ev = s.ev := rfl
@[simp] theorem State.putVBits_tick (s : State) (n : BitVec 6) (val mask : Nat) : (s.putVBits n val mask).tick = s.tick := rfl
@[simp] theorem State.putVBits_th_handle (s : State) (n : BitVec 6) (val mask : Nat) : (s.putVBits n val mask).th.handle = s.th.handle := rfl
@[simp] theorem State.putVBits_th_wid (s : State) (n : BitVec 6) (val mask : Nat) : (s.putVBits n val mask).th.wid = s.th.wid := rfl
@[simp] theorem State.putVBits_th_place (s : State) (n : BitVec 6) (val mask : Nat) : (s.putVBits n val mask).th.place = s.th.place := rfl
@[simp] theorem State.putVBits_th_core (s : State) (n : BitVec 6) (val mask : Nat) : (s.putVBits n val mask).th.core = s.th.core := rfl
@[simp] theorem State.putVBits_th_slot (s : State) (n : BitVec 6) (val mask : Nat) : (s.putVBits n val mask).th.slot = s.th.slot := rfl
@[simp] theorem State.putVBits_th_sup (s : State) (n : BitVec 6) (val mask : Nat) : (s.putVBits n val mask).th.sup = s.th.sup := rfl
@[simp] theorem State.putVBits_th_dbg (s : State) (n : BitVec 6) (val mask : Nat) : (s.putVBits n val mask).th.dbg = s.th.dbg := rfl
@[simp] theorem State.putVBits_th_wait (s : State) (n : BitVec 6) (val mask : Nat) : (s.putVBits n val mask).th.wait = s.th.wait := rfl
@[simp] theorem State.putVBits_th_parked (s : State) (n : BitVec 6) (val mask : Nat) : (s.putVBits n val mask).th.parked = s.th.parked := rfl
@[simp] theorem State.putVBits_th_held (s : State) (n : BitVec 6) (val mask : Nat) : (s.putVBits n val mask).th.held = s.th.held := rfl
@[simp] theorem State.putVBits_th_convoy (s : State) (n : BitVec 6) (val mask : Nat) : (s.putVBits n val mask).th.convoy = s.th.convoy := rfl
@[simp] theorem State.putVBits_th_grant (s : State) (n : BitVec 6) (val mask : Nat) : (s.putVBits n val mask).th.grant = s.th.grant := rfl
@[simp] theorem State.putVBits_th_runs (s : State) (n : BitVec 6) (val mask : Nat) : (s.putVBits n val mask).th.runs = s.th.runs := rfl
@[simp] theorem State.putVBits_th_bxq (s : State) (n : BitVec 6) (val mask : Nat) : (s.putVBits n val mask).th.bxq = s.th.bxq := rfl
@[simp] theorem State.putVBits_th_slots (s : State) (n : BitVec 6) (val mask : Nat) : (s.putVBits n val mask).th.slots = s.th.slots := rfl
@[simp] theorem State.putVBits_th_fresh (s : State) (n : BitVec 6) (val mask : Nat) : (s.putVBits n val mask).th.fresh = s.th.fresh := rfl
@[simp] theorem State.putVBits_th_departures (s : State) (n : BitVec 6) (val mask : Nat) : (s.putVBits n val mask).th.departures = s.th.departures := rfl
@[simp] theorem State.putVBits_th_told (s : State) (n : BitVec 6) (val mask : Nat) : (s.putVBits n val mask).th.told = s.th.told := rfl
@[simp] theorem State.putVBits_th_mix (s : State) (n : BitVec 6) (val mask : Nat) : (s.putVBits n val mask).th.mix = s.th.mix := rfl
@[simp] theorem State.putVBits_th_position (s : State) (n : BitVec 6) (val mask : Nat) : (s.putVBits n val mask).th.position = s.th.position := rfl
@[simp] theorem State.putVBits_th_lgG (s : State) (n : BitVec 6) (val mask : Nat) : (s.putVBits n val mask).th.lgG = s.th.lgG := rfl
@[simp] theorem State.putVBits_th_lgG0 (s : State) (n : BitVec 6) (val mask : Nat) : (s.putVBits n val mask).th.lgG0 = s.th.lgG0 := rfl
@[simp] theorem State.putVBits_th_deepHeld (s : State) (n : BitVec 6) (val mask : Nat) : (s.putVBits n val mask).th.deepHeld = s.th.deepHeld := rfl
@[simp] theorem State.putVBits_arch_pc (s : State) (n : BitVec 6) (val mask : Nat) : (s.putVBits n val mask).th.arch.pc = s.th.arch.pc := rfl
@[simp] theorem State.putVBits_arch_g (s : State) (n : BitVec 6) (val mask : Nat) : (s.putVBits n val mask).th.arch.g = s.th.arch.g := rfl
@[simp] theorem State.putVBits_arch_p (s : State) (n : BitVec 6) (val mask : Nat) : (s.putVBits n val mask).th.arch.p = s.th.arch.p := rfl
@[simp] theorem State.putVBits_arch_acc (s : State) (n : BitVec 6) (val mask : Nat) : (s.putVBits n val mask).th.arch.acc = s.th.arch.acc := rfl
@[simp] theorem State.putVBits_arch_deep (s : State) (n : BitVec 6) (val mask : Nat) : (s.putVBits n val mask).th.arch.deep = s.th.arch.deep := rfl
@[simp] theorem State.putVBits_arch_loops (s : State) (n : BitVec 6) (val mask : Nat) : (s.putVBits n val mask).th.arch.loops = s.th.arch.loops := rfl
@[simp] theorem State.putVBits_arch_vcount (s : State) (n : BitVec 6) (val mask : Nat) : (s.putVBits n val mask).th.arch.vcount = s.th.arch.vcount := rfl
@[simp] theorem State.putVBits_arch_vform (s : State) (n : BitVec 6) (val mask : Nat) : (s.putVBits n val mask).th.arch.vform = s.th.arch.vform := rfl
@[simp] theorem State.putVBits_arch_vrot (s : State) (n : BitVec 6) (val mask : Nat) : (s.putVBits n val mask).th.arch.vrot = s.th.arch.vrot := rfl
@[simp] theorem State.putVBits_arch_fstat (s : State) (n : BitVec 6) (val mask : Nat) : (s.putVBits n val mask).th.arch.fstat = s.th.arch.fstat := rfl
@[simp] theorem State.putVBits_arch_fround (s : State) (n : BitVec 6) (val mask : Nat) : (s.putVBits n val mask).th.arch.fround = s.th.arch.fround := rfl
@[simp] theorem State.putVBits_arch_retired (s : State) (n : BitVec 6) (val mask : Nat) : (s.putVBits n val mask).th.arch.retired = s.th.arch.retired := rfl
@[simp] theorem State.putVBits_arch_xframe (s : State) (n : BitVec 6) (val mask : Nat) : (s.putVBits n val mask).th.arch.xframe = s.th.arch.xframe := rfl
@[simp] theorem State.putVBits_arch_xbase (s : State) (n : BitVec 6) (val mask : Nat) : (s.putVBits n val mask).th.arch.xbase = s.th.arch.xbase := rfl
@[simp] theorem State.putVBits_arch_tresume (s : State) (n : BitVec 6) (val mask : Nat) : (s.putVBits n val mask).th.arch.tresume = s.th.arch.tresume := rfl
@[simp] theorem State.putVBits_arch_vresume (s : State) (n : BitVec 6) (val mask : Nat) : (s.putVBits n val mask).th.arch.vresume = s.th.arch.vresume := rfl

@[simp] theorem State.orFlags_others (s : State) (f : FFlags) : (s.orFlags f).others = s.others := rfl
@[simp] theorem State.orFlags_dctxs (s : State) (f : FFlags) : (s.orFlags f).dctxs = s.dctxs := rfl
@[simp] theorem State.orFlags_launches (s : State) (f : FFlags) : (s.orFlags f).launches = s.launches := rfl
@[simp] theorem State.orFlags_mem (s : State) (f : FFlags) : (s.orFlags f).mem = s.mem := rfl
@[simp] theorem State.orFlags_frames (s : State) (f : FFlags) : (s.orFlags f).frames = s.frames := rfl
@[simp] theorem State.orFlags_hist (s : State) (f : FFlags) : (s.orFlags f).hist = s.hist := rfl
@[simp] theorem State.orFlags_reports (s : State) (f : FFlags) : (s.orFlags f).reports = s.reports := rfl
@[simp] theorem State.orFlags_poison (s : State) (f : FFlags) : (s.orFlags f).poison = s.poison := rfl
@[simp] theorem State.orFlags_tlb (s : State) (f : FFlags) : (s.orFlags f).tlb = s.tlb := rfl
@[simp] theorem State.orFlags_host (s : State) (f : FFlags) : (s.orFlags f).host = s.host := rfl
@[simp] theorem State.orFlags_remote (s : State) (f : FFlags) : (s.orFlags f).remote = s.remote := rfl
@[simp] theorem State.orFlags_tags (s : State) (f : FFlags) : (s.orFlags f).tags = s.tags := rfl
@[simp] theorem State.orFlags_order (s : State) (f : FFlags) : (s.orFlags f).order = s.order := rfl
@[simp] theorem State.orFlags_mod (s : State) (f : FFlags) : (s.orFlags f).mod = s.mod := rfl
@[simp] theorem State.orFlags_fab (s : State) (f : FFlags) : (s.orFlags f).fab = s.fab := rfl
@[simp] theorem State.orFlags_lcc (s : State) (f : FFlags) : (s.orFlags f).lcc = s.lcc := rfl
@[simp] theorem State.orFlags_agenda (s : State) (f : FFlags) : (s.orFlags f).agenda = s.agenda := rfl
@[simp] theorem State.orFlags_outbox (s : State) (f : FFlags) : (s.orFlags f).outbox = s.outbox := rfl
@[simp] theorem State.orFlags_issued (s : State) (f : FFlags) : (s.orFlags f).issued = s.issued := rfl
@[simp] theorem State.orFlags_pace (s : State) (f : FFlags) : (s.orFlags f).pace = s.pace := rfl
@[simp] theorem State.orFlags_pending (s : State) (f : FFlags) : (s.orFlags f).pending = s.pending := rfl
@[simp] theorem State.orFlags_ev (s : State) (f : FFlags) : (s.orFlags f).ev = s.ev := rfl
@[simp] theorem State.orFlags_tick (s : State) (f : FFlags) : (s.orFlags f).tick = s.tick := rfl
@[simp] theorem State.orFlags_th_handle (s : State) (f : FFlags) : (s.orFlags f).th.handle = s.th.handle := rfl
@[simp] theorem State.orFlags_th_wid (s : State) (f : FFlags) : (s.orFlags f).th.wid = s.th.wid := rfl
@[simp] theorem State.orFlags_th_place (s : State) (f : FFlags) : (s.orFlags f).th.place = s.th.place := rfl
@[simp] theorem State.orFlags_th_core (s : State) (f : FFlags) : (s.orFlags f).th.core = s.th.core := rfl
@[simp] theorem State.orFlags_th_slot (s : State) (f : FFlags) : (s.orFlags f).th.slot = s.th.slot := rfl
@[simp] theorem State.orFlags_th_sup (s : State) (f : FFlags) : (s.orFlags f).th.sup = s.th.sup := rfl
@[simp] theorem State.orFlags_th_dbg (s : State) (f : FFlags) : (s.orFlags f).th.dbg = s.th.dbg := rfl
@[simp] theorem State.orFlags_th_wait (s : State) (f : FFlags) : (s.orFlags f).th.wait = s.th.wait := rfl
@[simp] theorem State.orFlags_th_parked (s : State) (f : FFlags) : (s.orFlags f).th.parked = s.th.parked := rfl
@[simp] theorem State.orFlags_th_held (s : State) (f : FFlags) : (s.orFlags f).th.held = s.th.held := rfl
@[simp] theorem State.orFlags_th_convoy (s : State) (f : FFlags) : (s.orFlags f).th.convoy = s.th.convoy := rfl
@[simp] theorem State.orFlags_th_grant (s : State) (f : FFlags) : (s.orFlags f).th.grant = s.th.grant := rfl
@[simp] theorem State.orFlags_th_runs (s : State) (f : FFlags) : (s.orFlags f).th.runs = s.th.runs := rfl
@[simp] theorem State.orFlags_th_bxq (s : State) (f : FFlags) : (s.orFlags f).th.bxq = s.th.bxq := rfl
@[simp] theorem State.orFlags_th_slots (s : State) (f : FFlags) : (s.orFlags f).th.slots = s.th.slots := rfl
@[simp] theorem State.orFlags_th_fresh (s : State) (f : FFlags) : (s.orFlags f).th.fresh = s.th.fresh := rfl
@[simp] theorem State.orFlags_th_departures (s : State) (f : FFlags) : (s.orFlags f).th.departures = s.th.departures := rfl
@[simp] theorem State.orFlags_th_told (s : State) (f : FFlags) : (s.orFlags f).th.told = s.th.told := rfl
@[simp] theorem State.orFlags_th_mix (s : State) (f : FFlags) : (s.orFlags f).th.mix = s.th.mix := rfl
@[simp] theorem State.orFlags_th_position (s : State) (f : FFlags) : (s.orFlags f).th.position = s.th.position := rfl
@[simp] theorem State.orFlags_th_lgG (s : State) (f : FFlags) : (s.orFlags f).th.lgG = s.th.lgG := rfl
@[simp] theorem State.orFlags_th_lgG0 (s : State) (f : FFlags) : (s.orFlags f).th.lgG0 = s.th.lgG0 := rfl
@[simp] theorem State.orFlags_th_deepHeld (s : State) (f : FFlags) : (s.orFlags f).th.deepHeld = s.th.deepHeld := rfl
@[simp] theorem State.orFlags_arch_pc (s : State) (f : FFlags) : (s.orFlags f).th.arch.pc = s.th.arch.pc := rfl
@[simp] theorem State.orFlags_arch_g (s : State) (f : FFlags) : (s.orFlags f).th.arch.g = s.th.arch.g := rfl
@[simp] theorem State.orFlags_arch_v (s : State) (f : FFlags) : (s.orFlags f).th.arch.v = s.th.arch.v := rfl
@[simp] theorem State.orFlags_arch_p (s : State) (f : FFlags) : (s.orFlags f).th.arch.p = s.th.arch.p := rfl
@[simp] theorem State.orFlags_arch_acc (s : State) (f : FFlags) : (s.orFlags f).th.arch.acc = s.th.arch.acc := rfl
@[simp] theorem State.orFlags_arch_deep (s : State) (f : FFlags) : (s.orFlags f).th.arch.deep = s.th.arch.deep := rfl
@[simp] theorem State.orFlags_arch_loops (s : State) (f : FFlags) : (s.orFlags f).th.arch.loops = s.th.arch.loops := rfl
@[simp] theorem State.orFlags_arch_vcount (s : State) (f : FFlags) : (s.orFlags f).th.arch.vcount = s.th.arch.vcount := rfl
@[simp] theorem State.orFlags_arch_vform (s : State) (f : FFlags) : (s.orFlags f).th.arch.vform = s.th.arch.vform := rfl
@[simp] theorem State.orFlags_arch_vrot (s : State) (f : FFlags) : (s.orFlags f).th.arch.vrot = s.th.arch.vrot := rfl
@[simp] theorem State.orFlags_arch_fround (s : State) (f : FFlags) : (s.orFlags f).th.arch.fround = s.th.arch.fround := rfl
@[simp] theorem State.orFlags_arch_retired (s : State) (f : FFlags) : (s.orFlags f).th.arch.retired = s.th.arch.retired := rfl
@[simp] theorem State.orFlags_arch_xframe (s : State) (f : FFlags) : (s.orFlags f).th.arch.xframe = s.th.arch.xframe := rfl
@[simp] theorem State.orFlags_arch_xbase (s : State) (f : FFlags) : (s.orFlags f).th.arch.xbase = s.th.arch.xbase := rfl
@[simp] theorem State.orFlags_arch_tresume (s : State) (f : FFlags) : (s.orFlags f).th.arch.tresume = s.th.arch.tresume := rfl
@[simp] theorem State.orFlags_arch_vresume (s : State) (f : FFlags) : (s.orFlags f).th.arch.vresume = s.th.arch.vresume := rfl

@[simp] theorem State.setResume_others (s : State) (n : Nat) : (s.setResume n).others = s.others := rfl
@[simp] theorem State.setResume_dctxs (s : State) (n : Nat) : (s.setResume n).dctxs = s.dctxs := rfl
@[simp] theorem State.setResume_launches (s : State) (n : Nat) : (s.setResume n).launches = s.launches := rfl
@[simp] theorem State.setResume_mem (s : State) (n : Nat) : (s.setResume n).mem = s.mem := rfl
@[simp] theorem State.setResume_frames (s : State) (n : Nat) : (s.setResume n).frames = s.frames := rfl
@[simp] theorem State.setResume_hist (s : State) (n : Nat) : (s.setResume n).hist = s.hist := rfl
@[simp] theorem State.setResume_reports (s : State) (n : Nat) : (s.setResume n).reports = s.reports := rfl
@[simp] theorem State.setResume_poison (s : State) (n : Nat) : (s.setResume n).poison = s.poison := rfl
@[simp] theorem State.setResume_tlb (s : State) (n : Nat) : (s.setResume n).tlb = s.tlb := rfl
@[simp] theorem State.setResume_host (s : State) (n : Nat) : (s.setResume n).host = s.host := rfl
@[simp] theorem State.setResume_remote (s : State) (n : Nat) : (s.setResume n).remote = s.remote := rfl
@[simp] theorem State.setResume_tags (s : State) (n : Nat) : (s.setResume n).tags = s.tags := rfl
@[simp] theorem State.setResume_order (s : State) (n : Nat) : (s.setResume n).order = s.order := rfl
@[simp] theorem State.setResume_mod (s : State) (n : Nat) : (s.setResume n).mod = s.mod := rfl
@[simp] theorem State.setResume_fab (s : State) (n : Nat) : (s.setResume n).fab = s.fab := rfl
@[simp] theorem State.setResume_lcc (s : State) (n : Nat) : (s.setResume n).lcc = s.lcc := rfl
@[simp] theorem State.setResume_agenda (s : State) (n : Nat) : (s.setResume n).agenda = s.agenda := rfl
@[simp] theorem State.setResume_outbox (s : State) (n : Nat) : (s.setResume n).outbox = s.outbox := rfl
@[simp] theorem State.setResume_issued (s : State) (n : Nat) : (s.setResume n).issued = s.issued := rfl
@[simp] theorem State.setResume_pace (s : State) (n : Nat) : (s.setResume n).pace = s.pace := rfl
@[simp] theorem State.setResume_pending (s : State) (n : Nat) : (s.setResume n).pending = s.pending := rfl
@[simp] theorem State.setResume_ev (s : State) (n : Nat) : (s.setResume n).ev = s.ev := rfl
@[simp] theorem State.setResume_tick (s : State) (n : Nat) : (s.setResume n).tick = s.tick := rfl
@[simp] theorem State.setResume_th_handle (s : State) (n : Nat) : (s.setResume n).th.handle = s.th.handle := rfl
@[simp] theorem State.setResume_th_wid (s : State) (n : Nat) : (s.setResume n).th.wid = s.th.wid := rfl
@[simp] theorem State.setResume_th_place (s : State) (n : Nat) : (s.setResume n).th.place = s.th.place := rfl
@[simp] theorem State.setResume_th_core (s : State) (n : Nat) : (s.setResume n).th.core = s.th.core := rfl
@[simp] theorem State.setResume_th_slot (s : State) (n : Nat) : (s.setResume n).th.slot = s.th.slot := rfl
@[simp] theorem State.setResume_th_sup (s : State) (n : Nat) : (s.setResume n).th.sup = s.th.sup := rfl
@[simp] theorem State.setResume_th_dbg (s : State) (n : Nat) : (s.setResume n).th.dbg = s.th.dbg := rfl
@[simp] theorem State.setResume_th_wait (s : State) (n : Nat) : (s.setResume n).th.wait = s.th.wait := rfl
@[simp] theorem State.setResume_th_parked (s : State) (n : Nat) : (s.setResume n).th.parked = s.th.parked := rfl
@[simp] theorem State.setResume_th_held (s : State) (n : Nat) : (s.setResume n).th.held = s.th.held := rfl
@[simp] theorem State.setResume_th_convoy (s : State) (n : Nat) : (s.setResume n).th.convoy = s.th.convoy := rfl
@[simp] theorem State.setResume_th_grant (s : State) (n : Nat) : (s.setResume n).th.grant = s.th.grant := rfl
@[simp] theorem State.setResume_th_runs (s : State) (n : Nat) : (s.setResume n).th.runs = s.th.runs := rfl
@[simp] theorem State.setResume_th_bxq (s : State) (n : Nat) : (s.setResume n).th.bxq = s.th.bxq := rfl
@[simp] theorem State.setResume_th_slots (s : State) (n : Nat) : (s.setResume n).th.slots = s.th.slots := rfl
@[simp] theorem State.setResume_th_fresh (s : State) (n : Nat) : (s.setResume n).th.fresh = s.th.fresh := rfl
@[simp] theorem State.setResume_th_departures (s : State) (n : Nat) : (s.setResume n).th.departures = s.th.departures := rfl
@[simp] theorem State.setResume_th_told (s : State) (n : Nat) : (s.setResume n).th.told = s.th.told := rfl
@[simp] theorem State.setResume_th_mix (s : State) (n : Nat) : (s.setResume n).th.mix = s.th.mix := rfl
@[simp] theorem State.setResume_th_position (s : State) (n : Nat) : (s.setResume n).th.position = s.th.position := rfl
@[simp] theorem State.setResume_th_lgG (s : State) (n : Nat) : (s.setResume n).th.lgG = s.th.lgG := rfl
@[simp] theorem State.setResume_th_lgG0 (s : State) (n : Nat) : (s.setResume n).th.lgG0 = s.th.lgG0 := rfl
@[simp] theorem State.setResume_th_deepHeld (s : State) (n : Nat) : (s.setResume n).th.deepHeld = s.th.deepHeld := rfl
@[simp] theorem State.setResume_arch_pc (s : State) (n : Nat) : (s.setResume n).th.arch.pc = s.th.arch.pc := rfl
@[simp] theorem State.setResume_arch_g (s : State) (n : Nat) : (s.setResume n).th.arch.g = s.th.arch.g := rfl
@[simp] theorem State.setResume_arch_v (s : State) (n : Nat) : (s.setResume n).th.arch.v = s.th.arch.v := rfl
@[simp] theorem State.setResume_arch_p (s : State) (n : Nat) : (s.setResume n).th.arch.p = s.th.arch.p := rfl
@[simp] theorem State.setResume_arch_acc (s : State) (n : Nat) : (s.setResume n).th.arch.acc = s.th.arch.acc := rfl
@[simp] theorem State.setResume_arch_deep (s : State) (n : Nat) : (s.setResume n).th.arch.deep = s.th.arch.deep := rfl
@[simp] theorem State.setResume_arch_loops (s : State) (n : Nat) : (s.setResume n).th.arch.loops = s.th.arch.loops := rfl
@[simp] theorem State.setResume_arch_vcount (s : State) (n : Nat) : (s.setResume n).th.arch.vcount = s.th.arch.vcount := rfl
@[simp] theorem State.setResume_arch_vform (s : State) (n : Nat) : (s.setResume n).th.arch.vform = s.th.arch.vform := rfl
@[simp] theorem State.setResume_arch_vrot (s : State) (n : Nat) : (s.setResume n).th.arch.vrot = s.th.arch.vrot := rfl
@[simp] theorem State.setResume_arch_fstat (s : State) (n : Nat) : (s.setResume n).th.arch.fstat = s.th.arch.fstat := rfl
@[simp] theorem State.setResume_arch_fround (s : State) (n : Nat) : (s.setResume n).th.arch.fround = s.th.arch.fround := rfl
@[simp] theorem State.setResume_arch_retired (s : State) (n : Nat) : (s.setResume n).th.arch.retired = s.th.arch.retired := rfl
@[simp] theorem State.setResume_arch_xframe (s : State) (n : Nat) : (s.setResume n).th.arch.xframe = s.th.arch.xframe := rfl
@[simp] theorem State.setResume_arch_xbase (s : State) (n : Nat) : (s.setResume n).th.arch.xbase = s.th.arch.xbase := rfl
@[simp] theorem State.setResume_arch_tresume (s : State) (n : Nat) : (s.setResume n).th.arch.tresume = s.th.arch.tresume := rfl

@[simp] theorem State.setTransfer_others (s : State) (r : Option RunOp) : (s.setTransfer r).others = s.others := rfl
@[simp] theorem State.setTransfer_dctxs (s : State) (r : Option RunOp) : (s.setTransfer r).dctxs = s.dctxs := rfl
@[simp] theorem State.setTransfer_launches (s : State) (r : Option RunOp) : (s.setTransfer r).launches = s.launches := rfl
@[simp] theorem State.setTransfer_mem (s : State) (r : Option RunOp) : (s.setTransfer r).mem = s.mem := rfl
@[simp] theorem State.setTransfer_frames (s : State) (r : Option RunOp) : (s.setTransfer r).frames = s.frames := rfl
@[simp] theorem State.setTransfer_hist (s : State) (r : Option RunOp) : (s.setTransfer r).hist = s.hist := rfl
@[simp] theorem State.setTransfer_reports (s : State) (r : Option RunOp) : (s.setTransfer r).reports = s.reports := rfl
@[simp] theorem State.setTransfer_poison (s : State) (r : Option RunOp) : (s.setTransfer r).poison = s.poison := rfl
@[simp] theorem State.setTransfer_tlb (s : State) (r : Option RunOp) : (s.setTransfer r).tlb = s.tlb := rfl
@[simp] theorem State.setTransfer_host (s : State) (r : Option RunOp) : (s.setTransfer r).host = s.host := rfl
@[simp] theorem State.setTransfer_remote (s : State) (r : Option RunOp) : (s.setTransfer r).remote = s.remote := rfl
@[simp] theorem State.setTransfer_tags (s : State) (r : Option RunOp) : (s.setTransfer r).tags = s.tags := rfl
@[simp] theorem State.setTransfer_order (s : State) (r : Option RunOp) : (s.setTransfer r).order = s.order := rfl
@[simp] theorem State.setTransfer_mod (s : State) (r : Option RunOp) : (s.setTransfer r).mod = s.mod := rfl
@[simp] theorem State.setTransfer_fab (s : State) (r : Option RunOp) : (s.setTransfer r).fab = s.fab := rfl
@[simp] theorem State.setTransfer_lcc (s : State) (r : Option RunOp) : (s.setTransfer r).lcc = s.lcc := rfl
@[simp] theorem State.setTransfer_agenda (s : State) (r : Option RunOp) : (s.setTransfer r).agenda = s.agenda := rfl
@[simp] theorem State.setTransfer_outbox (s : State) (r : Option RunOp) : (s.setTransfer r).outbox = s.outbox := rfl
@[simp] theorem State.setTransfer_issued (s : State) (r : Option RunOp) : (s.setTransfer r).issued = s.issued := rfl
@[simp] theorem State.setTransfer_pace (s : State) (r : Option RunOp) : (s.setTransfer r).pace = s.pace := rfl
@[simp] theorem State.setTransfer_pending (s : State) (r : Option RunOp) : (s.setTransfer r).pending = s.pending := rfl
@[simp] theorem State.setTransfer_ev (s : State) (r : Option RunOp) : (s.setTransfer r).ev = s.ev := rfl
@[simp] theorem State.setTransfer_tick (s : State) (r : Option RunOp) : (s.setTransfer r).tick = s.tick := rfl
@[simp] theorem State.setTransfer_th_handle (s : State) (r : Option RunOp) : (s.setTransfer r).th.handle = s.th.handle := rfl
@[simp] theorem State.setTransfer_th_wid (s : State) (r : Option RunOp) : (s.setTransfer r).th.wid = s.th.wid := rfl
@[simp] theorem State.setTransfer_th_place (s : State) (r : Option RunOp) : (s.setTransfer r).th.place = s.th.place := rfl
@[simp] theorem State.setTransfer_th_core (s : State) (r : Option RunOp) : (s.setTransfer r).th.core = s.th.core := rfl
@[simp] theorem State.setTransfer_th_slot (s : State) (r : Option RunOp) : (s.setTransfer r).th.slot = s.th.slot := rfl
@[simp] theorem State.setTransfer_th_sup (s : State) (r : Option RunOp) : (s.setTransfer r).th.sup = s.th.sup := rfl
@[simp] theorem State.setTransfer_th_dbg (s : State) (r : Option RunOp) : (s.setTransfer r).th.dbg = s.th.dbg := rfl
@[simp] theorem State.setTransfer_th_wait (s : State) (r : Option RunOp) : (s.setTransfer r).th.wait = s.th.wait := rfl
@[simp] theorem State.setTransfer_th_parked (s : State) (r : Option RunOp) : (s.setTransfer r).th.parked = s.th.parked := rfl
@[simp] theorem State.setTransfer_th_held (s : State) (r : Option RunOp) : (s.setTransfer r).th.held = s.th.held := rfl
@[simp] theorem State.setTransfer_th_convoy (s : State) (r : Option RunOp) : (s.setTransfer r).th.convoy = s.th.convoy := rfl
@[simp] theorem State.setTransfer_th_grant (s : State) (r : Option RunOp) : (s.setTransfer r).th.grant = s.th.grant := rfl
@[simp] theorem State.setTransfer_th_bxq (s : State) (r : Option RunOp) : (s.setTransfer r).th.bxq = s.th.bxq := rfl
@[simp] theorem State.setTransfer_th_slots (s : State) (r : Option RunOp) : (s.setTransfer r).th.slots = s.th.slots := rfl
@[simp] theorem State.setTransfer_th_fresh (s : State) (r : Option RunOp) : (s.setTransfer r).th.fresh = s.th.fresh := rfl
@[simp] theorem State.setTransfer_th_departures (s : State) (r : Option RunOp) : (s.setTransfer r).th.departures = s.th.departures := rfl
@[simp] theorem State.setTransfer_th_told (s : State) (r : Option RunOp) : (s.setTransfer r).th.told = s.th.told := rfl
@[simp] theorem State.setTransfer_th_mix (s : State) (r : Option RunOp) : (s.setTransfer r).th.mix = s.th.mix := rfl
@[simp] theorem State.setTransfer_th_position (s : State) (r : Option RunOp) : (s.setTransfer r).th.position = s.th.position := rfl
@[simp] theorem State.setTransfer_th_lgG (s : State) (r : Option RunOp) : (s.setTransfer r).th.lgG = s.th.lgG := rfl
@[simp] theorem State.setTransfer_th_lgG0 (s : State) (r : Option RunOp) : (s.setTransfer r).th.lgG0 = s.th.lgG0 := rfl
@[simp] theorem State.setTransfer_th_deepHeld (s : State) (r : Option RunOp) : (s.setTransfer r).th.deepHeld = s.th.deepHeld := rfl
@[simp] theorem State.setTransfer_th_arch (s : State) (r : Option RunOp) : (s.setTransfer r).th.arch = s.th.arch := rfl

@[simp] theorem State.advance_others (s : State)  : (s.advance).others = s.others := rfl
@[simp] theorem State.advance_dctxs (s : State)  : (s.advance).dctxs = s.dctxs := rfl
@[simp] theorem State.advance_launches (s : State)  : (s.advance).launches = s.launches := rfl
@[simp] theorem State.advance_mem (s : State)  : (s.advance).mem = s.mem := rfl
@[simp] theorem State.advance_frames (s : State)  : (s.advance).frames = s.frames := rfl
@[simp] theorem State.advance_hist (s : State)  : (s.advance).hist = s.hist := rfl
@[simp] theorem State.advance_reports (s : State)  : (s.advance).reports = s.reports := rfl
@[simp] theorem State.advance_poison (s : State)  : (s.advance).poison = s.poison := rfl
@[simp] theorem State.advance_tlb (s : State)  : (s.advance).tlb = s.tlb := rfl
@[simp] theorem State.advance_host (s : State)  : (s.advance).host = s.host := rfl
@[simp] theorem State.advance_remote (s : State)  : (s.advance).remote = s.remote := rfl
@[simp] theorem State.advance_tags (s : State)  : (s.advance).tags = s.tags := rfl
@[simp] theorem State.advance_order (s : State)  : (s.advance).order = s.order := rfl
@[simp] theorem State.advance_mod (s : State)  : (s.advance).mod = s.mod := rfl
@[simp] theorem State.advance_fab (s : State)  : (s.advance).fab = s.fab := rfl
@[simp] theorem State.advance_lcc (s : State)  : (s.advance).lcc = s.lcc := rfl
@[simp] theorem State.advance_agenda (s : State)  : (s.advance).agenda = s.agenda := rfl
@[simp] theorem State.advance_outbox (s : State)  : (s.advance).outbox = s.outbox := rfl
@[simp] theorem State.advance_pending (s : State)  : (s.advance).pending = s.pending := rfl
@[simp] theorem State.advance_ev (s : State)  : (s.advance).ev = s.ev := rfl
@[simp] theorem State.advance_th (s : State)  : (s.advance).th = s.th := rfl

@[simp] theorem State.idle_others (s : State)  : (s.idle).others = s.others := rfl
@[simp] theorem State.idle_dctxs (s : State)  : (s.idle).dctxs = s.dctxs := rfl
@[simp] theorem State.idle_launches (s : State)  : (s.idle).launches = s.launches := rfl
@[simp] theorem State.idle_mem (s : State)  : (s.idle).mem = s.mem := rfl
@[simp] theorem State.idle_frames (s : State)  : (s.idle).frames = s.frames := rfl
@[simp] theorem State.idle_hist (s : State)  : (s.idle).hist = s.hist := rfl
@[simp] theorem State.idle_reports (s : State)  : (s.idle).reports = s.reports := rfl
@[simp] theorem State.idle_poison (s : State)  : (s.idle).poison = s.poison := rfl
@[simp] theorem State.idle_tlb (s : State)  : (s.idle).tlb = s.tlb := rfl
@[simp] theorem State.idle_host (s : State)  : (s.idle).host = s.host := rfl
@[simp] theorem State.idle_remote (s : State)  : (s.idle).remote = s.remote := rfl
@[simp] theorem State.idle_tags (s : State)  : (s.idle).tags = s.tags := rfl
@[simp] theorem State.idle_order (s : State)  : (s.idle).order = s.order := rfl
@[simp] theorem State.idle_fab (s : State)  : (s.idle).fab = s.fab := rfl
@[simp] theorem State.idle_agenda (s : State)  : (s.idle).agenda = s.agenda := rfl
@[simp] theorem State.idle_outbox (s : State)  : (s.idle).outbox = s.outbox := rfl
@[simp] theorem State.idle_pending (s : State)  : (s.idle).pending = s.pending := rfl
@[simp] theorem State.idle_ev (s : State)  : (s.idle).ev = s.ev := rfl
@[simp] theorem State.idle_th (s : State)  : (s.idle).th = s.th := rfl

@[simp] theorem State.bump_others (s : State) (off n : Nat) : (s.bump off n).others = s.others := rfl
@[simp] theorem State.bump_dctxs (s : State) (off n : Nat) : (s.bump off n).dctxs = s.dctxs := rfl
@[simp] theorem State.bump_launches (s : State) (off n : Nat) : (s.bump off n).launches = s.launches := rfl
@[simp] theorem State.bump_mem (s : State) (off n : Nat) : (s.bump off n).mem = s.mem := rfl
@[simp] theorem State.bump_frames (s : State) (off n : Nat) : (s.bump off n).frames = s.frames := rfl
@[simp] theorem State.bump_hist (s : State) (off n : Nat) : (s.bump off n).hist = s.hist := rfl
@[simp] theorem State.bump_reports (s : State) (off n : Nat) : (s.bump off n).reports = s.reports := rfl
@[simp] theorem State.bump_poison (s : State) (off n : Nat) : (s.bump off n).poison = s.poison := rfl
@[simp] theorem State.bump_tlb (s : State) (off n : Nat) : (s.bump off n).tlb = s.tlb := rfl
@[simp] theorem State.bump_host (s : State) (off n : Nat) : (s.bump off n).host = s.host := rfl
@[simp] theorem State.bump_remote (s : State) (off n : Nat) : (s.bump off n).remote = s.remote := rfl
@[simp] theorem State.bump_tags (s : State) (off n : Nat) : (s.bump off n).tags = s.tags := rfl
@[simp] theorem State.bump_order (s : State) (off n : Nat) : (s.bump off n).order = s.order := rfl
@[simp] theorem State.bump_fab (s : State) (off n : Nat) : (s.bump off n).fab = s.fab := rfl
@[simp] theorem State.bump_lcc (s : State) (off n : Nat) : (s.bump off n).lcc = s.lcc := rfl
@[simp] theorem State.bump_agenda (s : State) (off n : Nat) : (s.bump off n).agenda = s.agenda := rfl
@[simp] theorem State.bump_outbox (s : State) (off n : Nat) : (s.bump off n).outbox = s.outbox := rfl
@[simp] theorem State.bump_issued (s : State) (off n : Nat) : (s.bump off n).issued = s.issued := rfl
@[simp] theorem State.bump_pace (s : State) (off n : Nat) : (s.bump off n).pace = s.pace := rfl
@[simp] theorem State.bump_pending (s : State) (off n : Nat) : (s.bump off n).pending = s.pending := rfl
@[simp] theorem State.bump_ev (s : State) (off n : Nat) : (s.bump off n).ev = s.ev := rfl
@[simp] theorem State.bump_tick (s : State) (off n : Nat) : (s.bump off n).tick = s.tick := rfl
@[simp] theorem State.bump_th (s : State) (off n : Nat) : (s.bump off n).th = s.th := rfl

@[simp] theorem State.bumpCore_others (s : State) (off n : Nat) : (s.bumpCore off n).others = s.others := rfl
@[simp] theorem State.bumpCore_dctxs (s : State) (off n : Nat) : (s.bumpCore off n).dctxs = s.dctxs := rfl
@[simp] theorem State.bumpCore_launches (s : State) (off n : Nat) : (s.bumpCore off n).launches = s.launches := rfl
@[simp] theorem State.bumpCore_mem (s : State) (off n : Nat) : (s.bumpCore off n).mem = s.mem := rfl
@[simp] theorem State.bumpCore_frames (s : State) (off n : Nat) : (s.bumpCore off n).frames = s.frames := rfl
@[simp] theorem State.bumpCore_hist (s : State) (off n : Nat) : (s.bumpCore off n).hist = s.hist := rfl
@[simp] theorem State.bumpCore_reports (s : State) (off n : Nat) : (s.bumpCore off n).reports = s.reports := rfl
@[simp] theorem State.bumpCore_poison (s : State) (off n : Nat) : (s.bumpCore off n).poison = s.poison := rfl
@[simp] theorem State.bumpCore_tlb (s : State) (off n : Nat) : (s.bumpCore off n).tlb = s.tlb := rfl
@[simp] theorem State.bumpCore_host (s : State) (off n : Nat) : (s.bumpCore off n).host = s.host := rfl
@[simp] theorem State.bumpCore_remote (s : State) (off n : Nat) : (s.bumpCore off n).remote = s.remote := rfl
@[simp] theorem State.bumpCore_tags (s : State) (off n : Nat) : (s.bumpCore off n).tags = s.tags := rfl
@[simp] theorem State.bumpCore_order (s : State) (off n : Nat) : (s.bumpCore off n).order = s.order := rfl
@[simp] theorem State.bumpCore_fab (s : State) (off n : Nat) : (s.bumpCore off n).fab = s.fab := rfl
@[simp] theorem State.bumpCore_lcc (s : State) (off n : Nat) : (s.bumpCore off n).lcc = s.lcc := rfl
@[simp] theorem State.bumpCore_agenda (s : State) (off n : Nat) : (s.bumpCore off n).agenda = s.agenda := rfl
@[simp] theorem State.bumpCore_outbox (s : State) (off n : Nat) : (s.bumpCore off n).outbox = s.outbox := rfl
@[simp] theorem State.bumpCore_issued (s : State) (off n : Nat) : (s.bumpCore off n).issued = s.issued := rfl
@[simp] theorem State.bumpCore_pace (s : State) (off n : Nat) : (s.bumpCore off n).pace = s.pace := rfl
@[simp] theorem State.bumpCore_pending (s : State) (off n : Nat) : (s.bumpCore off n).pending = s.pending := rfl
@[simp] theorem State.bumpCore_ev (s : State) (off n : Nat) : (s.bumpCore off n).ev = s.ev := rfl
@[simp] theorem State.bumpCore_tick (s : State) (off n : Nat) : (s.bumpCore off n).tick = s.tick := rfl
@[simp] theorem State.bumpCore_th (s : State) (off n : Nat) : (s.bumpCore off n).th = s.th := rfl

@[simp] theorem State.modDctx_others (s : State) (dc : DctxId) (f : Dctx → Dctx) : (s.modDctx dc f).others = s.others := rfl
@[simp] theorem State.modDctx_launches (s : State) (dc : DctxId) (f : Dctx → Dctx) : (s.modDctx dc f).launches = s.launches := rfl
@[simp] theorem State.modDctx_mem (s : State) (dc : DctxId) (f : Dctx → Dctx) : (s.modDctx dc f).mem = s.mem := rfl
@[simp] theorem State.modDctx_frames (s : State) (dc : DctxId) (f : Dctx → Dctx) : (s.modDctx dc f).frames = s.frames := rfl
@[simp] theorem State.modDctx_hist (s : State) (dc : DctxId) (f : Dctx → Dctx) : (s.modDctx dc f).hist = s.hist := rfl
@[simp] theorem State.modDctx_reports (s : State) (dc : DctxId) (f : Dctx → Dctx) : (s.modDctx dc f).reports = s.reports := rfl
@[simp] theorem State.modDctx_poison (s : State) (dc : DctxId) (f : Dctx → Dctx) : (s.modDctx dc f).poison = s.poison := rfl
@[simp] theorem State.modDctx_tlb (s : State) (dc : DctxId) (f : Dctx → Dctx) : (s.modDctx dc f).tlb = s.tlb := rfl
@[simp] theorem State.modDctx_host (s : State) (dc : DctxId) (f : Dctx → Dctx) : (s.modDctx dc f).host = s.host := rfl
@[simp] theorem State.modDctx_remote (s : State) (dc : DctxId) (f : Dctx → Dctx) : (s.modDctx dc f).remote = s.remote := rfl
@[simp] theorem State.modDctx_tags (s : State) (dc : DctxId) (f : Dctx → Dctx) : (s.modDctx dc f).tags = s.tags := rfl
@[simp] theorem State.modDctx_order (s : State) (dc : DctxId) (f : Dctx → Dctx) : (s.modDctx dc f).order = s.order := rfl
@[simp] theorem State.modDctx_mod (s : State) (dc : DctxId) (f : Dctx → Dctx) : (s.modDctx dc f).mod = s.mod := rfl
@[simp] theorem State.modDctx_fab (s : State) (dc : DctxId) (f : Dctx → Dctx) : (s.modDctx dc f).fab = s.fab := rfl
@[simp] theorem State.modDctx_lcc (s : State) (dc : DctxId) (f : Dctx → Dctx) : (s.modDctx dc f).lcc = s.lcc := rfl
@[simp] theorem State.modDctx_agenda (s : State) (dc : DctxId) (f : Dctx → Dctx) : (s.modDctx dc f).agenda = s.agenda := rfl
@[simp] theorem State.modDctx_outbox (s : State) (dc : DctxId) (f : Dctx → Dctx) : (s.modDctx dc f).outbox = s.outbox := rfl
@[simp] theorem State.modDctx_issued (s : State) (dc : DctxId) (f : Dctx → Dctx) : (s.modDctx dc f).issued = s.issued := rfl
@[simp] theorem State.modDctx_pace (s : State) (dc : DctxId) (f : Dctx → Dctx) : (s.modDctx dc f).pace = s.pace := rfl
@[simp] theorem State.modDctx_pending (s : State) (dc : DctxId) (f : Dctx → Dctx) : (s.modDctx dc f).pending = s.pending := rfl
@[simp] theorem State.modDctx_ev (s : State) (dc : DctxId) (f : Dctx → Dctx) : (s.modDctx dc f).ev = s.ev := rfl
@[simp] theorem State.modDctx_tick (s : State) (dc : DctxId) (f : Dctx → Dctx) : (s.modDctx dc f).tick = s.tick := rfl
@[simp] theorem State.modDctx_th (s : State) (dc : DctxId) (f : Dctx → Dctx) : (s.modDctx dc f).th = s.th := rfl

@[simp] theorem State.putDctx_others (s : State) (d : Dctx) : (s.putDctx d).others = s.others := rfl
@[simp] theorem State.putDctx_launches (s : State) (d : Dctx) : (s.putDctx d).launches = s.launches := rfl
@[simp] theorem State.putDctx_mem (s : State) (d : Dctx) : (s.putDctx d).mem = s.mem := rfl
@[simp] theorem State.putDctx_frames (s : State) (d : Dctx) : (s.putDctx d).frames = s.frames := rfl
@[simp] theorem State.putDctx_hist (s : State) (d : Dctx) : (s.putDctx d).hist = s.hist := rfl
@[simp] theorem State.putDctx_reports (s : State) (d : Dctx) : (s.putDctx d).reports = s.reports := rfl
@[simp] theorem State.putDctx_poison (s : State) (d : Dctx) : (s.putDctx d).poison = s.poison := rfl
@[simp] theorem State.putDctx_tlb (s : State) (d : Dctx) : (s.putDctx d).tlb = s.tlb := rfl
@[simp] theorem State.putDctx_host (s : State) (d : Dctx) : (s.putDctx d).host = s.host := rfl
@[simp] theorem State.putDctx_remote (s : State) (d : Dctx) : (s.putDctx d).remote = s.remote := rfl
@[simp] theorem State.putDctx_tags (s : State) (d : Dctx) : (s.putDctx d).tags = s.tags := rfl
@[simp] theorem State.putDctx_order (s : State) (d : Dctx) : (s.putDctx d).order = s.order := rfl
@[simp] theorem State.putDctx_mod (s : State) (d : Dctx) : (s.putDctx d).mod = s.mod := rfl
@[simp] theorem State.putDctx_fab (s : State) (d : Dctx) : (s.putDctx d).fab = s.fab := rfl
@[simp] theorem State.putDctx_lcc (s : State) (d : Dctx) : (s.putDctx d).lcc = s.lcc := rfl
@[simp] theorem State.putDctx_agenda (s : State) (d : Dctx) : (s.putDctx d).agenda = s.agenda := rfl
@[simp] theorem State.putDctx_outbox (s : State) (d : Dctx) : (s.putDctx d).outbox = s.outbox := rfl
@[simp] theorem State.putDctx_issued (s : State) (d : Dctx) : (s.putDctx d).issued = s.issued := rfl
@[simp] theorem State.putDctx_pace (s : State) (d : Dctx) : (s.putDctx d).pace = s.pace := rfl
@[simp] theorem State.putDctx_pending (s : State) (d : Dctx) : (s.putDctx d).pending = s.pending := rfl
@[simp] theorem State.putDctx_ev (s : State) (d : Dctx) : (s.putDctx d).ev = s.ev := rfl
@[simp] theorem State.putDctx_tick (s : State) (d : Dctx) : (s.putDctx d).tick = s.tick := rfl
@[simp] theorem State.putDctx_th (s : State) (d : Dctx) : (s.putDctx d).th = s.th := rfl

@[simp] theorem State.modLaunch_others (s : State) (dc : DctxId) (slot : LaunchSlot) (f : Launch → Launch) : (s.modLaunch dc slot f).others = s.others := rfl
@[simp] theorem State.modLaunch_dctxs (s : State) (dc : DctxId) (slot : LaunchSlot) (f : Launch → Launch) : (s.modLaunch dc slot f).dctxs = s.dctxs := rfl
@[simp] theorem State.modLaunch_mem (s : State) (dc : DctxId) (slot : LaunchSlot) (f : Launch → Launch) : (s.modLaunch dc slot f).mem = s.mem := rfl
@[simp] theorem State.modLaunch_frames (s : State) (dc : DctxId) (slot : LaunchSlot) (f : Launch → Launch) : (s.modLaunch dc slot f).frames = s.frames := rfl
@[simp] theorem State.modLaunch_hist (s : State) (dc : DctxId) (slot : LaunchSlot) (f : Launch → Launch) : (s.modLaunch dc slot f).hist = s.hist := rfl
@[simp] theorem State.modLaunch_reports (s : State) (dc : DctxId) (slot : LaunchSlot) (f : Launch → Launch) : (s.modLaunch dc slot f).reports = s.reports := rfl
@[simp] theorem State.modLaunch_poison (s : State) (dc : DctxId) (slot : LaunchSlot) (f : Launch → Launch) : (s.modLaunch dc slot f).poison = s.poison := rfl
@[simp] theorem State.modLaunch_tlb (s : State) (dc : DctxId) (slot : LaunchSlot) (f : Launch → Launch) : (s.modLaunch dc slot f).tlb = s.tlb := rfl
@[simp] theorem State.modLaunch_host (s : State) (dc : DctxId) (slot : LaunchSlot) (f : Launch → Launch) : (s.modLaunch dc slot f).host = s.host := rfl
@[simp] theorem State.modLaunch_remote (s : State) (dc : DctxId) (slot : LaunchSlot) (f : Launch → Launch) : (s.modLaunch dc slot f).remote = s.remote := rfl
@[simp] theorem State.modLaunch_tags (s : State) (dc : DctxId) (slot : LaunchSlot) (f : Launch → Launch) : (s.modLaunch dc slot f).tags = s.tags := rfl
@[simp] theorem State.modLaunch_order (s : State) (dc : DctxId) (slot : LaunchSlot) (f : Launch → Launch) : (s.modLaunch dc slot f).order = s.order := rfl
@[simp] theorem State.modLaunch_mod (s : State) (dc : DctxId) (slot : LaunchSlot) (f : Launch → Launch) : (s.modLaunch dc slot f).mod = s.mod := rfl
@[simp] theorem State.modLaunch_fab (s : State) (dc : DctxId) (slot : LaunchSlot) (f : Launch → Launch) : (s.modLaunch dc slot f).fab = s.fab := rfl
@[simp] theorem State.modLaunch_lcc (s : State) (dc : DctxId) (slot : LaunchSlot) (f : Launch → Launch) : (s.modLaunch dc slot f).lcc = s.lcc := rfl
@[simp] theorem State.modLaunch_agenda (s : State) (dc : DctxId) (slot : LaunchSlot) (f : Launch → Launch) : (s.modLaunch dc slot f).agenda = s.agenda := rfl
@[simp] theorem State.modLaunch_outbox (s : State) (dc : DctxId) (slot : LaunchSlot) (f : Launch → Launch) : (s.modLaunch dc slot f).outbox = s.outbox := rfl
@[simp] theorem State.modLaunch_issued (s : State) (dc : DctxId) (slot : LaunchSlot) (f : Launch → Launch) : (s.modLaunch dc slot f).issued = s.issued := rfl
@[simp] theorem State.modLaunch_pace (s : State) (dc : DctxId) (slot : LaunchSlot) (f : Launch → Launch) : (s.modLaunch dc slot f).pace = s.pace := rfl
@[simp] theorem State.modLaunch_pending (s : State) (dc : DctxId) (slot : LaunchSlot) (f : Launch → Launch) : (s.modLaunch dc slot f).pending = s.pending := rfl
@[simp] theorem State.modLaunch_ev (s : State) (dc : DctxId) (slot : LaunchSlot) (f : Launch → Launch) : (s.modLaunch dc slot f).ev = s.ev := rfl
@[simp] theorem State.modLaunch_tick (s : State) (dc : DctxId) (slot : LaunchSlot) (f : Launch → Launch) : (s.modLaunch dc slot f).tick = s.tick := rfl
@[simp] theorem State.modLaunch_th (s : State) (dc : DctxId) (slot : LaunchSlot) (f : Launch → Launch) : (s.modLaunch dc slot f).th = s.th := rfl

@[simp] theorem State.modThread_dctxs (s : State) (h : Handle) (f : Thread → Thread) : (s.modThread h f).dctxs = s.dctxs := rfl
@[simp] theorem State.modThread_launches (s : State) (h : Handle) (f : Thread → Thread) : (s.modThread h f).launches = s.launches := rfl
@[simp] theorem State.modThread_mem (s : State) (h : Handle) (f : Thread → Thread) : (s.modThread h f).mem = s.mem := rfl
@[simp] theorem State.modThread_frames (s : State) (h : Handle) (f : Thread → Thread) : (s.modThread h f).frames = s.frames := rfl
@[simp] theorem State.modThread_hist (s : State) (h : Handle) (f : Thread → Thread) : (s.modThread h f).hist = s.hist := rfl
@[simp] theorem State.modThread_reports (s : State) (h : Handle) (f : Thread → Thread) : (s.modThread h f).reports = s.reports := rfl
@[simp] theorem State.modThread_poison (s : State) (h : Handle) (f : Thread → Thread) : (s.modThread h f).poison = s.poison := rfl
@[simp] theorem State.modThread_tlb (s : State) (h : Handle) (f : Thread → Thread) : (s.modThread h f).tlb = s.tlb := rfl
@[simp] theorem State.modThread_host (s : State) (h : Handle) (f : Thread → Thread) : (s.modThread h f).host = s.host := rfl
@[simp] theorem State.modThread_remote (s : State) (h : Handle) (f : Thread → Thread) : (s.modThread h f).remote = s.remote := rfl
@[simp] theorem State.modThread_tags (s : State) (h : Handle) (f : Thread → Thread) : (s.modThread h f).tags = s.tags := rfl
@[simp] theorem State.modThread_order (s : State) (h : Handle) (f : Thread → Thread) : (s.modThread h f).order = s.order := rfl
@[simp] theorem State.modThread_mod (s : State) (h : Handle) (f : Thread → Thread) : (s.modThread h f).mod = s.mod := rfl
@[simp] theorem State.modThread_fab (s : State) (h : Handle) (f : Thread → Thread) : (s.modThread h f).fab = s.fab := rfl
@[simp] theorem State.modThread_lcc (s : State) (h : Handle) (f : Thread → Thread) : (s.modThread h f).lcc = s.lcc := rfl
@[simp] theorem State.modThread_agenda (s : State) (h : Handle) (f : Thread → Thread) : (s.modThread h f).agenda = s.agenda := rfl
@[simp] theorem State.modThread_outbox (s : State) (h : Handle) (f : Thread → Thread) : (s.modThread h f).outbox = s.outbox := rfl
@[simp] theorem State.modThread_issued (s : State) (h : Handle) (f : Thread → Thread) : (s.modThread h f).issued = s.issued := rfl
@[simp] theorem State.modThread_pace (s : State) (h : Handle) (f : Thread → Thread) : (s.modThread h f).pace = s.pace := rfl
@[simp] theorem State.modThread_pending (s : State) (h : Handle) (f : Thread → Thread) : (s.modThread h f).pending = s.pending := rfl
@[simp] theorem State.modThread_ev (s : State) (h : Handle) (f : Thread → Thread) : (s.modThread h f).ev = s.ev := rfl
@[simp] theorem State.modThread_tick (s : State) (h : Handle) (f : Thread → Thread) : (s.modThread h f).tick = s.tick := rfl

@[simp] theorem State.mapThreads_dctxs (s : State) (f : Thread → Thread) : (s.mapThreads f).dctxs = s.dctxs := rfl
@[simp] theorem State.mapThreads_launches (s : State) (f : Thread → Thread) : (s.mapThreads f).launches = s.launches := rfl
@[simp] theorem State.mapThreads_mem (s : State) (f : Thread → Thread) : (s.mapThreads f).mem = s.mem := rfl
@[simp] theorem State.mapThreads_frames (s : State) (f : Thread → Thread) : (s.mapThreads f).frames = s.frames := rfl
@[simp] theorem State.mapThreads_hist (s : State) (f : Thread → Thread) : (s.mapThreads f).hist = s.hist := rfl
@[simp] theorem State.mapThreads_reports (s : State) (f : Thread → Thread) : (s.mapThreads f).reports = s.reports := rfl
@[simp] theorem State.mapThreads_poison (s : State) (f : Thread → Thread) : (s.mapThreads f).poison = s.poison := rfl
@[simp] theorem State.mapThreads_tlb (s : State) (f : Thread → Thread) : (s.mapThreads f).tlb = s.tlb := rfl
@[simp] theorem State.mapThreads_host (s : State) (f : Thread → Thread) : (s.mapThreads f).host = s.host := rfl
@[simp] theorem State.mapThreads_remote (s : State) (f : Thread → Thread) : (s.mapThreads f).remote = s.remote := rfl
@[simp] theorem State.mapThreads_tags (s : State) (f : Thread → Thread) : (s.mapThreads f).tags = s.tags := rfl
@[simp] theorem State.mapThreads_order (s : State) (f : Thread → Thread) : (s.mapThreads f).order = s.order := rfl
@[simp] theorem State.mapThreads_mod (s : State) (f : Thread → Thread) : (s.mapThreads f).mod = s.mod := rfl
@[simp] theorem State.mapThreads_fab (s : State) (f : Thread → Thread) : (s.mapThreads f).fab = s.fab := rfl
@[simp] theorem State.mapThreads_lcc (s : State) (f : Thread → Thread) : (s.mapThreads f).lcc = s.lcc := rfl
@[simp] theorem State.mapThreads_agenda (s : State) (f : Thread → Thread) : (s.mapThreads f).agenda = s.agenda := rfl
@[simp] theorem State.mapThreads_outbox (s : State) (f : Thread → Thread) : (s.mapThreads f).outbox = s.outbox := rfl
@[simp] theorem State.mapThreads_issued (s : State) (f : Thread → Thread) : (s.mapThreads f).issued = s.issued := rfl
@[simp] theorem State.mapThreads_pace (s : State) (f : Thread → Thread) : (s.mapThreads f).pace = s.pace := rfl
@[simp] theorem State.mapThreads_pending (s : State) (f : Thread → Thread) : (s.mapThreads f).pending = s.pending := rfl
@[simp] theorem State.mapThreads_ev (s : State) (f : Thread → Thread) : (s.mapThreads f).ev = s.ev := rfl
@[simp] theorem State.mapThreads_tick (s : State) (f : Thread → Thread) : (s.mapThreads f).tick = s.tick := rfl

@[simp] theorem State.modPart_others (s : State) (p : PartId) (f : Partition → Partition) : (s.modPart p f).others = s.others := rfl
@[simp] theorem State.modPart_dctxs (s : State) (p : PartId) (f : Partition → Partition) : (s.modPart p f).dctxs = s.dctxs := rfl
@[simp] theorem State.modPart_launches (s : State) (p : PartId) (f : Partition → Partition) : (s.modPart p f).launches = s.launches := rfl
@[simp] theorem State.modPart_mem (s : State) (p : PartId) (f : Partition → Partition) : (s.modPart p f).mem = s.mem := rfl
@[simp] theorem State.modPart_frames (s : State) (p : PartId) (f : Partition → Partition) : (s.modPart p f).frames = s.frames := rfl
@[simp] theorem State.modPart_hist (s : State) (p : PartId) (f : Partition → Partition) : (s.modPart p f).hist = s.hist := rfl
@[simp] theorem State.modPart_reports (s : State) (p : PartId) (f : Partition → Partition) : (s.modPart p f).reports = s.reports := rfl
@[simp] theorem State.modPart_poison (s : State) (p : PartId) (f : Partition → Partition) : (s.modPart p f).poison = s.poison := rfl
@[simp] theorem State.modPart_tlb (s : State) (p : PartId) (f : Partition → Partition) : (s.modPart p f).tlb = s.tlb := rfl
@[simp] theorem State.modPart_host (s : State) (p : PartId) (f : Partition → Partition) : (s.modPart p f).host = s.host := rfl
@[simp] theorem State.modPart_remote (s : State) (p : PartId) (f : Partition → Partition) : (s.modPart p f).remote = s.remote := rfl
@[simp] theorem State.modPart_tags (s : State) (p : PartId) (f : Partition → Partition) : (s.modPart p f).tags = s.tags := rfl
@[simp] theorem State.modPart_order (s : State) (p : PartId) (f : Partition → Partition) : (s.modPart p f).order = s.order := rfl
@[simp] theorem State.modPart_fab (s : State) (p : PartId) (f : Partition → Partition) : (s.modPart p f).fab = s.fab := rfl
@[simp] theorem State.modPart_lcc (s : State) (p : PartId) (f : Partition → Partition) : (s.modPart p f).lcc = s.lcc := rfl
@[simp] theorem State.modPart_agenda (s : State) (p : PartId) (f : Partition → Partition) : (s.modPart p f).agenda = s.agenda := rfl
@[simp] theorem State.modPart_outbox (s : State) (p : PartId) (f : Partition → Partition) : (s.modPart p f).outbox = s.outbox := rfl
@[simp] theorem State.modPart_issued (s : State) (p : PartId) (f : Partition → Partition) : (s.modPart p f).issued = s.issued := rfl
@[simp] theorem State.modPart_pace (s : State) (p : PartId) (f : Partition → Partition) : (s.modPart p f).pace = s.pace := rfl
@[simp] theorem State.modPart_pending (s : State) (p : PartId) (f : Partition → Partition) : (s.modPart p f).pending = s.pending := rfl
@[simp] theorem State.modPart_ev (s : State) (p : PartId) (f : Partition → Partition) : (s.modPart p f).ev = s.ev := rfl
@[simp] theorem State.modPart_tick (s : State) (p : PartId) (f : Partition → Partition) : (s.modPart p f).tick = s.tick := rfl
@[simp] theorem State.modPart_th (s : State) (p : PartId) (f : Partition → Partition) : (s.modPart p f).th = s.th := rfl

@[simp] theorem State.send_others (s : State) (es : List RemoteElem) : (s.send es).others = s.others := rfl
@[simp] theorem State.send_dctxs (s : State) (es : List RemoteElem) : (s.send es).dctxs = s.dctxs := rfl
@[simp] theorem State.send_launches (s : State) (es : List RemoteElem) : (s.send es).launches = s.launches := rfl
@[simp] theorem State.send_mem (s : State) (es : List RemoteElem) : (s.send es).mem = s.mem := rfl
@[simp] theorem State.send_frames (s : State) (es : List RemoteElem) : (s.send es).frames = s.frames := rfl
@[simp] theorem State.send_hist (s : State) (es : List RemoteElem) : (s.send es).hist = s.hist := rfl
@[simp] theorem State.send_reports (s : State) (es : List RemoteElem) : (s.send es).reports = s.reports := rfl
@[simp] theorem State.send_poison (s : State) (es : List RemoteElem) : (s.send es).poison = s.poison := rfl
@[simp] theorem State.send_tlb (s : State) (es : List RemoteElem) : (s.send es).tlb = s.tlb := rfl
@[simp] theorem State.send_host (s : State) (es : List RemoteElem) : (s.send es).host = s.host := rfl
@[simp] theorem State.send_tags (s : State) (es : List RemoteElem) : (s.send es).tags = s.tags := rfl
@[simp] theorem State.send_order (s : State) (es : List RemoteElem) : (s.send es).order = s.order := rfl
@[simp] theorem State.send_mod (s : State) (es : List RemoteElem) : (s.send es).mod = s.mod := rfl
@[simp] theorem State.send_fab (s : State) (es : List RemoteElem) : (s.send es).fab = s.fab := rfl
@[simp] theorem State.send_lcc (s : State) (es : List RemoteElem) : (s.send es).lcc = s.lcc := rfl
@[simp] theorem State.send_agenda (s : State) (es : List RemoteElem) : (s.send es).agenda = s.agenda := rfl
@[simp] theorem State.send_outbox (s : State) (es : List RemoteElem) : (s.send es).outbox = s.outbox := rfl
@[simp] theorem State.send_issued (s : State) (es : List RemoteElem) : (s.send es).issued = s.issued := rfl
@[simp] theorem State.send_pace (s : State) (es : List RemoteElem) : (s.send es).pace = s.pace := rfl
@[simp] theorem State.send_pending (s : State) (es : List RemoteElem) : (s.send es).pending = s.pending := rfl
@[simp] theorem State.send_ev (s : State) (es : List RemoteElem) : (s.send es).ev = s.ev := rfl
@[simp] theorem State.send_tick (s : State) (es : List RemoteElem) : (s.send es).tick = s.tick := rfl

@[simp] theorem State.postTrace_others (s : State) (bytes : List (BitVec 8)) : (s.postTrace bytes).others = s.others := rfl
@[simp] theorem State.postTrace_dctxs (s : State) (bytes : List (BitVec 8)) : (s.postTrace bytes).dctxs = s.dctxs := rfl
@[simp] theorem State.postTrace_launches (s : State) (bytes : List (BitVec 8)) : (s.postTrace bytes).launches = s.launches := rfl
@[simp] theorem State.postTrace_mem (s : State) (bytes : List (BitVec 8)) : (s.postTrace bytes).mem = s.mem := rfl
@[simp] theorem State.postTrace_frames (s : State) (bytes : List (BitVec 8)) : (s.postTrace bytes).frames = s.frames := rfl
@[simp] theorem State.postTrace_hist (s : State) (bytes : List (BitVec 8)) : (s.postTrace bytes).hist = s.hist := rfl
@[simp] theorem State.postTrace_reports (s : State) (bytes : List (BitVec 8)) : (s.postTrace bytes).reports = s.reports := rfl
@[simp] theorem State.postTrace_poison (s : State) (bytes : List (BitVec 8)) : (s.postTrace bytes).poison = s.poison := rfl
@[simp] theorem State.postTrace_tlb (s : State) (bytes : List (BitVec 8)) : (s.postTrace bytes).tlb = s.tlb := rfl
@[simp] theorem State.postTrace_host (s : State) (bytes : List (BitVec 8)) : (s.postTrace bytes).host = s.host := rfl
@[simp] theorem State.postTrace_remote (s : State) (bytes : List (BitVec 8)) : (s.postTrace bytes).remote = s.remote := rfl
@[simp] theorem State.postTrace_tags (s : State) (bytes : List (BitVec 8)) : (s.postTrace bytes).tags = s.tags := rfl
@[simp] theorem State.postTrace_order (s : State) (bytes : List (BitVec 8)) : (s.postTrace bytes).order = s.order := rfl
@[simp] theorem State.postTrace_mod (s : State) (bytes : List (BitVec 8)) : (s.postTrace bytes).mod = s.mod := rfl
@[simp] theorem State.postTrace_fab (s : State) (bytes : List (BitVec 8)) : (s.postTrace bytes).fab = s.fab := rfl
@[simp] theorem State.postTrace_lcc (s : State) (bytes : List (BitVec 8)) : (s.postTrace bytes).lcc = s.lcc := rfl
@[simp] theorem State.postTrace_agenda (s : State) (bytes : List (BitVec 8)) : (s.postTrace bytes).agenda = s.agenda := rfl
@[simp] theorem State.postTrace_issued (s : State) (bytes : List (BitVec 8)) : (s.postTrace bytes).issued = s.issued := rfl
@[simp] theorem State.postTrace_pace (s : State) (bytes : List (BitVec 8)) : (s.postTrace bytes).pace = s.pace := rfl
@[simp] theorem State.postTrace_pending (s : State) (bytes : List (BitVec 8)) : (s.postTrace bytes).pending = s.pending := rfl
@[simp] theorem State.postTrace_ev (s : State) (bytes : List (BitVec 8)) : (s.postTrace bytes).ev = s.ev := rfl
@[simp] theorem State.postTrace_tick (s : State) (bytes : List (BitVec 8)) : (s.postTrace bytes).tick = s.tick := rfl
@[simp] theorem State.postTrace_th (s : State) (bytes : List (BitVec 8)) : (s.postTrace bytes).th = s.th := rfl

@[simp] theorem State.waitFor_others (s : State) (k : WaitKind) (i : Instr) : (s.waitFor k i).others = s.others := rfl
@[simp] theorem State.waitFor_dctxs (s : State) (k : WaitKind) (i : Instr) : (s.waitFor k i).dctxs = s.dctxs := rfl
@[simp] theorem State.waitFor_launches (s : State) (k : WaitKind) (i : Instr) : (s.waitFor k i).launches = s.launches := rfl
@[simp] theorem State.waitFor_mem (s : State) (k : WaitKind) (i : Instr) : (s.waitFor k i).mem = s.mem := rfl
@[simp] theorem State.waitFor_frames (s : State) (k : WaitKind) (i : Instr) : (s.waitFor k i).frames = s.frames := rfl
@[simp] theorem State.waitFor_hist (s : State) (k : WaitKind) (i : Instr) : (s.waitFor k i).hist = s.hist := rfl
@[simp] theorem State.waitFor_reports (s : State) (k : WaitKind) (i : Instr) : (s.waitFor k i).reports = s.reports := rfl
@[simp] theorem State.waitFor_poison (s : State) (k : WaitKind) (i : Instr) : (s.waitFor k i).poison = s.poison := rfl
@[simp] theorem State.waitFor_tlb (s : State) (k : WaitKind) (i : Instr) : (s.waitFor k i).tlb = s.tlb := rfl
@[simp] theorem State.waitFor_host (s : State) (k : WaitKind) (i : Instr) : (s.waitFor k i).host = s.host := rfl
@[simp] theorem State.waitFor_remote (s : State) (k : WaitKind) (i : Instr) : (s.waitFor k i).remote = s.remote := rfl
@[simp] theorem State.waitFor_tags (s : State) (k : WaitKind) (i : Instr) : (s.waitFor k i).tags = s.tags := rfl
@[simp] theorem State.waitFor_order (s : State) (k : WaitKind) (i : Instr) : (s.waitFor k i).order = s.order := rfl
@[simp] theorem State.waitFor_mod (s : State) (k : WaitKind) (i : Instr) : (s.waitFor k i).mod = s.mod := rfl
@[simp] theorem State.waitFor_fab (s : State) (k : WaitKind) (i : Instr) : (s.waitFor k i).fab = s.fab := rfl
@[simp] theorem State.waitFor_lcc (s : State) (k : WaitKind) (i : Instr) : (s.waitFor k i).lcc = s.lcc := rfl
@[simp] theorem State.waitFor_agenda (s : State) (k : WaitKind) (i : Instr) : (s.waitFor k i).agenda = s.agenda := rfl
@[simp] theorem State.waitFor_outbox (s : State) (k : WaitKind) (i : Instr) : (s.waitFor k i).outbox = s.outbox := rfl
@[simp] theorem State.waitFor_issued (s : State) (k : WaitKind) (i : Instr) : (s.waitFor k i).issued = s.issued := rfl
@[simp] theorem State.waitFor_pace (s : State) (k : WaitKind) (i : Instr) : (s.waitFor k i).pace = s.pace := rfl
@[simp] theorem State.waitFor_pending (s : State) (k : WaitKind) (i : Instr) : (s.waitFor k i).pending = s.pending := rfl
@[simp] theorem State.waitFor_ev (s : State) (k : WaitKind) (i : Instr) : (s.waitFor k i).ev = s.ev := rfl
@[simp] theorem State.waitFor_tick (s : State) (k : WaitKind) (i : Instr) : (s.waitFor k i).tick = s.tick := rfl
@[simp] theorem State.bump_mem_counters (s : State) (off n : Nat) : (s.bump off n).mod = { s.mod with counters := bumpCounter off n s.mod.counters } := rfl

end Sys2Proof.Machine
end

