-- ==== Sys2Proof/Laws/Memory.lean ====
section
/-! SUPPORT. Bytes and memory cells: what a read gives after a write, that a write keeps memory's canonical form, and that
numbers and their little-endian bytes agree. -/

namespace Sys2Proof.Machine

/-! ### Bytes -/

@[simp] theorem leBytes_length (n x : Nat) : (leBytes n x).length = n := by
  induction n generalizing x with
  | zero => rfl
  | succ n ih => simp [leBytes, ih]

theorem leNat_leBytes (n x : Nat) : leNat (leBytes n x) = x % 256 ^ n := by
  induction n generalizing x with
  | zero => simp [leBytes, leNat, Nat.mod_one]
  | succ n ih =>
    have h : x % (256 * 256 ^ n) = x % 256 + 256 * (x / 256 % 256 ^ n) := Nat.mod_mul
    rw [Nat.pow_succ', h, leBytes, leNat, ih, BitVec.toNat_ofNat]

theorem leNat_lt (bs : List (BitVec 8)) : leNat bs < 256 ^ bs.length := by
  induction bs with
  | nil => simp [leNat]
  | cons b t ih =>
    have hb := b.isLt
    simp only [leNat, List.length_cons, Nat.pow_succ']
    omega

theorem leBytes_leNat (bs : List (BitVec 8)) : leBytes bs.length (leNat bs) = bs := by
  induction bs with
  | nil => rfl
  | cons b t ih =>
    have hb := b.isLt
    simp only [List.length_cons, leBytes, leNat]
    congr 1
    · apply BitVec.eq_of_toNat_eq
      simp only [BitVec.toNat_ofNat]
      omega
    · rw [show (b.toNat + 256 * leNat t) / 256 = leNat t by omega, ih]

/-! ### Reading cells -/

/-- A cell that no entry lists reads 0. -/
theorem readCell_absent {m : List Host.Cell} {k : Nat} (h : ∀ c ∈ m, c.1 ≠ k) : readCell m k = 0 := by
  induction m with
  | nil => rfl
  | cons c t ih =>
    obtain ⟨a, b⟩ := c
    have ha : a ≠ k := h (a, b) (by simp)
    simp only [readCell, ha, if_false]
    exact ih fun c hc => h c (by simp [hc])

theorem readCell_append_left {m n : List Host.Cell} {k : Nat} (h : ∀ c ∈ n, c.1 ≠ k) :
    readCell (m ++ n) k = readCell m k := by
  induction m with
  | nil => exact readCell_absent h
  | cons c t ih => obtain ⟨a, b⟩ := c; simp only [List.cons_append, readCell, ih]

theorem readCell_append_right {m n : List Host.Cell} {k : Nat} (h : ∀ c ∈ m, c.1 ≠ k) :
    readCell (m ++ n) k = readCell n k := by
  induction m with
  | nil => rfl
  | cons c t ih =>
    obtain ⟨a, b⟩ := c
    have ha : a ≠ k := h (a, b) (by simp)
    simp only [List.cons_append, readCell, ha, if_false]
    exact ih fun c hc => h c (by simp [hc])

/-- A filter that keeps a key keeps what it reads. -/
theorem readCell_filter {m : List Host.Cell} {f : Host.Cell → Bool} {k : Nat} (h : ∀ b, f (k, b) = true) :
    readCell (m.filter f) k = readCell m k := by
  induction m with
  | nil => rfl
  | cons c t ih =>
    obtain ⟨a, b⟩ := c
    by_cases ha : a = k
    · subst ha; simp [List.filter, h, readCell]
    · cases hf : f (a, b) <;> simp [List.filter, hf, readCell, ha, ih]

theorem mem_cellsOf {k : Nat} {bs : List (BitVec 8)} {c : Host.Cell} (h : c ∈ cellsOf k bs) : k ≤ c.1 ∧ c.1 < k + bs.length := by
  induction bs generalizing k with
  | nil => simp [cellsOf] at h
  | cons b t ih =>
    simp only [cellsOf] at h
    split at h
    · have := ih h; simp only [List.length_cons]; omega
    · rcases List.mem_cons.1 h with rfl | h
      · simp
      · have := ih h; simp only [List.length_cons]; omega

theorem readCell_cellsOf (k : Nat) (bs : List (BitVec 8)) (i : Nat) (h : i < bs.length) : readCell (cellsOf k bs) (k + i) = bs[i] := by
  induction bs generalizing k i with
  | nil => simp at h
  | cons b t ih =>
    cases i with
    | zero =>
      simp only [cellsOf, Nat.add_zero, List.getElem_cons_zero]
      split
      · rw [readCell_absent, ‹b = 0›]
        intro c hc; have := mem_cellsOf hc; omega
      · simp [readCell]
    | succ i =>
      have hi : i < t.length := by simpa using h
      have e : k + (i + 1) = k + 1 + i := by omega
      simp only [cellsOf, List.getElem_cons_succ]
      split
      · rw [e]; exact ih (k + 1) i hi
      · have : k ≠ k + (i + 1) := by omega
        simp only [readCell, this, if_false]
        rw [e]; exact ih (k + 1) i hi

/-! ### Reads after writes -/

/-- A byte inside a store reads what was stored. -/
theorem readCell_writeCells_inside (m : List Host.Cell) (k : Nat) (bs : List (BitVec 8)) (i : Nat) (h : i < bs.length) :
    readCell (writeCells m k bs) (k + i) = bs[i] := by
  unfold writeCells
  rw [readCell_append_left, readCell_append_right, readCell_cellsOf _ _ _ h]
  · intro c hc; simp at hc; omega
  · intro c hc; simp at hc; omega

/-- A byte outside a store reads as before. -/
theorem readCell_writeCells_outside (m : List Host.Cell) (k : Nat) (bs : List (BitVec 8)) (a : Nat) (h : a < k ∨ k + bs.length ≤ a) :
    readCell (writeCells m k bs) a = readCell m a := by
  unfold writeCells
  have hc : ∀ c ∈ cellsOf k bs, c.1 ≠ a := fun c hc => by have := mem_cellsOf hc; omega
  rcases h with h | h
  · rw [readCell_append_left, readCell_append_left hc, readCell_filter (by simp [h])]
    intro c hc; simp at hc; omega
  · rw [List.append_assoc, readCell_append_right, readCell_append_right hc, readCell_filter (by simp [h])]
    intro c hc; simp at hc; omega

/-- n bytes read one after another, whatever the listed cells outside the range. -/
theorem readEach_filter (m : List Host.Cell) (lo hi k n : Nat) (h : lo ≤ k ∧ k + n ≤ hi) :
    readEach (m.filter fun c => decide (lo ≤ c.1) && decide (c.1 < hi)) k n = readEach m k n := by
  induction n generalizing k with
  | zero => rfl
  | succ n ih =>
    simp only [readEach]
    rw [readCell_filter (by intro b; simp; omega), ih (k + 1) (by omega)]

theorem readCells_eq (m : List Host.Cell) (k n : Nat) : readCells m k n = readEach m k n :=
  readEach_filter m k (k + n) k n (by omega)

@[simp] theorem readEach_length (m : List Host.Cell) (k n : Nat) : (readEach m k n).length = n := by
  induction n generalizing k with
  | zero => rfl
  | succ n ih => simp [readEach, ih]

@[simp] theorem readCells_length (m : List Host.Cell) (k n : Nat) : (readCells m k n).length = n := by
  rw [readCells_eq]; simp

theorem readEach_getElem (m : List Host.Cell) (k n i : Nat) (h : i < (readEach m k n).length) :
    (readEach m k n)[i] = readCell m (k + i) := by
  induction n generalizing k i with
  | zero => simp [readEach] at h
  | succ n ih =>
    cases i with
    | zero => simp [readEach]
    | succ i =>
      simp only [readEach, List.getElem_cons_succ]
      rw [ih]; congr 1; omega

theorem readCells_getElem (m : List Host.Cell) (k n i : Nat) (h : i < (readCells m k n).length) :
    (readCells m k n)[i] = readCell m (k + i) := by
  simp only [readCells_eq] at h ⊢
  exact readEach_getElem m k n i h

/-- Reads of the same bytes agree where memory agrees byte by byte. -/
theorem readCells_congr {m n : List Host.Cell} {k len : Nat} (h : ∀ i, i < len → readCell m (k + i) = readCell n (k + i)) :
    readCells m k len = readCells n k len := by
  apply List.ext_getElem
  · simp
  · intro i h1 h2
    rw [readCells_getElem, readCells_getElem]
    exact h i (by simpa using h1)

/-- A read of just what was stored gives it back. -/
theorem readCells_writeCells (m : List Host.Cell) (k : Nat) (bs : List (BitVec 8)) :
    readCells (writeCells m k bs) k bs.length = bs := by
  apply List.ext_getElem
  · simp
  · intro i h1 h2
    rw [readCells_getElem, readCell_writeCells_inside _ _ _ _ h2]

/-- A read apart from what was stored gives what it gave. -/
theorem readCells_writeCells_apart (m : List Host.Cell) (k : Nat) (bs : List (BitVec 8)) (a n : Nat)
    (h : a + n ≤ k ∨ k + bs.length ≤ a) : readCells (writeCells m k bs) a n = readCells m a n :=
  readCells_congr fun i hi => readCell_writeCells_outside m k bs (a + i) (by omega)

/-! ### The canonical form -/

theorem Memory.wf_iff (m : List Host.Cell) : Memory.wf m = true ↔ (∀ c ∈ m, c.2 ≠ 0) ∧ m.Pairwise (fun a b => a.1 < b.1) := by
  simp only [Memory.wf, Bool.and_eq_true, List.all_eq_true, decide_eq_true_eq]

theorem Memory.wf_nil : Memory.wf [] = true := rfl

theorem Memory.wf_filter {m : List Host.Cell} (f : Host.Cell → Bool) (h : Memory.wf m = true) : Memory.wf (m.filter f) = true := by
  rw [Memory.wf_iff] at *
  exact ⟨fun c hc => h.1 c (List.mem_filter.1 hc).1, h.2.filter f⟩

theorem cellsOf_pairwise (k : Nat) (bs : List (BitVec 8)) : (cellsOf k bs).Pairwise (fun a b => a.1 < b.1) := by
  induction bs generalizing k with
  | nil => exact List.Pairwise.nil
  | cons b t ih =>
    simp only [cellsOf]
    split
    · exact ih _
    · refine List.Pairwise.cons (fun c hc => ?_) (ih _)
      have := mem_cellsOf hc; simp; omega

theorem cellsOf_ne_zero (k : Nat) (bs : List (BitVec 8)) : ∀ c ∈ cellsOf k bs, c.2 ≠ 0 := by
  induction bs generalizing k with
  | nil => simp [cellsOf]
  | cons b t ih =>
    intro c hc
    simp only [cellsOf] at hc
    split at hc
    · exact ih _ c hc
    · rcases List.mem_cons.1 hc with rfl | hc
      · assumption
      · exact ih _ c hc

/-- A store keeps the form. -/
theorem Memory.wf_writeCells {m : List Host.Cell} (k : Nat) (bs : List (BitVec 8)) (h : Memory.wf m = true) :
    Memory.wf (writeCells m k bs) = true := by
  rw [Memory.wf_iff] at *
  unfold writeCells
  refine ⟨fun c hc => ?_, ?_⟩
  · simp only [List.mem_append, List.mem_filter] at hc
    rcases hc with (hc | hc) | hc
    · exact h.1 c hc.1
    · exact cellsOf_ne_zero _ _ c hc
    · exact h.1 c hc.1
  · rw [List.pairwise_append, List.pairwise_append]
    refine ⟨⟨h.2.filter _, cellsOf_pairwise _ _, ?_⟩, h.2.filter _, ?_⟩
    · intro a ha b hb
      have := mem_cellsOf hb
      simp at ha; omega
    · intro a ha b hb
      simp only [List.mem_append] at ha
      simp at hb
      rcases ha with ha | ha
      · simp at ha; omega
      · have := mem_cellsOf ha; omega

/-! ### Sets of cells as the reads see them -/

/-- Canonical memories that read alike are the same list. -/
theorem Memory.ext {m n : List Host.Cell} (hm : Memory.wf m = true) (hn : Memory.wf n = true)
    (h : ∀ k, readCell m k = readCell n k) : m = n := by
  rw [Memory.wf_iff] at hm hn
  induction m generalizing n with
  | nil =>
    cases n with
    | nil => rfl
    | cons c t =>
      obtain ⟨a, b⟩ := c
      have := h a
      simp [readCell] at this
      exact absurd this.symm (hn.1 (a, b) (by simp))
  | cons c t ih =>
    obtain ⟨a, b⟩ := c
    have hb : b ≠ 0 := hm.1 (a, b) (by simp)
    have hlow : ∀ x ∈ t, a < x.1 := fun x hx => (List.pairwise_cons.1 hm.2).1 x hx
    cases n with
    | nil =>
      have := h a
      simp [readCell] at this
      exact absurd this hb
    | cons d u =>
      obtain ⟨a', b'⟩ := d
      have hb' : b' ≠ 0 := hn.1 (a', b') (by simp)
      have hlow' : ∀ x ∈ u, a' < x.1 := fun x hx => (List.pairwise_cons.1 hn.2).1 x hx
      have haa : a = a' := by
        rcases Nat.lt_trichotomy a a' with hlt | heq | hgt
        · have := h a
          rw [readCell_absent (m := (a', b') :: u)] at this
          · simp [readCell] at this; exact absurd this hb
          · intro x hx
            rcases List.mem_cons.1 hx with rfl | hx
            · simp; omega
            · have := hlow' x hx; omega
        · exact heq
        · have := h a'
          rw [readCell_absent (m := (a, b) :: t)] at this
          · simp [readCell] at this; exact absurd this.symm hb'
          · intro x hx
            rcases List.mem_cons.1 hx with rfl | hx
            · simp; omega
            · have := hlow x hx; omega
      subst haa
      have hbb : b = b' := by simpa [readCell] using h a
      subst hbb
      congr 1
      refine ih ⟨fun c hc => hm.1 c (by simp [hc]), (List.pairwise_cons.1 hm.2).2⟩
        ⟨fun c hc => hn.1 c (by simp [hc]), (List.pairwise_cons.1 hn.2).2⟩ fun k => ?_
      by_cases hk : a = k
      · subst hk
        rw [readCell_absent, readCell_absent]
        · intro c hc; have := hlow' c hc; omega
        · intro c hc; have := hlow c hc; omega
      · simpa [readCell, hk] using h k

end Sys2Proof.Machine
end

