-- ==== Sys2Proof/Laws/Access.lean ====
section
/-! SUPPORT. What a write that performs can do: the bytes of its spans change and no others, and memory keeps its
canonical form. -/

namespace Sys2Proof.Machine

/-! ### What leaves memory alone -/

theorem foldl_mem {α : Type} (f : State → α → State) (h : ∀ s x, (f s x).mem = s.mem) (l : List α) (s : State) :
    (l.foldl f s).mem = s.mem := by
  induction l generalizing s with
  | nil => rfl
  | cons x t ih => rw [List.foldl_cons, ih, h]

theorem State.markDirty_mem (s : State) (k n : Nat) : (s.markDirty k n).mem = s.mem := by
  unfold State.markDirty; split <;> rfl

theorem State.watchSlot_mem (s : State) (wr : Writer) (k n : Nat) (d : Dctx) (j : Fin 4) : (s.watchSlot wr k n d j).mem = s.mem := by
  unfold State.watchSlot
  split
  · rfl
  · dsimp only
    split
    · rfl
    · split <;> rfl

theorem State.watchWrites_mem (s : State) (wr : Writer) (k n : Nat) : (s.watchWrites wr k n).mem = s.mem := by
  unfold State.watchWrites
  split
  · rfl
  · refine foldl_mem _ (fun s d => ?_) _ _
    split
    · rfl
    · exact foldl_mem _ (fun s j => State.watchSlot_mem s wr k n d j) _ _

/-- Noting an agent's access changes the notes alone. -/
@[simp] theorem State.touch_mem (s : State) (a : AgentId) (w : Bool) (h : Option Handle) (sp : List Span) :
    (s.touch a w h sp).mem = s.mem := rfl

theorem State.touchBy_mem (s : State) (wr : Writer) (sp : Span) : (s.touchBy wr sp).mem = s.mem := by
  unfold State.touchBy; split <;> rfl

/-! ### Stores -/

/-- One span's write stores its bytes and nothing else in memory. -/
theorem State.putSpan_mem (s : State) (wr : Writer) (sp : Span) (bs : List (BitVec 8)) :
    (s.putSpan wr sp bs).mem = writeCells s.mem sp.key bs := by
  unfold State.putSpan
  dsimp only
  rw [State.touchBy_mem, State.watchWrites_mem, State.markDirty_mem]; rfl

/-- Memory after an access's bytes have been stored, span by span. -/
def putCells (m : List Host.Cell) : List Span → List (BitVec 8) → List Host.Cell
  | [], _ => m
  | sp :: t, bs => putCells (writeCells m sp.key (bs.take sp.len)) t (bs.drop sp.len)

theorem State.put_mem (s : State) (wr : Writer) (sp : List Span) (bs : List (BitVec 8)) :
    (s.put wr sp bs).mem = putCells s.mem sp bs := by
  induction sp generalizing s bs with
  | nil => rfl
  | cons x t ih => rw [State.put, ih, State.putSpan_mem]; rfl

theorem State.storeSpans_mem (s : State) (a : BitVec 64) (sp : List Span) (bs : List (BitVec 8)) (rmw : Bool) :
    (s.storeSpans a sp bs rmw).mem = putCells s.mem sp bs := State.put_mem _ _ _ _

theorem State.devicePut_mem (s : State) (sp : List Span) (bs : List (BitVec 8)) :
    (s.devicePut sp bs).mem = putCells s.mem sp bs := by
  induction sp generalizing s bs with
  | nil => rfl
  | cons x t ih => rw [State.devicePut, ih]; rfl

/-- A byte that no span covers reads as before. -/
theorem readCell_putCells_outside (m : List Host.Cell) (sp : List Span) (bs : List (BitVec 8)) (k : Nat)
    (h : ∀ x ∈ sp, k < x.key ∨ x.key + x.len ≤ k) : readCell (putCells m sp bs) k = readCell m k := by
  induction sp generalizing m bs with
  | nil => rfl
  | cons x t ih =>
    rw [putCells, ih _ _ fun y hy => h y (by simp [hy]), readCell_writeCells_outside]
    have := h x (by simp)
    rw [List.length_take]; omega

theorem putCells_wf {m : List Host.Cell} (h : Memory.wf m = true) (sp : List Span) (bs : List (BitVec 8)) :
    Memory.wf (putCells m sp bs) = true := by
  induction sp generalizing m bs with
  | nil => exact h
  | cons x t ih => exact ih (Memory.wf_writeCells _ _ h) _

/-- The bytes of spans that share no byte read as they were stored. -/
theorem readCells_putCells (m : List Host.Cell) (sp : List Span) (bs : List (BitVec 8)) (hl : bs.length = (sp.map (·.len)).sum)
    (ha : sp.Pairwise fun x y => x.key + x.len ≤ y.key ∨ y.key + y.len ≤ x.key) :
    (sp.flatMap fun x => readCells (putCells m sp bs) x.key x.len) = bs := by
  induction sp generalizing m bs with
  | nil => simp at hl; simp [hl]
  | cons x t ih =>
    simp only [List.map_cons, List.sum_cons] at hl
    rw [List.flatMap_cons, putCells]
    have hx : (bs.take x.len).length = x.len := by rw [List.length_take]; omega
    have h1 : readCells (putCells (writeCells m x.key (bs.take x.len)) t (bs.drop x.len)) x.key x.len = bs.take x.len := by
      have : readCells (putCells (writeCells m x.key (bs.take x.len)) t (bs.drop x.len)) x.key x.len =
          readCells (writeCells m x.key (bs.take x.len)) x.key x.len := by
        refine readCells_congr fun i hi => readCell_putCells_outside _ _ _ _ fun y hy => ?_
        have := (List.pairwise_cons.1 ha).1 y hy
        omega
      rw [this]
      have e := readCells_writeCells m x.key (bs.take x.len)
      rwa [hx] at e
    rw [h1, ih _ _ (by rw [List.length_drop]; omega) (List.pairwise_cons.1 ha).2, List.take_append_drop]

end Sys2Proof.Machine
end

