-- ==== Sys2Proof/Laws/Elements.lean ====
section
/-! SUPPORT. Bits of element lists and of masked register writes: `assemble` puts element i at bits [i·w + w − 1 : i·w], and
`putVBits` changes the bits that its mask names in one physical register. -/

namespace Sys2Proof.Machine

/-- Bit k of an element list's pattern and of its mask. -/
theorem assemble_bit (w : Nat) (hw : 0 < w) (l : List (Option Nat)) (k : Nat) :
    ((assemble w l).1.testBit k = match l[k / w]? with | some (some e) => e.testBit (k % w) | _ => false) ∧
    ((assemble w l).2.testBit k = match l[k / w]? with | some (some _) => true | _ => false) := by
  induction l generalizing k with
  | nil => simp [assemble]
  | cons x t ih =>
    have hp := Nat.two_pow_pos w
    rcases Nat.lt_or_ge k w with h | h
    · rw [Nat.div_eq_of_lt h, Nat.mod_eq_of_lt h]
      cases x with
      | none =>
        simp only [assemble, List.getElem?_cons_zero]
        constructor <;> (rw [Nat.mul_comm, Nat.testBit_two_pow_mul]; simp; omega)
      | some e =>
        simp only [assemble, List.getElem?_cons_zero]
        constructor
        · rw [Nat.add_comm, Nat.mul_comm, Nat.testBit_two_pow_mul_add _ (Nat.mod_lt _ hp), if_pos h, Nat.testBit_mod_two_pow]; simp [h]
        · rw [Nat.add_comm, Nat.mul_comm, Nat.testBit_two_pow_mul_add _ (by omega), if_pos h, Nat.testBit_two_pow_sub_one]; simp [h]
    · have h1 : k / w = (k - w) / w + 1 := by
        have : k = (k - w) + w := by omega
        conv => lhs; rw [this]
        rw [Nat.add_div_right _ hw]
      obtain ⟨i1, i2⟩ := ih (k - w)
      rw [h1, Nat.mod_eq_sub_mod h, List.getElem?_cons_succ]
      cases x with
      | none =>
        simp only [assemble]
        rw [Nat.mul_comm, Nat.testBit_two_pow_mul, Nat.mul_comm, Nat.testBit_two_pow_mul]
        simp only [h, decide_true, Bool.true_and]
        exact ⟨i1, i2⟩
      | some e =>
        simp only [assemble]
        rw [Nat.add_comm, Nat.mul_comm, Nat.testBit_two_pow_mul_add _ (Nat.mod_lt _ hp), if_neg (by omega)]
        rw [Nat.add_comm, Nat.mul_comm, Nat.testBit_two_pow_mul_add _ (by omega), if_neg (by omega)]
        exact ⟨i1, i2⟩

/-- Numbers that share no bit add as they join. -/
theorem or_eq_add (a b : Nat) (h : a &&& b = 0) : a ||| b = a + b := by
  have e := BitVec.add_eq_or_of_and_eq_zero (BitVec.ofNat (a + b + 1) a) (BitVec.ofNat (a + b + 1) b) (by
    apply BitVec.eq_of_getLsbD_eq; intro i _
    have := congrArg (Nat.testBit · i) h
    simp only [Nat.testBit_and, Nat.zero_testBit] at this
    rw [BitVec.getLsbD_and, BitVec.getLsbD_ofNat, BitVec.getLsbD_ofNat, BitVec.getLsbD_zero]
    cases ha : a.testBit i <;> cases hb : b.testBit i <;> simp_all)
  have hb : a + b < 2 ^ (a + b + 1) := Nat.lt_trans (Nat.lt_succ_self _) Nat.lt_two_pow_self
  have := congrArg BitVec.toNat e
  simp only [BitVec.toNat_add, BitVec.toNat_or, BitVec.toNat_ofNat] at this
  rw [Nat.mod_eq_of_lt (a := a) (by omega), Nat.mod_eq_of_lt (a := b) (by omega), Nat.mod_eq_of_lt hb] at this
  exact this.symm

/-- A value with the bits of a mask taken away, bit by bit. -/
theorem clear_bit (old mask k : Nat) : (old - (old &&& mask)).testBit k = (old.testBit k && !mask.testBit k) := by
  have h : old - (old &&& mask) = old ^^^ (old &&& mask) := by
    have e : (old ^^^ (old &&& mask)) + (old &&& mask) = old := by
      have hd : (old ^^^ (old &&& mask)) &&& (old &&& mask) = 0 := by
        apply Nat.eq_of_testBit_eq; intro i
        simp only [Nat.testBit_and, Nat.testBit_xor, Nat.zero_testBit]
        cases old.testBit i <;> cases mask.testBit i <;> rfl
      have ho : (old ^^^ (old &&& mask)) ||| (old &&& mask) = old := by
        apply Nat.eq_of_testBit_eq; intro i
        simp only [Nat.testBit_and, Nat.testBit_xor, Nat.testBit_or]
        cases old.testBit i <;> cases mask.testBit i <;> rfl
      rw [← or_eq_add _ _ hd, ho]
    omega
  rw [h, Nat.testBit_xor, Nat.testBit_and]
  cases old.testBit k <;> cases mask.testBit k <;> rfl

/-- A masked write, bit by bit. -/
theorem merge_bit (old val mask k : Nat) :
    ((old - (old &&& mask)) + (val &&& mask)).testBit k = if mask.testBit k then val.testBit k else old.testBit k := by
  have hd : (old - (old &&& mask)) &&& (val &&& mask) = 0 := by
    apply Nat.eq_of_testBit_eq; intro i
    rw [Nat.testBit_and, clear_bit, Nat.testBit_and, Nat.zero_testBit]
    cases old.testBit i <;> cases mask.testBit i <;> cases val.testBit i <;> rfl
  rw [← or_eq_add _ _ hd, Nat.testBit_or, clear_bit, Nat.testBit_and]
  cases mask.testBit k <;> simp

/-- The register that `putVBits` writes, bit by bit. -/
theorem State.putVBits_bit (s : State) (n : BitVec 6) (val mask k : Nat) (h : k < 2048) :
    ((s.putVBits n val mask).vReg n).testBit k = if mask.testBit k then val.testBit k else (s.vReg n).testBit k := by
  show ((s.th.arch.v.set (physV s.th.arch.vrot n) (BitVec.ofNat 2048 _))[physV s.th.arch.vrot n]).toNat.testBit k = _
  simp only [Fin.getElem_fin, Vector.getElem_set_self, BitVec.toNat_ofNat, Nat.testBit_mod_two_pow, h, decide_true, Bool.true_and]
  exact merge_bit _ _ _ _

/-- Every other physical register keeps its value. -/
theorem State.putVBits_other (s : State) (n : BitVec 6) (val mask : Nat) (k : Fin 64) (h : k ≠ physV s.th.arch.vrot n) :
    (s.putVBits n val mask).th.arch.v[k] = s.th.arch.v[k] := by
  show (s.th.arch.v.set (physV s.th.arch.vrot n) _)[k] = _
  simp only [Fin.getElem_fin]
  rw [Vector.getElem_set_ne]
  intro e; exact h (Fin.ext e.symm)

end Sys2Proof.Machine
end

