-- ==== Sys2Proof/Laws/Issue.lean ====
section
/-! SUPPORT. What the checks before an instruction and the steps after it can do: `gate` lets a free instruction through,
`issue` then concludes its effect, and retirement changes the thread's counts, its pc and its loop stack alone. -/

namespace Sys2Proof.Machine

/-! ### Before -/

/-- A free instruction passes every check. -/
theorem State.gate_free {s : State} {i : Instr} (h : Free i s) : s.gate i = none := by
  have h1 : ¬((groupOf i = .s ∨ groupOf i = .p) ∧ (!s.th.sup.level) = true) := by
    rintro ⟨hg, hl⟩; simp [h.level hg] at hl
  have h2 : (!s.th.cls.implements (groupOf i) && !s.th.grant) = false := by
    rcases h.group with h | h <;> simp [h]
  unfold State.gate
  simp only [h.breakpoint]
  rw [if_neg h1, if_neg (by simp [h2]), if_neg (by simp [h.rows]), if_neg (by simp [h.transfers]), h.poison]
  exact ite_self none

/-- Operands that hold no poison leave an effect as it is. -/
theorem State.outcome_clean {s : State} {i : Instr} (e : Effect) (h : s.usesPoison (Uses.of s.w i) = none) : s.outcome i e = e := by
  unfold State.outcome
  simp [h]

theorem issue_free {s : State} {i : Instr} {body : State → Effect} (h : Free i s) : issue i s body = conclude i s (body s) := by
  unfold issue; rw [State.gate_free h, State.outcome_clean _ h.poison]

/-! ### After -/

theorem conclude_next (i : Instr) (s s1 : State) : conclude i s (.next s1) = .next (s.finish s1 i none).advance := rfl
theorem conclude_jump (i : Instr) (s s1 : State) (a : BitVec 64) :
    conclude i s (.jump s1 a) = .next (s.finish s1 i (some a)).advance := rfl
theorem conclude_done (i : Instr) (s s1 : State) : conclude i s (.done s1) = .next s1.advance := rfl
theorem conclude_trouble (i : Instr) (s s1 : State) (t : Trouble) (e : Option Nat) :
    conclude i s (.trouble s1 t e) = s1.stop i t e := rfl

theorem Thread.countMix_eq (t : Thread) (g : Group) : ∃ m, t.countMix g = { t with mix := m } := by
  unfold Thread.countMix
  split
  · exact ⟨t.mix, rfl⟩
  · exact ⟨_, rfl⟩

theorem State.traceBranch_eq (s : State) (sup : Bool) (f : Nat) (a b : BitVec 64) :
    ∃ o, s.traceBranch sup f a b = { s with outbox := o } := by
  unfold State.traceBranch
  split
  · exact ⟨_, rfl⟩
  · exact ⟨s.outbox, rfl⟩

theorem State.countSample_eq (s : State) (x : Sample) (h : BitVec 64) (n : Nat) :
    ∃ c o, s.countSample x h n = { s with th := { s.th with dbg := { s.th.dbg with cnt := c } }, outbox := o } := by
  unfold State.countSample
  simp only
  split
  · exact ⟨s.th.dbg.cnt, s.outbox, rfl⟩
  · split
    · split
      · exact ⟨0, s.outbox, rfl⟩
      · exact ⟨0, _, rfl⟩
    · exact ⟨_, s.outbox, rfl⟩

/-- Where control goes: the target, else a loop-back, else the next word, with the loop stack after it. -/
def passTo (loops : List LoopEntry) (pc : BitVec 64) (target : Option (BitVec 64)) : BitVec 64 × List LoopEntry :=
  match target with
  | some a => (a, loops)
  | none => (((loopExit loops pc).1).getD (pc + 4), (loopExit loops pc).2)

theorem State.leave_eq (s : State) (pc : BitVec 64) (target : Option (BitVec 64)) :
    ∃ o, s.leave pc target =
      { s with th := { s.th with arch := { s.th.arch with
          pc := (passTo s.th.arch.loops pc target).1, loops := (passTo s.th.arch.loops pc target).2 } }, outbox := o } := by
  unfold State.leave passTo
  cases target with
  | some a =>
    obtain ⟨o, h⟩ := State.traceBranch_eq { s with th := { s.th with arch := { s.th.arch with pc := a } } } s.th.sup.level 0 pc a
    exact ⟨o, h⟩
  | none =>
    simp only
    rcases hl : loopExit s.th.arch.loops pc with ⟨_ | a, l⟩
    · exact ⟨s.outbox, rfl⟩
    · obtain ⟨o, h⟩ := State.traceBranch_eq { s with th := { s.th with arch := { s.th.arch with pc := a, loops := l } } } s.th.sup.level 2 pc a
      exact ⟨o, h⟩

theorem State.stepTrap_none {s : State} {user : Bool} (h : user = false ∨ s.th.dbg.dctl.getLsbD 6 = false) : s.stepTrap user = s := by
  unfold State.stepTrap
  rcases h with h | h
  · simp [h]
  · rw [h]; simp

/-- Retirement outside a convoy: everything but the thread's counts, pc, loop stack, debug registers and standing wait, the
register space's counters and the postings is as the effect left it. -/
theorem State.retire_eq (s0 s : State) (i : Instr) (target : Option (BitVec 64))
    (h : s0.th.sup.level = true ∨ s.th.dbg.dctl.getLsbD 6 = false) :
    ∃ m pos calm dbg slice rr fl od ct o,
      s0.retire s i target =
        { s with
          th := { s.th with
            arch := { s.th.arch with
              pc := (passTo s.th.arch.loops s0.th.arch.pc target).1, loops := (passTo s.th.arch.loops s0.th.arch.pc target).2
              retired := s.th.arch.retired + 1 }
            mix := m, position := pos, calm := calm, dbg := dbg, sliceStop := slice, reruns := rr, faulted := fl, ordering := od, grant := false, wait := none, refused := none, stalledAt := none }
          mod := { s.mod with counters := ct }, outbox := o } := by
  unfold State.retire
  simp only
  obtain ⟨m, hm⟩ := Thread.countMix_eq s.th (groupOf i)
  rw [hm]
  generalize hx : (if (!s0.th.sup.level) = true then s0.sampleOf i 0 s0.th.arch.pc (decide (s.vl < s0.vl) || decide (s0.th.faulted = some s0.th.arch.pc)) s.doneAt else none) = smp
  generalize (orderScope i).any s0.atHome = od
  generalize hs1 : (({ s with th := { ({ s.th with mix := m } : Thread).countUnit 1 0 s0.th.sliceStop.isSome with ordering := od } } : State).bumpCore 0x00 1) = s1
  have hth : s1.th = { ({ s.th with mix := m } : Thread).countUnit 1 0 s0.th.sliceStop.isSome with ordering := od } := by rw [← hs1]; rfl
  have key : ∃ c o, (smp.elim s1 fun x => s1.countSample x s0.th.arch.pc 1) =
      { s1 with th := { s1.th with dbg := { s1.th.dbg with cnt := c } }, outbox := o } := by
    cases smp with
    | none => exact ⟨s1.th.dbg.cnt, s1.outbox, rfl⟩
    | some x => exact State.countSample_eq s1 x _ 1
  obtain ⟨c, o, hk⟩ := key
  have hgoal : ∀ s2 : State, s2 = { s1 with th := { s1.th with dbg := { s1.th.dbg with cnt := c } }, outbox := o } →
      ∃ m pos calm dbg slice rr fl od ct o,
        (s2.leave s0.th.arch.pc target).stepTrap (!s0.th.sup.level) =
          { s with
            th := { s.th with
              arch := { s.th.arch with
                pc := (passTo s.th.arch.loops s0.th.arch.pc target).1, loops := (passTo s.th.arch.loops s0.th.arch.pc target).2
                retired := s.th.arch.retired + 1 }
              mix := m, position := pos, calm := calm, dbg := dbg, sliceStop := slice, reruns := rr, faulted := fl, ordering := od, grant := false, wait := none, refused := none, stalledAt := none }
            mod := { s.mod with counters := ct }, outbox := o } := by
    rintro s2 rfl
    obtain ⟨o2, hlv⟩ := State.leave_eq { s1 with th := { s1.th with dbg := { s1.th.dbg with cnt := c } }, outbox := o } s0.th.arch.pc target
    rw [hlv, State.stepTrap_none]
    · subst hs1
      exact ⟨_, _, _, _, _, _, _, _, _, _, rfl⟩
    · rcases h with h | h
      · left; simp [h]
      · right
        show s1.th.dbg.dctl.getLsbD 6 = false
        rw [hth]
        unfold Thread.countUnit
        simp only
        split
        · rw [BitVec.getLsbD_and]
          show (s.th.dbg.dctl.getLsbD 6 && _) = false
          rw [h]; rfl
        · exact h
  cases smp with
  | none => exact hgoal _ hk
  | some x => exact hgoal _ hk

/-- A convoy member's execution: everything but the convoy, the pc and the standing wait is as the effect left it. -/
theorem State.memberDone_eq (s0 s : State) (i : Instr) (target : Option (BitVec 64)) :
    ∃ c pc l, s0.memberDone s i target =
      { s with th := { s.th with convoy := some c, wait := none, refused := none, stalledAt := none, arch := { s.th.arch with pc := pc, loops := l } } } := by
  unfold State.memberDone
  simp only
  split
  · exact ⟨_, s.th.arch.pc, s.th.arch.loops, rfl⟩
  · exact ⟨_, _, _, rfl⟩

/-- What follows any instruction, in one form: the effect's state with new counts, control, convoy, counters, postings. -/
theorem State.finish_eq (s0 s : State) (i : Instr) (target : Option (BitVec 64))
    (h : s0.th.sup.level = true ∨ s.th.dbg.dctl.getLsbD 6 = false) :
    ∃ pc loops ret m pos calm dbg slice rr fl od gr c ct o,
      s0.finish s i target =
        { s with
          th := { s.th with
            arch := { s.th.arch with pc := pc, loops := loops, retired := ret }
            mix := m, position := pos, calm := calm, dbg := dbg, sliceStop := slice, reruns := rr, faulted := fl, ordering := od, grant := gr, wait := none, refused := none, stalledAt := none
            convoy := c }
          mod := { s.mod with counters := ct }, outbox := o } := by
  unfold State.finish
  split
  · obtain ⟨c, pc, l, hm⟩ := State.memberDone_eq s0 s i target
    exact ⟨pc, l, s.th.arch.retired, s.th.mix, s.th.position, s.th.calm, s.th.dbg, s.th.sliceStop, s.th.reruns, s.th.faulted, s.th.ordering, s.th.grant, some c,
      s.mod.counters, s.outbox, by rw [hm]⟩
  · obtain ⟨m, pos, calm, dbg, slice, rr, fl, od, ct, o, hr⟩ := State.retire_eq s0 s i target h
    exact ⟨_, _, _, m, pos, calm, dbg, slice, rr, fl, od, false, s.th.convoy, ct, o, hr⟩

/-- Retirement changes no byte of memory. -/
theorem State.finish_mem (s0 s : State) (i : Instr) (target : Option (BitVec 64))
    (h : s0.th.sup.level = true ∨ s.th.dbg.dctl.getLsbD 6 = false) :
    (s0.finish s i target).advance.mem = s.mem := by
  obtain ⟨_, _, _, _, _, _, _, _, _, _, _, _, _, _, _, e⟩ := State.finish_eq s0 s i target h
  rw [e]; rfl

end Sys2Proof.Machine
end

