-- ==== Sys2Proof/Laws/Trap.lean ====
section
/-! SUPPORT. What taking a trap can do (R286, R288): outside the thread's trap registers, level, pc and standing wait, only
the divergence count of its device context, the error log and the trace postings change. -/

namespace Sys2Proof.Machine

/-- Logging an error changes the module's log alone. -/
theorem State.logError_eq (s : State) (c d p r u : Nat) (a x : BitVec 64) : ∃ m, s.logError c d p r u a x = { s with mod := m } := by
  unfold State.logError State.logWith
  dsimp only
  split <;> exact ⟨_, rfl⟩

theorem State.logPoisonOf_eq (s : State) (d : Dctx) (n u : Nat) (w : Option (Nat × Nat × Nat)) (r : BitVec 8) (a : BitVec 64) :
    ∃ m, s.logPoisonOf d n u w r a = { s with mod := m } := by
  unfold State.logPoisonOf State.logPoisonAt
  split
  · exact ⟨s.mod, rfl⟩
  · exact State.logError_eq ..

theorem State.logRead_eq {α : Type} (s : State) (d : Dctx) (x : Except Trouble α) : ∃ m, s.logRead d x = { s with mod := m } := by
  unfold State.logRead
  split
  · exact State.logPoisonOf_eq ..
  · exact ⟨s.mod, rfl⟩

theorem State.logPoison_eq (s : State) (dc : DctxId) (d u : Nat) (w : Option (Nat × Nat × Nat)) (r : BitVec 8) (a : BitVec 64) :
    ∃ m, s.logPoison dc d u w r a = { s with mod := m } := by
  unfold State.logPoison
  split
  · exact ⟨s.mod, rfl⟩
  · exact State.logPoisonOf_eq ..

/-- What a stop tells of poison changes the module's log alone. -/
theorem State.noteConsumed_eq (s : State) (i : Instr) (t : Trouble) : ∃ m, s.noteConsumed i t = { s with mod := m } := by
  unfold State.noteConsumed State.logConsumed
  dsimp only
  split
  · split
    · exact State.logError_eq ..
    · exact State.logPoison_eq ..
  · exact State.logPoison_eq ..
  · split
    · cases s.myDctx with
      | none => exact ⟨s.mod, rfl⟩
      | some d => exact State.logRead_eq ..
    · exact ⟨s.mod, rfl⟩
  · exact ⟨s.mod, rfl⟩

/-- Trap entry, for a thread that is not in trap state. -/
theorem State.trapAt_eq (s : State) (cause : BitVec 8) (pc detail addr : BitVec 64) (info : BitVec 13) (from_ : BitVec 64)
    (h : s.th.sup.tip = false) : ∃ dx o, s.trapAt cause pc detail addr info from_ =
      { s with th := s.th.enterTrap cause pc detail addr info, dctxs := dx, outbox := o } := by
  unfold State.trapAt
  simp only [h]
  obtain ⟨dx, e0⟩ : ∃ dx, (if cause = 0x0B then s.modDctx (handleDctx s.th.handle) fun d => d.diverged detail addr else s) =
      { s with dctxs := dx } := by
    split
    · exact ⟨_, rfl⟩
    · exact ⟨s.dctxs, rfl⟩
  rw [e0]
  unfold State.takeTrap
  dsimp only
  rw [h]
  obtain ⟨o, e2⟩ := State.traceBranch_eq { s with th := s.th.enterTrap cause pc detail addr info, dctxs := dx }
    s.th.sup.level 4 from_ (s.th.enterTrap cause pc detail addr info).arch.pc
  exact ⟨dx, o, e2⟩

end Sys2Proof.Machine
end

