-- ==== Sys2Proof/Laws/VectorMem.lean ====
section
/-! SUPPORT. What the loops of the vector memory instructions come to: the values that a load reads, the elements that it
writes, and the memory that a store leaves. -/

namespace Sys2Proof.Machine

/-- The number that memory holds where a unit passes its checks, and 0 elsewhere. -/
def State.valueAt (s : State) (u : MemUnit) : Nat :=
  match s.checkC u.2.1 u.2.2 true false true u.1 with
  | .ok sp => leNat (s.spanBytes sp)
  | .error _ => 0

/-- A unit that a load reads: its snowline, if any, does not stall it, and its checks pass. -/
def State.readable (s : State) (snow : Option Snow) (last : Nat) (u : MemUnit) : Prop :=
  (∀ w, snow = some w → w.stalls (u.2.1 + BitVec.ofNat 64 last) = false) ∧ ∃ sp, s.checkC u.2.1 u.2.2 true false true u.1 = .ok sp

theorem State.readUnits_settled {s : State} (hs : s.hist = []) (u : Units) (a : BitVec 64) (n : Nat) (w : Bool) (i : Nat) :
    s.readUnits u a n w i = match s.checkC a n true false w i with
      | .ok sp => .ok (leNat (s.spanBytes sp), sp)
      | .error e => .error e := by
  unfold State.readUnits State.unitsValue
  cases s.checkC a n true false w i <;> simp [hs]

/-- A read where no write is still to be seen notes the lines that it touches, and nothing else. -/
theorem State.afterUnits_settled {s : State} (hs : s.hist = []) (u : Units) (a : BitVec 64) (n : Nat) (sp : List Span) :
    s.afterUnits u a n sp = s.touch s.th.agent false none sp := by
  unfold State.afterUnits
  have h : (s.touch s.th.agent false none sp).hist.isEmpty = true := by show s.hist.isEmpty = true; rw [hs]; rfl
  exact if_pos h

theorem State.readC_settled {s : State} (hs : s.hist = []) (a : BitVec 64) (n : Nat) (w : Bool) :
    s.readC a n w = match s.checkC a n true false w with
      | .ok sp => .ok (leNat (s.spanBytes sp), sp)
      | .error e => .error e := State.readUnits_settled hs .natural a n w 0

theorem State.afterRead_settled {s : State} (hs : s.hist = []) (a : BitVec 64) (n : Nat) (sp : List Span) :
    s.afterRead a n sp = s.touch s.th.agent false none sp := State.afterUnits_settled hs .natural a n sp

theorem State.translateFuel_touching (s : State) (x : List Touch) (d : Dctx) (acc : Access) (fuel : Nat) (a : BitVec 64) (n : Nat) :
    (s.touching x).translateFuel d acc fuel a n = s.translateFuel d acc fuel a n := by
  induction fuel generalizing a n with
  | zero => rfl
  | succ f ih =>
    have h1 : (s.touching x).translate1 d acc a n = s.translate1 d acc a n := rfl
    simp only [State.translateFuel, ih, h1]

/-- What lines have been noted does not bear on an access's checks. -/
theorem State.checkC_touching (s : State) (x : List Touch) (a : BitVec 64) (n : Nat) (r w b : Bool) (i : Nat) :
    (s.touching x).checkC a n r w b i = s.checkC a n r w b i := by
  have h1 : (s.touching x).checkAccess a n r w b i = s.checkAccess a n r w b i := by
    simp only [State.checkAccess, State.translate, State.translateFuel_touching]
    rfl
  have h2 (sp : List Span) : (s.touching x).missingLine sp = s.missingLine sp := rfl
  simp only [State.checkC, h1, h2]
/-- A unit that can be read is read, whatever lines have been noted before. -/
theorem loadUnits_cons {s : State} (hs : s.hist = []) (k : Units) (snow : Option Snow) (last : Nat) (u : MemUnit)
    (t : List MemUnit) (h : s.readable snow last u) (x : List Touch) :
    ∃ y, loadUnits k snow last (s.touching x) (u :: t) =
      ((loadUnits k snow last (s.touching y) t).1, (u.1, s.valueAt u) :: (loadUnits k snow last (s.touching y) t).2.1,
        (loadUnits k snow last (s.touching y) t).2.2) := by
  obtain ⟨i, a, n⟩ := u
  obtain ⟨h1, sp, h2⟩ := h
  dsimp only at h1 h2
  have hx : (s.touching x).hist = [] := hs
  have h3 := (s.checkC_touching x a n true false true i).trans h2
  refine ⟨x ++ (sp.flatMap Span.lines).map fun l => { agent := s.th.agent, line := l, write := false, who := none }, ?_⟩
  have h4 : (s.touching x).touch (s.touching x).th.agent false none sp =
      s.touching (x ++ (sp.flatMap Span.lines).map fun l => { agent := s.th.agent, line := l, write := false, who := none }) := rfl
  simp only [loadUnits, State.readUnits_settled hx, h3, State.afterUnits_settled hx, h4, State.valueAt, h2]
  cases snow with
  | none => rfl
  | some w => simp only [h1 w rfl]; rfl

/-- A load whose units can all be read leaves the state alone, but for the lines noted, and has their values. -/
theorem loadUnits_all {s : State} (hs : s.hist = []) (k : Units) (snow : Option Snow) (last : Nat) (us : List MemUnit)
    (h : ∀ u ∈ us, s.readable snow last u) (x : List Touch) :
    ∃ y, loadUnits k snow last (s.touching x) us = (s.touching y, us.map fun u => (u.1, s.valueAt u), none) := by
  induction us generalizing x with
  | nil => exact ⟨x, rfl⟩
  | cons u t ih =>
    obtain ⟨y, hy⟩ := loadUnits_cons hs k snow last u t (h u (by simp)) x
    obtain ⟨z, hz⟩ := ih (fun v hv => h v (by simp [hv])) y
    exact ⟨z, by rw [hy, hz]; rfl⟩

/-- A load stops at its first unit that cannot be read, with the values of those before it. -/
theorem loadUnits_stop {s : State} (hs : s.hist = []) (k : Units) (snow : Option Snow) (last : Nat) (us rest : List MemUnit)
    (u : MemUnit) (e : Trouble) (h : ∀ u ∈ us, s.readable snow last u)
    (hu : (∃ w, snow = some w ∧ w.stalls (u.2.1 + BitVec.ofNat 64 last) = true ∧ e = .wait .snowline) ∨
      (∀ w, snow = some w → w.stalls (u.2.1 + BitVec.ofNat 64 last) = false) ∧ s.checkC u.2.1 u.2.2 true false true u.1 = .error e)
    (x : List Touch) :
    ∃ y, loadUnits k snow last (s.touching x) (us ++ u :: rest) = (s.touching y, us.map fun u => (u.1, s.valueAt u), some (u.1, e)) := by
  induction us generalizing x with
  | nil =>
    obtain ⟨i, a, n⟩ := u
    dsimp only at hu
    refine ⟨x, ?_⟩
    have hx : (s.touching x).hist = [] := hs
    simp only [List.nil_append, loadUnits]
    rcases hu with ⟨w, rfl, h1, rfl⟩ | ⟨h1, h2⟩
    · simp [h1]
    · have h3 := (s.checkC_touching x a n true false true i).trans h2
      simp only [State.readUnits_settled hx, h3]
      cases snow with
      | none => rfl
      | some w => simp [h1 w rfl]
  | cons v t ih =>
    obtain ⟨y, hy⟩ := loadUnits_cons hs k snow last v (t ++ u :: rest) (h v (by simp)) x
    obtain ⟨z, hz⟩ := ih (fun w hw => h w (by simp [hw])) y
    exact ⟨z, by rw [List.cons_append, hy, hz]; rfl⟩

/-! ### What a load writes -/

theorem range_bit (a b k : Nat) : (2 ^ a - 2 ^ b).testBit k = (decide (b ≤ k) && decide (k < a)) := by
  rcases Nat.le_total b a with h | h
  · have e : 2 ^ a - 2 ^ b = (2 ^ (a - b) - 1) <<< b := by
      rw [Nat.shiftLeft_eq, Nat.sub_mul, ← Nat.pow_add, Nat.sub_add_cancel h, Nat.one_mul]
    rw [e, Nat.testBit_shiftLeft, Nat.testBit_two_pow_sub_one]
    by_cases h1 : b ≤ k
    · simp only [h1, decide_true, Bool.true_and]; congr 1; apply propext; omega
    · simp [h1]
  · have e : 2 ^ a - 2 ^ b = 0 := Nat.sub_eq_zero_of_le (Nat.pow_le_pow_right (by omega) h)
    rw [e, Nat.zero_testBit]
    by_cases h1 : b ≤ k
    · simp [h1]; omega
    · simp [h1]

theorem State.w_pos (s : State) : 0 < s.w := by unfold State.w formWidth; split <;> omega

/-- The elements of a register after a load has written the values that it found. -/
theorem putLoaded_elem (s : State) (d : BitVec 6) (z : BitVec 1) (stop : Option Nat) (vals : List (Nat × Nat)) (i : Nat)
    (hv : s.vl * s.w ≤ 2048) (hi : i < s.vl) :
    (putLoaded d z stop vals s).elem d i =
      match vals.find? fun v => decide (v.1 = i) with
      | some v => v.2 % 2 ^ s.w
      | none => if z = 1 ∧ s.resumeUnit ≤ i ∧ (∀ k, stop = some k → i < k) then 0 else s.elem d i := by
  have hw := s.w_pos
  apply Nat.eq_of_testBit_eq; intro j
  have e0 : ((putLoaded d z stop vals s).elem d i) = bitsOf ((putLoaded d z stop vals s).vReg d) (i * s.w) s.w := rfl
  rw [e0]
  unfold bitsOf
  rw [Nat.testBit_mod_two_pow, Nat.testBit_shiftRight]
  by_cases hj : j < s.w
  · have hle : (i + 1) * s.w ≤ s.vl * s.w := Nat.mul_le_mul_right _ hi
    rw [Nat.succ_mul] at hle
    have hk : i * s.w + j < 2048 := by omega
    have e1 : (i * s.w + j) / s.w = i := by rw [Nat.add_comm, Nat.add_mul_div_right _ _ hw, Nat.div_eq_of_lt hj, Nat.zero_add]
    have e2 : (i * s.w + j) % s.w = j := by rw [Nat.add_comm, Nat.add_mul_mod_self_right, Nat.mod_eq_of_lt hj]
    unfold putLoaded
    dsimp only
    rw [State.putVBits_bit _ _ _ _ _ hk]
    obtain ⟨b1, b2⟩ := assemble_bit s.w hw (s.lanes.map fun i => (vals.find? fun v => decide (v.1 = i)).map (·.2)) (i * s.w + j)
    rw [e1, e2] at b1; rw [e1] at b2
    have hl : (s.lanes.map fun i => (vals.find? fun v => decide (v.1 = i)).map (·.2))[i]? =
        some ((vals.find? fun v => decide (v.1 = i)).map (·.2)) := by simp [State.lanes, hi]
    rw [hl] at b1 b2
    have hr : (2 ^ ((stop.map (· * s.w)).getD 2048) - 2 ^ (s.resumeUnit * s.w)).testBit (i * s.w + j) =
        (decide (s.resumeUnit ≤ i) && decide (∀ k, stop = some k → i < k)) := by
      rw [range_bit]
      have h1 : s.resumeUnit * s.w ≤ i * s.w + j ↔ s.resumeUnit ≤ i := by
        constructor
        · intro h
          rcases Nat.lt_or_ge i s.resumeUnit with h2 | h2
          · have := Nat.mul_le_mul_right s.w h2; rw [Nat.succ_mul] at this; omega
          · exact h2
        · intro h; have := Nat.mul_le_mul_right s.w h; omega
      have h2 : i * s.w + j < (stop.map (· * s.w)).getD 2048 ↔ ∀ k, stop = some k → i < k := by
        cases stop with
        | none => simp [hk]
        | some k =>
          simp only [Option.map_some, Option.getD_some, Option.some.injEq, forall_eq']
          constructor
          · intro h
            rcases Nat.lt_or_ge i k with h3 | h3
            · exact h3
            · have := Nat.mul_le_mul_right s.w h3; omega
          · intro h; have := Nat.mul_le_mul_right s.w h; rw [Nat.succ_mul] at this; omega
      simp only [h1, h2]
    cases hf : vals.find? fun v => decide (v.1 = i) with
    | some v =>
      rw [hf] at b1 b2
      simp only [Option.map_some] at b1 b2
      by_cases hz : z = 1
      · rw [if_pos hz, Nat.testBit_or, b2, b1]; simp [hj]
      · rw [if_neg hz, b2, b1]; simp [hj]
    | none =>
      rw [hf] at b1 b2
      simp only [Option.map_none] at b1 b2
      dsimp only
      have he : (s.elem d i).testBit j = (s.vReg d).testBit (i * s.w + j) := by
        unfold State.elem bitsOf; rw [Nat.testBit_mod_two_pow, Nat.testBit_shiftRight]; simp [hj]
      by_cases hz : z = 1
      · rw [if_pos hz, Nat.testBit_or, b2, b1, hr]
        by_cases h1 : s.resumeUnit ≤ i ∧ ∀ k, stop = some k → i < k
        · rw [show (decide (s.resumeUnit ≤ i) && decide (∀ k, stop = some k → i < k)) = true by
            rw [decide_eq_true h1.1, decide_eq_true h1.2]; rfl]
          have h2 : z = 1 ∧ s.resumeUnit ≤ i ∧ ∀ k, stop = some k → i < k := ⟨hz, h1⟩
          simp only [if_pos h2]; simp [hj]
        · rw [show (decide (s.resumeUnit ≤ i) && decide (∀ k, stop = some k → i < k)) = false by
            rw [← Bool.decide_and]; exact decide_eq_false h1]
          have h2 : ¬(z = 1 ∧ s.resumeUnit ≤ i ∧ ∀ k, stop = some k → i < k) := fun h => h1 h.2
          simp only [if_neg h2, he]; simp [hj]
      · have h2 : ¬(z = 1 ∧ s.resumeUnit ≤ i ∧ ∀ k, stop = some k → i < k) := fun h => hz h.1
        rw [if_neg hz, b2]; simp only [if_neg h2, he]; simp [hj]
  · simp only [hj, decide_false, Bool.false_and]
    split
    · rw [Nat.testBit_mod_two_pow]; simp [hj]
    · split
      · simp
      · unfold State.elem bitsOf; rw [Nat.testBit_mod_two_pow]; simp [hj]

theorem putLoaded_other (s : State) (d : BitVec 6) (z : BitVec 1) (stop : Option Nat) (vals : List (Nat × Nat)) (j : Fin 64)
    (h : j ≠ physV s.th.arch.vrot d) : (putLoaded d z stop vals s).th.arch.v[j] = s.th.arch.v[j] :=
  State.putVBits_other _ _ _ _ _ h

/-- A unit list found by its index. -/
theorem find_units (us : List MemUnit) (f : MemUnit → Nat) (i : Nat) (hn : us.Pairwise fun a b => a.1 ≠ b.1) (u : MemUnit) (hu : u ∈ us)
    (h : u.1 = i) : (us.map fun u => (u.1, f u)).find? (fun v => decide (v.1 = i)) = some (i, f u) := by
  induction us with
  | nil => simp at hu
  | cons x t ih =>
    rw [List.map_cons, List.find?_cons]
    rcases List.mem_cons.1 hu with rfl | h1
    · simp [h]
    · have : x.1 ≠ i := fun e => (List.rel_of_pairwise_cons hn h1) (e.trans h.symm)
      simp only [this, decide_false]
      exact ih hn.of_cons h1

theorem find_units_none (us : List MemUnit) (f : MemUnit → Nat) (i : Nat) (h : ∀ u ∈ us, u.1 ≠ i) :
    (us.map fun u => (u.1, f u)).find? (fun v => decide (v.1 = i)) = none := by
  rw [List.find?_eq_none]
  intro v hv
  obtain ⟨u, hu, rfl⟩ := List.mem_map.1 hv
  simp [h u hu]

end Sys2Proof.Machine
end

