-- ==== Sys2Proof/Tests/Slice0.lean ====
section
/-! SUPPORT. Tests: ill-formed terms that the check refuses, words written out from the tables of the encoding chapter,
small steps whose results the spec fixes, and for each statement a state and operands that meet its hypotheses. -/

namespace Sys2Proof.Tests
open Sys2Proof.Machine Sys2Proof.Claims
-- one theorem at a time: evaluations that wait for one another would each hold a thread
set_option Elab.async false

/-! ### Well-formedness: one ill-formed term for each check (R120, R123 to R128, R187) -/

theorem test_ill_formed : (([Instr.lp 0 1, .lp 1 0, .lpImmediate 4 0, .ld 1 2 1 3 0, .ldIndexed 1 2 1 3 4, .ldq 1 2 1 3 0 0, .atom 1 2 9 0 0 3,
    .pref 3 1 0, .fence 0 0, .fencex 0 0 1, .fencex 0 1 0, .bxq 0, .bxq 29, .bxqS 1 0, .lvl 1 31, .lvln 1 31, .migh 0, .fsgn 1 2 3 3 0,
    .vcmp 6 1 2 3 0 0, .vfcmp 7 1 2 3 0 0, .vcvtTo 1 2 0 0x12 0 0, .vcvtFrom 1 2 0 0x16 0 0, .vscan 1 2 0 6 0 0, .vred 1 2 6 0 0,
    .vconf 1 6 1, .vconf 1 12 1, .vldseg 1 2 0x12 0 0, .vstseg 1 2 0x0C 0 0, .hint 1]).all fun i => decide (i.wellFormed = false)) = true := by decide

theorem test_well_formed : (([Instr.lp 1 1, .lpImmediate 0 1, .ld 1 2 0 3 0, .ldIndexed 1 2 1 2 4, .ldq 1 2 1 2 0 0, .atom 1 2 8 0 0 3,
    .pref 2 1 0, .fence 0 1, .fencex 0 1 1, .bxq 1, .bxq 28, .bxqS 1 28, .lvl 1 30, .lvln 1 30, .migh 3, .fsgn 1 2 0 3 0,
    .vcmp 5 1 2 3 0 0, .vfcmp 6 1 2 3 0 0, .vcvtTo 1 2 0 0x15 0 0, .vcvtFrom 1 2 0 0x13 0 0, .vscan 1 2 0 5 0 0, .vred 1 2 5 0 0,
    .vconf 1 7 1, .vconf 1 11 1, .vldseg 1 2 0x13 0 0, .vstseg 1 2 0x0D 0 0, .hint 2]).all fun i => decide (i.wellFormed = true)) = true := by decide

/-! ### Decoding: words written out field by field from R118, R119 and R123 to R129 -/

-- the bits are major, then the fields of the format, as the tables name them
theorem test_decode_int : decode 0b000001_00011_00001_00010_00000001010 = .ok (.slt 3 1 2) ∧
    decode 0b000001_00011_00001_00000_00000010110 = .ok (.sextW 3 1) ∧
    (∃ e, decode 0b000001_00011_00001_00001_00000010110 = .error e) := ⟨rfl, rfl, _, rfl⟩
theorem test_decode_mul : decode 0b001001_00011_00001_00010_00000000101 = .ok (.rem 3 1 2) := rfl
theorem test_decode_shift : decode 0b000110_00011_00001_10_00000000_111111 = .ok (.srai 3 1 63) ∧
    (∃ e, decode 0b000110_00011_00001_10_00000001_111111 = .error e) := ⟨rfl, _, rfl⟩
theorem test_decode_lih : decode 0b000111_00011_10_1_00_1000000000000001 = .ok (.lihK 3 2 0x8001) ∧
    decode 0b000111_00011_11_0_00_1000000000000001 = .ok (.lih 3 3 0x8001) := ⟨rfl, rfl⟩
theorem test_decode_branch : decode 0b001100_00011_00001_1111111111111111 = .ok (.blt 3 1 0xFFFF) := rfl
theorem test_decode_lp : decode 0b010010_00000_00001_0000000000000101 = .ok (.lp 1 5) ∧
    (∃ e, decode 0b010010_00000_00001_1000000000000101 = .error e) := ⟨rfl, _, rfl⟩
theorem test_decode_load : decode 0b010011_00101_00100_1110_0000000_00110 = .ok (.ldIndexed 5 4 1 2 6) ∧
    decode 0b010100_00101_00100_0001_111111111111 = .ok (.st 5 4 1 0xFFF) ∧
    (∃ e, decode 0b010100_00101_00100_0101_111111111111 = .error e) := ⟨rfl, rfl, _, rfl⟩
theorem test_decode_fence : decode 0b011000_00011_00000_00000_000_0000_0100 = .ok (.fence 3 4) ∧
    decode 0b011000_00011_00000_00000_001_0001_0010 = .ok (.fencex 3 1 2) ∧
    decode 0b011000_00011_00000_00000_101_00000_010 = .ok (.bard 3 2) := ⟨rfl, rfl, rfl⟩
theorem test_decode_signal : decode 0b011001_00011_00100_00101_010_001_00110 = .ok (.sigarmPost 3 4 5 6) ∧
    decode 0b011001_00011_00100_00000_011_000_00110 = .ok (.snowpub 3 4 6) := ⟨rfl, rfl⟩
theorem test_decode_tree : decode 0b011011_00011_00000_00000_010_000_11110 = .ok (.lvln 3 30) ∧
    decode 0b011011_00011_00000_00000_011_00000_100 = .ok (.phys 3 4) := ⟨rfl, rfl⟩
theorem test_decode_cxg : decode 0b011100_00011_00001_10_00_100000000000 = .ok (.cxg 3 1 0x800) := rfl
theorem test_decode_float : decode 0b100000_00011_00001_00010_01001_0001_01 = .ok (.fsgn 3 1 2 1 1) ∧
    decode 0b100000_00011_00001_00000_01010_1110_00 = .ok (.fcvtFromInt 3 1 2 0) := ⟨rfl, rfl⟩
theorem test_decode_vector : decode 0b100010_000011_000001_000010_010_1_1111 = .ok (.vmacc 3 1 2 2 1) ∧
    decode 0b100011_000011_000001_000000_010_0_0100 = .ok (.vabs 3 1 2 0) ∧
    decode 0b100101_000011_000001_000010_010_0_0001 = .ok (.vfnma 3 1 2 2 0) := ⟨rfl, rfl, rfl⟩
theorem test_decode_predicate : decode 0b100110_110_001_000_010_000_011_100_1_0011 = .ok (.plog 6 1 2 3 4 1) ∧
    decode 0b100110_000011_000_010_000000_100_0_0100 = .ok (.pcnt 3 2 4) ∧
    decode 0b100110_111111111111111111_100_0_0110 = .ok (.bpnone 0x3FFFF 4) := ⟨rfl, rfl, rfl⟩
theorem test_decode_move : decode 0b100111_000011_000001_1_01101_010_0_0001 = .ok (.vcvtTo 3 1 1 0x0D 2 0) ∧
    decode 0b100111_0_00011_000001_0_00111_000_0_0100 = .ok (.vext 3 1 7) ∧
    (∃ e, decode 0b100111_000011_000001_0_10010_010_0_0010 = .error e) := ⟨rfl, rfl, _, rfl⟩
theorem test_decode_vmem : decode 0b101000_000011_00110_0_00111_010_1_010_01 = .ok (.vlds 3 6 7 2 1 1) ∧
    decode 0b101100_000011_00110_000111_010_0_001_01 = .ok (.vscat 3 6 7 2 0 1) ∧
    decode 0b101100_000011_00110_0_01101_010_0_101_00 = .ok (.vstseg 3 6 0x0D 2 0) := ⟨rfl, rfl, rfl⟩
theorem test_decode_scalar_operand : decode 0b101001_000011_000001_10000_1010_010_1_1 = .ok (.vsllScalar 3 1 16 2 1 1) ∧
    decode 0b101101_0_00011_000000_01001_0000_000_0_1 = .ok (.vconf 3 9 1) := ⟨rfl, rfl⟩
theorem test_decode_extended : decode 0b101010_000011_0_00001_000000_010_0_1001 = .ok (.vrng 3 1 2 0) ∧
    decode 0b101011_000011_000001_00_1_000_010_0_0111 = .ok (.vscan 3 1 1 0 2 0) ∧
    decode 0b101011_000011_000001_0_00111_010_0_0011 = .ok (.vslideUp 3 1 7 2 0) := ⟨rfl, rfl, rfl⟩
theorem test_decode_tensor : decode 0b110000_001_010_00100_00101_000111_0010 = .ok (.tmmagK 1 2 4 5 7) ∧
    decode 0b110001_001_000_00100_00101_0_00111_0000 = .ok (.tload 1 4 5 7) ∧
    decode 0b110011_001_000_00100_00101_000000_0010 = .ok (.ttrn 1 4 5) := ⟨rfl, rfl, rfl⟩
theorem test_decode_exchange : decode 0b110100_001_00101_00000111_000000_0000 = .ok (.xsend 1 5 7) ∧
    decode 0b110100_001_00000_00000111_000000_0100 = .ok (.xrecvS 1 7) := ⟨rfl, rfl⟩
theorem test_decode_privileged : decode 0b111000_00000_00100_00101_00000000010 = .ok (.tlbinvPv 4 5) ∧
    decode 0b111001_00000_00100_00101_00000000001 = .ok (.ctxload 4 5) ∧
    decode 0b111010_00000_00100_00101_00000000001 = .ok (.ipi 4 5) := ⟨rfl, rfl, rfl⟩
theorem test_table_word : decodeTableWord 32 0x04611000 = some (.add 3 1 2) ∧ decodeTableWord 32 0 = none := ⟨rfl, rfl⟩

/-! ### Small states -/

/-- A thread at user level on a control core, about to run NOP. -/
def user : State := State.reset.load 0x78000000
/-- One at supervisor level on a control core, about to run TLBINV. -/
def super : State := State.reset.load 0xE0000000
/-- One on a vector core, about to run VADD v0, v0, v0. -/
def vec : State := State.reset.load 0x88000000
/-- One on a tensor core, about to run TMMA a0, g0, g0. -/
def ten : State := State.reset.load 0xC0000000

def withG (s : State) (l : List (BitVec 5 × BitVec 64)) : State := l.foldl (fun a x => a.setG x.1 x.2) s
def withTh (s : State) (f : Thread → Thread) : State := { s with th := f s.th }
def withArch (s : State) (f : Arch → Arch) : State := withTh s fun t => { t with arch := f t.arch }
def withSup (s : State) (f : Sup → Sup) : State := withTh s fun t => { t with sup := f t.sup }
def withLaunch (s : State) (f : Launch → Launch) : State := { s with launches := s.launches.map f }
def withDctx (s : State) (f : Dctx → Dctx) : State := { s with dctxs := s.dctxs.map f }
def withBytes (s : State) (k : Nat) (bs : List (BitVec 8)) : State := { s with mem := writeCells s.mem k bs }
/-- The thread waits at an instruction. -/
def waiting (s : State) (k : WaitKind) (i : Instr) : State := withTh s fun t => { t with wait := some { kind := k, instr := i } }
/-- The page is a log-all page. -/
def logged (s : State) : State := withBytes s 65536 (leBytes 8 0x1E13F)

/-- `Free` as a computation. -/
def isFree (i : Instr) (s : State) : Bool :=
  (s.breakpoint i).isNone && (!(decide (groupOf i = .s) || decide (groupOf i = .p)) || s.th.sup.level) &&
  (s.th.cls.implements (groupOf i) || s.th.grant) && !s.transferBusy i && !(s.th.transferring.any fun r => !besideTransfer i || s.skidSpent r) &&
  (s.usesPoison (Uses.of s.w i)).isNone

theorem free_of {i : Instr} {s : State} (h : isFree i s = true) : Free i s := by
  simp only [isFree, Bool.and_eq_true, Option.isNone_iff_eq_none, Bool.not_eq_true'] at h
  obtain ⟨⟨⟨⟨⟨h1, h2⟩, h3⟩, h4⟩, h5⟩, h6⟩ := h
  exact ⟨h1, fun hg => by rcases hg with hg | hg <;> simpa [hg] using h2, by simpa using h3, h4,
    h5, h6⟩

/-- Whether a step answers a state of which p holds. -/
def after (r : Step) (p : State → Bool) : Bool :=
  match r with
  | .next t => p t
  | _ => false

/-! ### Small steps; the results are those of the rules' own words -/

-- R141: sums wrap
theorem test_add_wraps : after (exec (.add 3 1 2) (withG user [(1, 0xFFFF_FFFF_FFFF_FFFF), (2, 2)])) (fun t => t.g 3 = 1) = true := by decide +kernel
-- R142: a quotient by zero is all ones, and the most negative number over -1 is itself
theorem test_div_by_zero : after (exec (.div 3 1 2) (withG user [(1, 7)])) (fun t => t.g 3 = 0xFFFF_FFFF_FFFF_FFFF) = true := by decide +kernel
theorem test_div_overflow : after (exec (.div 3 1 2) (withG user [(1, 0x8000_0000_0000_0000), (2, 0xFFFF_FFFF_FFFF_FFFF)]))
    (fun t => t.g 3 = 0x8000_0000_0000_0000) = true := by decide +kernel
-- R142: the remainder takes the dividend's sign
theorem test_rem_sign : after (exec (.rem 3 1 2) (withG user [(1, BitVec.ofInt 64 (-7)), (2, 2)])) (fun t => t.g 3 = BitVec.ofInt 64 (-1)) = true := by
  decide +kernel
-- R143: LIH.K keeps the other bits
theorem test_lihk : after (exec (.lihK 1 1 0xABCD) (withG user [(1, 0x1111_2222_3333_4444)])) (fun t => t.g 1 = 0x1111_2222_ABCD_4444) = true := by
  decide +kernel
-- R144: a taken branch goes to PC + 4·SInt
theorem test_branch_back : after (exec (.blt 1 2 0xFFFF) (withArch (withG user [(1, BitVec.ofInt 64 (-1))]) fun a => { a with pc := 64 }))
    (fun t => t.th.arch.pc = 60) = true := by decide +kernel
-- R149: bytes are little-endian, and a load sign-extends
theorem test_load_extends : after (exec (.ld 3 1 0 1 1) (withBytes (withG user [(1, 200)]) 200 [0x11, 0x22, 0x83]))
    (fun t => t.g 3 = 0xFFFF_FFFF_FFFF_8322) = true := by decide +kernel
theorem test_store_bytes : after (exec (.st 2 1 1 0) (withG user [(1, 200), (2, 0xABCD)]))
    (fun t => readCells t.mem 199 4 = [0, 0xCD, 0xAB, 0]) = true := by decide +kernel
-- R152: an atomic minimum compares as signed, and leaves the old value
theorem test_atom_min : after (exec (.atom 3 1 4 0 0 2) (withBytes (withG user [(1, 200), (2, BitVec.ofInt 64 (-1))]) 200 [5]))
    (fun t => t.g 3 = 5 && readCells t.mem 200 8 = List.replicate 8 0xFF) = true := by decide +kernel
-- R174, R286: SYSC resumes past itself
theorem test_sysc : after (exec (.sysc 5) user)
    (fun t => t.th.sup.tpc = 4 && t.th.sup.tcause = 0x0E && t.th.sup.tdetail = 5 && t.th.sup.level) = true := by decide +kernel
-- R13: a privileged instruction at user level
theorem test_privilege : after (exec .tlbinv user) (fun t => t.th.sup.tcause = 0x02 && t.th.sup.tpc = 0) = true := by decide +kernel
-- R189: elements wrap at the width of `vform`
theorem test_vadd_wraps : after (exec (.vadd 3 1 2 0 0) (withArch vec fun a => { a with v := (a.v.set 1 0xFFFF_FFFF).set 2 3 }))
    (fun t => t.elem 3 0 = 2) = true := by decide +kernel
-- R71, R181: 1/0 in f64 is infinity with divide by zero
theorem test_fdiv_zero : after (exec (.fdiv 3 1 2 0) (withG vec [(1, 0x3FF0_0000_0000_0000)]))
    (fun t => t.g 3 = 0x7FF0_0000_0000_0000 && t.th.arch.fstat = 2) = true := by decide +kernel
-- R302: the example of a line under prime 61 and under linear
theorem test_channel_group : channelGroup 2 1024000682 = 26 ∧ channelGroup 0 1024000682 = 42 := by decide
-- R364: die, direction, 23 zero bits, count of tag groups
theorem test_gcm_nonce : gcmNonce 0x05 true 7 = 0x05800000_0000000000000007 := by decide
-- R53: g0 reads zero and discards writes
theorem test_g0 : (user.setG 0 5).g 0 = 0 ∧ (user.setG 31 5).g 31 = 5 ∧ (user.setG 31 5).g 30 = 0 := by decide

/-! ### Witnesses: checks before an instruction, what follows it, integer operations -/

theorem witness_plain : Plain (.add 3 1 2) user :=
  ⟨by decide +kernel, by decide +kernel, by decide +kernel, by decide +kernel, by decide +kernel, by decide +kernel⟩
theorem witness_breakpoint : (([(0 : Fin 4), 3]).all fun n => decide (
    let s := withTh user fun t => { t with dbg := { t.dbg with dctl := 1 <<< n.val } }
    s.convoys (.add 3 1 2) = false ∧ s.th.convoy = none ∧ s.th.debugActs = true ∧ s.th.exempt = false ∧ s.th.dbg.dctl.getLsbD n = true ∧
    (s.th.dbg.dbp[n] ++ 0#2).signExtend 64 = s.th.arch.pc ∧ ∀ m, m < n → s.th.dbg.dctl.getLsbD m = false)) = true := by decide +kernel
theorem witness_privileged : user.breakpoint .tlbinv = none ∧ groupOf .tlbinv = .p ∧ user.th.sup.level = false ∧ groupOf .tret = .s := by decide +kernel
theorem witness_foreign : user.th.cls.implements (groupOf (.vadd 1 2 3 0 0)) = false ∧ user.th.grant = false := by decide +kernel
theorem witness_poisoned :
    let s := withTh user fun t => { t with poison := { t.poison with g := 0x8000_0000 } }
    let i : Instr := .add 3 1 31
    s.breakpoint i = none ∧ ¬(groupOf i = .s ∨ groupOf i = .p) ∧ s.th.cls.implements (groupOf i) = true ∧ s.transferBusy i = false ∧
    s.th.grant = false ∧ (s.th.transferring.any fun r => !besideTransfer i || s.skidSpent r) = false ∧
    (Uses.of s.w i).g.find? (fun r => r ≠ 0 && s.th.poison.g.getLsbD r.toNat) = some 31 := by decide +kernel
theorem witness_retirement :
    let one (n : BitVec 32) := withArch user fun a => { a with loops := [{ start := 0, last := a.pc, count := n }] }
    user.convoys (.add 3 1 2) = false ∧ user.th.dbg.dctl.getLsbD 6 = false ∧ user.th.arch.loops = [] ∧
    (one 2).th.arch.loops ≠ [] ∧ (one 1).th.arch.loops ≠ [] ∧ (one 2).th.dbg.dctl = user.th.dbg.dctl ∧
    (one 2).th.sup.level = user.th.sup.level := by decide +kernel
theorem witness_single_step :
    let s := withTh user fun t => { t with dbg := { t.dbg with dctl := 0x40 } }
    s.convoys .nop = false ∧ s.th.sup.level = false ∧ s.th.dbg.dctl.getLsbD 6 = true ∧ s.th.runs = [] ∧ s.th.sup.tip = false ∧
    s.th.arch.loops = [] := by decide +kernel
theorem witness_integer : (((integerForms 3 1 2).all fun e => decide (isFree e.1 user = true)) = true) ∧ (((productForms 3 1 2).all fun e => decide (isFree e.1 user = true)) = true) ∧
    (((unaryForms 3 1 63 5 7).all fun e => decide (isFree e.1 user = true)) = true) ∧ isFree (.lih 3 3 1) user = true ∧ isFree (.lihK 3 3 1) user = true ∧
    (((integerForms 0 1 2).all fun e => decide (isFree e.1 user = true)) = true) := by decide +kernel
theorem witness_remainder : remSigned (BitVec.ofInt 64 (-7)) 2 ≠ 0 ∧ remSigned 7 2 ≠ 0 := by decide +kernel
theorem witness_branches : (((branchForms 1 2 4).all fun e => decide (isFree e.1 user = true ∧ e.2 1 2 ≠ e.2 2 1 ∨ e.2 1 1 ≠ e.2 1 2)) = true) ∧ isFree (.jmp 31 3) user = true := by
  decide +kernel
theorem witness_jr : isFree (.jr 31 1 2) (withG user [(1, 2)]) = true ∧ ((withG user [(1, 2)]).g 1 + (2 : BitVec 16).signExtend 64).toNat % 4 = 0 ∧
    isFree (.jr 31 1 2) user = true ∧ (user.g 1 + (2 : BitVec 16).signExtend 64).toNat % 4 ≠ 0 := by decide +kernel
theorem witness_loop :
    let full := withArch user fun a => { a with loops := List.replicate 6 { start := 0, last := 8, count := 1 } }
    let five := withArch user fun a => { a with loops := List.replicate 5 { start := 0, last := 8, count := 1 } }
    ((([user, five, full]).all fun s => decide (isFree (.lpImmediate 3 1) s = true ∧ isFree (.lp 1 1) (withG s [(1, 0xFFFF_FFFF)]) = true)) = true) ∧
    five.th.arch.loops.length < 6 ∧ 6 ≤ full.th.arch.loops.length ∧ isFree (.lpImmediate 0 1) user = true := by decide +kernel

/-! ### Witnesses: scalar memory -/

/-- An address that no leaf maps. -/
def hole : BitVec 64 := 0x00F0_0000_0000_0000

theorem witness_loads : (([(Instr.ld 3 1 0 3 0x7FF, (192 : BitVec 64) + 0x7FF), (.ldIndexed 3 1 1 0 2, 192 + 1)]).all fun e => decide (
    isFree e.1 (withG user [(1, 192), (2, 1)]) = true ∧ ((withG user [(1, 192), (2, 1)]).readC e.2 8 true).isOk = true ∧
    isFree e.1 (withG user [(1, hole)]) = true ∧ ((withG user [(1, hole)]).readC hole 8 true).isOk = false)) = true := by decide +kernel
theorem witness_settled : settled user ∧ settled vec ∧ settled ten := ⟨rfl, rfl, rfl⟩

/-- Whether a checked access of the current thread passes, and on pages of which kind. -/
def passesC (s : State) (a : BitVec 64) (n : Nat) (r w : Bool) (onL : Bool) : Bool :=
  match s.checkC a n r w true with
  | .ok sp => decide (onLPage sp = onL)
  | .error _ => false

/-- Whether an event of one item is admitted. -/
def admits (s : State) (i : EventItem) : Bool := (s.allowEvent [i]).isOk

theorem witness_stores : (([Instr.st 2 1 3 0, .stIndexed 2 1 3 0]).all fun i => decide (
    isFree i user = true ∧ passesC user 193 8 false true false = true ∧ isFree i (logged user) = true ∧
    passesC (logged user) 193 8 false true true = true ∧ admits (logged user) (eventItem 0x08 0 0 193 [] 0 0) = true ∧
    passesC user hole 8 false true false = false)) = true := by decide +kernel
theorem witness_ordered : ((([Instr.ldq 3 1 0 3 0 0, .stq 3 1 3 0 0]).all fun i => decide (isFree i (withG user [(1, 192)]) = true)) = true) ∧
    (192 : BitVec 64).toNat % 8 = 0 ∧ (193 : BitVec 64).toNat % 8 ≠ 0 ∧ (user.readC 192 8 true).isOk = true ∧
    passesC user 192 8 false true false = true ∧ admits user (eventItem 0x01 0 0 192 [] 0 0) = true := by decide +kernel
theorem witness_atomics : (((atomForms 5 7).all fun e => decide (isFree (.atom 3 1 e.1 0 0 2) (withG user [(1, 192)]) = true)) = true) ∧
    isFree (.cas 3 1 0 0 2) user = true ∧ isFree (.snowpub 3 1 0) user = true ∧ passesC user 192 8 true true false = true ∧
    (196 : BitVec 64).toNat % 8 ≠ 0 := by decide +kernel
theorem witness_store_bytes : ([{ key := 8, len := 2, leaf := 0 }, { key := 4, len := 3, leaf := 0 }] : List Span).Pairwise
      (fun x y => x.key + x.len ≤ y.key ∨ y.key + y.len ≤ x.key) ∧ [(1 : BitVec 8), 2, 3, 4, 5].length = ([2, 3] : List Nat).sum ∧
    Memory.wf user.mem = true := by decide +kernel

/-- A launch that records, without a moraine ring. -/
def recording : State := withLaunch user fun l => { l with info := { l.info with mode := 1 } }

theorem witness_events : user.th.convoy = none ∧ super.th.sup.level = true ∧ user.th.sup.level = false ∧
    (user.myLaunch.map (·.acts)) = some 0 ∧ user.myDctx.isSome = true ∧ (recording.myLaunch.map (·.acts)) = some 1 ∧
    (recording.myDctx.map fun d => recording.moraineRoom d 1) = some false := by decide +kernel
theorem witness_hints : ((([Instr.nop, .cvb, .hint 2, .pref 0 1 4, .yield, .migh 2]).all fun i => decide (isFree i user = true)) = true) ∧
    CoreClass.ofCode 2 = .vector ∧ user.th.arch.migctl.getLsbD 0 = false := by decide +kernel
/-- A remote element of the thread is under way. -/
def remoteOut (s : State) : State := withTh s fun t => { t with remoteOut := 1 }
theorem witness_fences : isFree (.fence 0 15) user = true ∧ (15 : BitVec 4).getLsbD 2 = true ∧ isFree (.fencex 0 1 4) user = true ∧
    user.coveredDone 4 = true ∧ isFree (.fencex 0 1 4) (remoteOut user) = true ∧ (remoteOut user).coveredDone 4 = false ∧
    (waiting user .fencex (.fencex 0 1 4)).coveredDone 4 = true ∧ (waiting (remoteOut user) .fencex (.fencex 0 1 4)).coveredDone 4 = false := by
  decide +kernel

/-! ### Witnesses: barriers, signals, actions -/

/-- One of two threads under a root of fan-out 2 with a domain of its first. -/
def pair : State := withLaunch user fun l => { l with threads := 2, info := { l.info with
  tree := [{ vl := false, fanout := 2, declared := some 1, bound := 1, domains := [1, 3] }, { vl := false, fanout := 1, declared := none, bound := 0, domains := [] }] } }
/-- Whether a barrier is a word. -/
def isWord (p : BarPlace) : Bool :=
  match p with
  | .word .. => true
  | _ => false
/-- The word and member count of the barrier at a height. -/
def barWord (s : State) (c : BitVec 5) : BitVec 64 × Nat :=
  match s.barAt c with
  | .word a m => (a, m)
  | _ => (0, 0)
/-- An arrival of a kind at the barrier of a height: whether it can be made, and whether it is the last. -/
def arrives (s : State) (c : BitVec 5) (k : Nat) : Option Bool :=
  match s.arriveAt (barWord s c).1 (barWord s c).2 k with
  | .ok (_, _, last) => some last
  | .error _ => none
/-- The generation that stands in the barrier of a height. -/
def genAt (s : State) (c : BitVec 5) : Option Nat :=
  match s.readBar (barWord s c).1 with
  | .ok (_, b) => some b.gen
  | .error _ => none
/-- The first of the two has arrived, of each barrier of height 1 and its domains. -/
def arrived (s : State) : State := withBytes (withBytes s 0x0C000000 [1]) 0x0C000090 [1]
/-- The wait half of an arrival in a generation that has ended. -/
def halfway (s : State) : State := withTh s fun t => { t with barHalf := [(t.arch.pc, 7)] }
/-- A lane level with a domain. -/
def laneDomain : State := withLaunch vec fun l => { l with info := { l.info with tree := l.info.tree.map fun x => { x with domains := [1] } } }

theorem witness_barrier_word : (0 : Nat) + 1 < 2 ^ 64 ∧ (0 + 1 + 0 = 1 ∧ 0 + 1 + 0 ≠ 2) ∧ 2 ^ 64 - 2 + 1 < 2 ^ 64 := by decide
theorem witness_split_barriers : vec.barAt 0 = .lane ∧ pair.barAt 0 = .single ∧ isWord (pair.barAt 1) = true ∧
    ((([Instr.bara 0 3, .barw 0 3, .bar 0]).all fun i => decide (isFree i vec = true ∧ isFree i pair = true)) = true) ∧ isFree (.bara 1 3) pair = true ∧
    isFree (.barw 1 3) pair = true ∧ arrives pair 1 1 = some false ∧ arrives (arrived pair) 1 1 = some true ∧ genAt pair 1 = some 0 ∧
    (pair.g 3).toNat = 0 ∧ ((withG pair [(3, 1)]).g 3).toNat ≠ 0 := by decide +kernel
/-- The barrier of a domain at height 1. -/
def domainAt (s : State) (k : Nat) : Option BarPlace := s.myLaunch.bind fun l => l.domainPlace s.th.wid (s.height 1 l.info.tree.length) k
theorem witness_barriers_wait : domainAt pair 2 = none ∧ isFree (.bard 1 2) pair = true ∧ domainAt laneDomain 0 = some .lane ∧
    isFree (.bard 1 0) laneDomain = true ∧ (domainAt pair 1).map isWord = some true ∧ isFree (.bar 1) pair = true ∧ isFree (.bard 1 1) pair = true ∧
    pair.th.barHalf.find? (fun x => decide (x.1 = pair.th.arch.pc)) = none ∧ arrives pair 1 0 = some false ∧ arrives (arrived pair) 1 0 = some true ∧
    (halfway pair).th.barHalf.find? (fun x => decide (x.1 = (halfway pair).th.arch.pc)) = some (0, 7) ∧ genAt (halfway pair) 1 = some 0 ∧
    (waiting (halfway pair) (.barrier (barWord pair 1).1 7) (.bar 1)).barAt 1 = pair.barAt 1 ∧
    isFree (.barw 1 3) (withG pair [(3, 7)]) = true := by decide +kernel

theorem witness_signals : ((([Instr.sigadd 2 1 0, .sigwait 2 1 0, .sigarmWake 2 1 0, .sigarmPost 2 1 3 0, .sigarmLaunch 2 1 3 0]).all fun i => decide (
      isFree i (withG user [(1, 192), (2, 5), (3, 192)]) = true)) = true) ∧ (193 : BitVec 64).toNat % 8 ≠ 0 ∧ (192 : BitVec 64).toNat % 48 = 0 ∧
    (192 : BitVec 64).toNat % 64 = 0 ∧ (200 : BitVec 64).toNat % 48 ≠ 0 ∧ passesC user 192 8 true true false = true ∧
    admits user (eventItem 0x03 0 0 192 [] 0 5) = true ∧ (user.readC 192 8 true).isOk = true ∧
    ((waiting user .signal (.sigwait 2 1 0)).readC 192 8 true).isOk = true ∧ (waiting user (.woken 192) (.sigwait 2 1 0)).th.wait = some { kind := .woken 192, instr := .sigwait 2 1 0 } ∧
    leNat (user.spanBytes [{ key := 192, len := 8, leaf := 0 }]) < 5 ∧ user.dctxs ≠ [] := by decide +kernel
/-- An armed action on the counter at 192. -/
def armed (n : BitVec 64) : Action :=
  { key := 192, counter := 192, threshold := n, kind := 0, arg := 0, handle := 0, event := none, armed := 0 }
theorem witness_actions :
    let full := withDctx user fun d => { d with actions := List.replicate 65536 (armed 5) }
    (full.myDctx.map fun d => decide (65536 ≤ d.actions.length)) = some true ∧
    (user.myDctx.map fun d => decide (d.actions.length < 65536)) = some true ∧ isFree (.sigarmWake 2 1 0) full = true := by decide +kernel

/-! ### Witnesses: block transfers, tree queries, control registers, traps -/

/-- A ring of 2^4 entries at 384, its descriptor at 192 (R163). -/
def ringed (s : State) : State := withBytes s 192 (leBytes 8 384 ++ [4] ++ Machine.zeros 39)
/-- A request of the thread, to copy 48 bytes from 0 to 4096. -/
def request : Transfer :=
  { w0 := 48 * 2 ^ 12, w1 := 0, w2 := 4096, w3 := 192, vrotS := 0, vrotD := 0, control := true, stamp := 0, event := none, started := false, engine := 0
    done := 0, ended := none, faddr := 0, held := false, waitPage := none, olds := [] }
def queued (n : Nat) (s : State) : State := withTh s fun t => { t with bxq := List.replicate n request }
/-- Whether the 48 bytes that an address names are a valid descriptor. -/
def describes (s : State) (a : BitVec 64) : Bool :=
  match s.readC a 48 false with
  | .ok (v, _) => (ringDesc (leBytes 48 v)).isSome
  | .error _ => false
theorem witness_transfers : ((([Instr.bxq 1, .bxqS 3 1]).all fun i => decide (isFree i (withG (ringed user) [(4, 192)]) = true ∧
      isFree i (queued 8 (ringed user)) = true ∧ isFree i (queued 7 (ringed user)) = true)) = true) ∧
    describes (ringed user) 192 = true ∧ describes user 480 = false ∧ (user.readC 480 48 false).isOk = true ∧ (192 : BitVec 64).toNat % 48 = 0 ∧
    (193 : BitVec 64).toNat % 48 ≠ 0 ∧ (user.allowEvent []).isOk = true ∧ (queued 7 user).th.bxq.length < 8 ∧
    8 ≤ (queued 8 user).th.bxq.length ∧ (waiting (ringed user) .bxqFifo (.bxq 1)).th.bxq.length < 8 := by decide +kernel
theorem witness_tree : ((([Instr.wid 3, .lvl 3 30, .lvl 3 0, .lvln 3 30, .lvln 3 0, .phys 3 4]).all fun i => decide (isFree i pair = true)) = true) ∧
    (pair.myLaunch.map fun l => (l.info.tree.length, (l.info.tree[1]?).map (·.fanout))) = some (2, some 1) := by decide +kernel
theorem witness_control_registers : ((([Instr.crd 3 0x800, .cwr 3 0x800, .cxg 3 1 0x800]).all fun i => decide (isFree i user = true ∧ isFree i super = true)) = true) ∧
    2048 ≤ (0x800 : BitVec 12).toNat ∧ ¬(2048 ≤ (0x7FF : BitVec 12).toNat) ∧ crKind 0x7FF = none ∧ crKind 0x000 ≠ none ∧ crKind 0x011 ≠ none ∧
    crKind 0x011 ≠ some .ro ∧ crKind 0x0F1 = some .ro ∧ isFree (.crd 3 0x7FF) user = true := by decide +kernel
theorem witness_register_rows : (11 : BitVec 64).toNat % 16 ≤ 11 ∧ 11 < (12 : BitVec 64).toNat % 16 ∧ user.myDctx.isSome = true ∧
    (user.myDctx.map fun d => d.dsSector[slotOf 3]) = some none ∧ ((96 : BitVec 64).setWidth 56).toNat % 48 = 0 ∧
    ((97 : BitVec 64).setWidth 56).toNat % 48 ≠ 0 := by decide +kernel
theorem witness_system_calls : isFree (.sysc 0x7FFF) user = true ∧ isFree (.brk 3) user = true ∧ isFree (.unassignedEncoding 0) user = true ∧
    user.th.runs = [] ∧ user.th.sup.tip = false ∧ user.th.convoy = none ∧ user.convoys .nop = false := by decide +kernel
theorem witness_traps : user.th.sup.tip = false ∧ (withSup user fun u => { u with sstat := 8 }).th.sup.tip = true := by decide +kernel

/-! ### Witnesses: floating point, elements, predicates -/

/-- The same thread with another `vform`. -/
def formed (n : BitVec 4) (s : State) : State := withArch s fun a => { a with vform := n }
/-- Elements are 32-bit floating point, or 8-bit integers. -/
def vecF : State := formed 9 vec
def vec8 : State := formed 0 vec

theorem witness_scalar_float : (((scalarFpForms 3 1 2 3).all fun e => decide (isFree e.1 vec = true)) = true) ∧
    ((([Instr.fsqrt 3 1 0, .fma 3 1 2 4 0, .fms 3 1 2 4 0, .fcmp 3 1 2 3 0, .fcvt 3 1 7 0, .fcvtFromInt 3 1 3 0, .fclass 3 1 0,
      .fsgn 3 1 2 3 0]).all fun i => decide (isFree i vec = true)) = true) := by decide +kernel
theorem witness_special_cases : (Fmt.f32.decode 0x7FC00000).isNan = true ∧ (Fmt.f32.decode 0x7F800001).isSNan = true ∧
    (Fmt.f32.decode 1).isZero = false ∧ (Fmt.f32.decode 0x80000000).isZero = true ∧ (Fmt.f32.decode 0xFF800000).isInf = true ∧
    (Fmt.f32.decode 0x3F800000).lt (Fmt.f32.decode 0x40000000) = true ∧ (match Fmt.f32.decode 1 with
      | .fin _ k _ => decide (k ≠ 0)
      | _ => false) = true := by decide +kernel
theorem witness_element_results : vec.vl * vec.w ≤ 2048 ∧ vec8.vl * vec8.w ≤ 2048 ∧ 0 < vec.vl ∧
    vec.vl * vec.w ≤ 2048 ∧ (formed 3 (withArch vec fun a => { a with vcount := 1 })).vl * 64 < 2048 := by decide +kernel
theorem witness_element_forms : (((elementForms 3 1 2 1 1).all fun e => decide (isFree e.1 vec = true ∧ isFree e.1 vec8 = true)) = true) ∧
    (((elementForms1 3 1 1 0).all fun e => decide (isFree e.1 vec = true)) = true) ∧ isFree (.vmacc 3 1 2 0 0) vec = true ∧ isFree (.vidx 3 0 0) vec = true ∧
    formFmt vec.th.arch.vform = none ∧ isFree (.vidx 3 0 0) vecF = true ∧ (formFmt vecF.th.arch.vform).isSome = true ∧
    (((scalarForms 3 1 31 0 0 1).all fun e => decide (isFree e.1 vec = true)) = true) ∧ isFree (.vbcast 3 1 0 0 0) vec = true ∧ isFree (.vbcast 3 1 0 0 1) vecF = true := by
  decide +kernel
theorem witness_float_elements : (fpElementForms vec 3 1 2 4 0 0).all (fun e => isFree e.1 vec && isFree e.1 vecF) = true ∧
    formFmt vec.th.arch.vform = none ∧ (formFmt vecF.th.arch.vform).isSome = true := by decide +kernel
/-- Every element active, and none. -/
def active (n : BitVec 256) (s : State) : State := withArch s fun a => { a with p := a.p.set 3 n }
theorem witness_predicates : ((([Instr.vcmp 5 1 2 3 0 0, .plog 7 1 2 3 0 0, .vsel 3 1 2 3, .pcnt 3 2 3, .bpany 0x3FFFF 3, .bpnone 4 3]).all fun i => decide (
      isFree i vec = true)) = true) ∧ isFree (.vfcmp 6 1 2 3 0 0) vec = true ∧ isFree (.vfcmp 6 1 2 3 0 0) vecF = true ∧
    vec.th.poison.v = Vector.replicate 64 0 ∧ (active 1 vec).active 3 0 = true ∧ (active 1 vec).active 3 1 = false ∧
    (∀ i, i < 64 → (active 0 vec).active 3 i = false) ∧ vec.vl ≤ 256 ∧ vec8.vl ≤ 256 := by decide +kernel
theorem witness_no_element_active : ∀ i, (active 0 vec).active 3 i = false := by
  intro i
  simp only [State.active, State.pReg]
  simp [active, withArch, withTh]
theorem witness_moves : isFree (.vext 3 1 2) vec = true ∧ vec.th.poison.v = Vector.replicate 64 0 ∧ (withG vec [(2, 63)]).vl ≤ 64 ∧
    ((([vec, vecF]).all fun s => decide ((([(0x0E : BitVec 5), 0x13, 0x14]).all fun t => decide (isFree (.vcvtTo 3 1 1 t 0 0) s = true ∧ isFree (.vcvtFrom 3 1 1 t 0 0) s = true)) = true)) = true) ∧
    vtype 0x13 = .rime ∧ typeScaled 0x13 = true ∧ typeScaled 0x14 = true ∧ (0x0E : BitVec 5).toNat < 15 := by decide +kernel
theorem witness_vector_length : isFree (.vconf 3 1 0) vec = true ∧ isFree (.vconf 3 7 1) vec = true ∧ isFree (.vconf 3 11 1) vec = true ∧
    (vec.g 1).toNat ∉ [128, 256, 512, 1024, 2048] ∧ (2 : Nat) ^ 11 = 2048 ∧ vec.th.lgG ≠ 7 ∧ isFree (.vloop 1) vec = true ∧
    vec.vl = grantCount vec.th.lgG vec.w ∧ isFree .vsync vec = true := by decide +kernel
/-- A thread with a deep file. -/
def deep : State := withArch vec fun a => { a with vdeep := 1 }
theorem witness_deep_file : deep.th.arch.vdeep ≠ 0 ∧ ([0, 191].all fun n : Nat => isFree (.vrget 3 1) (withG deep [(1, n)]) &&
      isFree (.vrput 3 1) (withG deep [(1, n)])) = true ∧ deep.th.poison.deep[191] = 0 ∧ deep.th.poison.v = Vector.replicate 64 0 ∧
    192 ≤ ((withG deep [(1, 192)]).g 1).toNat ∧ vec.th.arch.vdeep = 0 ∧ isFree (.vrget 3 1) vec = true ∧ isFree (.vrput 3 1) vec = true := by
  decide +kernel
theorem witness_permutations : ((([Instr.vxch 3 1 7 0 0, .vpermIx 3 1 2 0 0, .vpermBr 3 1 0 0, .vslideUp 3 1 2 0 0, .vslideDn 3 1 2 0 0,
      .vcompact 3 1 2 0, .vexpand 3 1 2 0, .vscan 3 1 1 5 0 0, .vred 3 1 5 0 0, .vrng 3 1 0 0]).all fun i => decide (isFree i vec = true ∧ isFree i vecF = true)) = true) ∧
    reduceOp vecF.th.arch.vform vecF.mode 5 = none ∧ (reduceOp vec.th.arch.vform vec.mode 5).isSome = true := by decide +kernel

/-! ### Witnesses: vector memory -/

/-- Slot 1 governs loads: its word stands at 192, watermark 16, base 4096, elements of 4 bytes (R106). -/
def snowy (mark : Nat) (s : State) : State :=
  withBytes (withArch s fun a => { a with vsnow := 1, snowb := a.snowb.set 0 (192 + 2 * 2 ^ 56) }) 192 (leBytes 8 mark ++ leBytes 8 384)
/-- One active element, or two of which the second lies where no leaf maps. -/
def one (s : State) : State := withG (active 1 s) [(1, 384), (2, hole - 384)]
def two (s : State) : State := withG (active 3 s) [(1, 384), (2, hole - 384)]
/-- Only the first 0x6000_0000 bytes are mapped. -/
def cut (s : State) : State := withBytes (withBytes s 65536 (leBytes 8 131073)) 131072 (leBytes 8 0x1E03F)
/-- Whether the checks of a load or store of element k pass. -/
def reads (s : State) (k : Nat) (a : Nat → BitVec 64) : Bool := (s.checkC (a k) (s.w / 8) true false true).isOk
/-- The slot word that governs an instruction's loads. -/
def governs (s : State) (i : Instr) : Option Snow :=
  match s.readSnow (s.todo (s.units i)) with
  | .ok (w, _) => w
  | .error _ => none
/-- Whether an element at an address has to stall under a word. -/
def stalls (w : Option Snow) (a : BitVec 64) : Bool := w.any fun x => x.stalls a
theorem witness_vector_loads : (loadForms (one vec) 3 1 2 4 3 0 0 0).all (fun e => isFree e.1 (one vec) && reads (one vec) 0 e.2) = true ∧
    (one vec).vl * (one vec).w ≤ 2048 ∧ (one vec).th.arch.vcgroup.extractLsb' 0 5 = 0 ∧ (one vec).th.arch.vsnow = 0 ∧ (one vec).resumeUnit = 0 ∧
    (∀ k, k < 256 → (one vec).active 3 k = true → k = 0) ∧ (waiting (one vec) .snowline (.vld 3 1 3 0 0)).th.wait.isSome = true ∧
    (governs (snowy 1 (one vec)) (.vld 3 1 3 0 0)).isSome = true ∧ stalls (governs (snowy 1 (one vec)) (.vld 3 1 3 0 0)) 384 = false ∧
    ((governs (snowy 1 (one vec)) (.vld 3 1 3 0 0)).map fun w => admits (snowy 1 (one vec)) w.item) = some true := by decide +kernel
theorem witness_vector_stops : reads (two vec) 0 (fun k => 384 + (hole - 384) * BitVec.ofNat 64 k) = true ∧ isFree (.vlds 3 1 2 3 0 0) (two vec) = true ∧
    reads (two vec) 1 (fun k => 384 + (hole - 384) * BitVec.ofNat 64 k) = false ∧ (two vec).active 3 1 = true ∧ (two vec).th.cls ≠ .tensor ∧
    isFree (.vlds 3 1 2 3 0 0) (two ten) = true ∧ (two ten).th.cls = .tensor ∧ reads (two ten) 1 (fun k => 384 + (hole - 384) * BitVec.ofNat 64 k) = false ∧
    stalls (governs (snowy 0 (one vec)) (.vld 3 1 3 0 0)) 384 = true ∧
    (let s := withG (active 3 (cut vec)) [(1, 0x5FFF_FFFC)]
     reads s 0 (fun _ => 0x5FFF_FFFC) = true ∧ (match s.checkC 0x6000_0000 4 true false true with
      | .error (.fail ..) => true
      | _ => false) = true ∧ isFree (.vldf 3 1 3 0 0) s = true) := by decide +kernel
theorem witness_segments : segCount 7 0x13 = 0 ∧ isFree (.vldseg 3 1 0x13 3 0) (withTh vec fun t => { t with lgG := 7 }) = true ∧
    isFree (.vstseg 3 1 0x13 3 0) (withTh vec fun t => { t with lgG := 7 }) = true ∧ segCount vec.th.lgG 0x0D ≠ 0 ∧ vec.th.lgG ≤ 11 ∧
    isFree (.vldseg 3 1 0x0D 3 0) (one vec) = true ∧ ((one vec).checkC 384 (segBytes 0x0D).2 true false true).isOk = true ∧
    isFree (.vstseg 3 1 0x0D 3 0) (one vec) = true ∧
    (let us := (one vec).units (.vstseg 3 1 0x0D 3 0)
     ((one vec).segmentPoison 3 0x0D ((one vec).todo us)).isNone = true ∧
     ((storeUnits 3 ((one vec).segmentBytes 3 0x0D) (one vec) ((one vec).todo us)).2.2).isNone = true ∧ (one vec).anyOnL us = false) := by
  decide +kernel
theorem witness_segments_complete : segCount vec.th.lgG 0x0D ≠ 0 ∧ isFree (.vldseg 3 1 0x0D 3 0) (one vec) = true ∧ (one vec).th.arch.vsnow = 0 ∧
    ((one vec).todo ((one vec).units (.vldseg 3 1 0x0D 3 0))).all (fun u => ((one vec).checkC u.2.1 u.2.2 true false true).isOk) = true ∧
    isFree (.vstseg 3 1 0x0D 3 0) (one vec) = true ∧ (one vec).segmentPoison 3 0x0D ((one vec).todo ((one vec).units (.vstseg 3 1 0x0D 3 0))) = none ∧
    ((one vec).todo ((one vec).units (.vstseg 3 1 0x0D 3 0))).map (fun u => (u.2, ((one vec).checkC u.2.1 u.2.2 false true true).isOk)) =
      [((384, (segBytes 0x0D).2), true)] ∧ (one vec).anyOnL ((one vec).units (.vstseg 3 1 0x0D 3 0)) = false ∧
    (withSup (one vec) fun u => { u with level := true }).th.sup.level = true := by decide +kernel
/-- How the units of a store go: none stopped, or the first that stops. -/
def stored (s : State) (i : Instr) (y : BitVec 6) : Option Nat := (storeUnits 1 (s.elemBytes y) s (s.todo (s.units i))).2.2.map (·.1)
theorem witness_vector_stores : (storeForms (one vec) 3 1 2 4 3 0 0 0).all (fun e => isFree e.1 (one vec) &&
      decide (stored (one vec) e.1 3 = none) && !(one vec).anyOnL ((one vec).units e.1)) = true ∧
    (logged (one vec)).anyOnL ((logged (one vec)).units (.vst 3 1 3 0 0)) = true ∧
    stored (two vec) (.vsts 3 1 2 3 0 0) 3 = some 1 ∧ (two vec).th.cls ≠ .tensor ∧ stored (two ten) (.vsts 3 1 2 3 0 0) 3 = some 1 ∧
    (two ten).th.cls = .tensor ∧ isFree (.vsts 3 1 2 3 0 0) (two ten) = true := by decide +kernel
/-- Whether the checks of a remote instruction's units pass, and at which they stop. -/
def remoteStop (s : State) (i : Instr) : Option Nat :=
  match s.checkUnitsR (s.units i) with
  | .ok _ => none
  | .error (k, _) => some k
theorem witness_remote_updates : ((([Instr.vscadd 3 1 4 3 0 0, .vrdst 3 1 5 3 0]).all fun i => decide (isFree i (one vec) = true ∧ isFree i (two vec) = true ∧
      remoteStop (one vec) i = none ∧ isFree i (formed 9 (one vec)) = true)) = true) ∧
    (one vec).th.arch.vcop.extractLsb' 4 4 = (one vec).th.arch.vform ∧ (formed 9 (one vec)).th.arch.vcop.extractLsb' 4 4 ≠ 9 ∧
    remoteStop (withG (active 3 (cut vec)) [(1, 0x5FFF_FFFC)]) (.vrdst 3 1 5 3 0) = some 1 := by decide +kernel

/-- An element on its way home, for the 8 bytes at 384. -/
def elem0 : RemoteElem :=
  { handle := 0, pc := 0, core := 0, dc := 0, runs := [(384, 8)], va := 384, index := 0, bytes := 8, op := 0, fmt := 3, value := 5, tag := none, home := 0
    port := none, left := 0, issued := 1, verdict := none, event := none, refused := none }
def onTheWay (s : State) : State := { remoteOut s with remote := [elem0], ev := .index 0 }
theorem witness_homes_apply : (onTheWay vec).remote[0]? = some elem0 ∧ elem0.tag = none ∧ (onTheWay vec).combineMay 0 = true ∧
    ((onTheWay vec).launchOf? 0).map (·.acts) = some 0 ∧ formFmt 3 = none ∧ formSigned 3 = true ∧ formFmt 7 = none ∧ (formFmt 9).isSome = true := by
  decide +kernel
theorem witness_tags : ((([((1 : BitVec 16), (0 : BitVec 16)), (32767, 0)]).all fun e => decide (1 ≤ (e.1 - e.2).toNat ∧ (e.1 - e.2).toNat ≤ 32767)) = true) ∧
    ((0 : BitVec 16) - 0).toNat < 4096 ∧ ((0 : BitVec 16) - 61441).toNat < 4096 ∧ 4096 ≤ ((0 : BitVec 16) - 61440).toNat ∧
    32767 < ((61440 : BitVec 16) - 0).toNat ∧ 32767 < ((32768 : BitVec 16) - 0).toNat := by decide +kernel
/-! ### Witnesses: tensor and exchange -/

def tile (s : State) : State := withG (withArch s fun a => { a with tchk := 0, tma := 192 * 2 ^ 32 + 32768 }) [(4, 192 * 2 ^ 32), (5, 192 * 2 ^ 32 + 8192), (6, 384), (7, 256)]
/-- What a step answers, at a link count: for the witnesses' states alone. -/
def next (r : Step) (s : State) (lcc : Nat := 1000) : State :=
  match r with
  | .next t => { t with lcc := lcc }
  | _ => s
/-- Whether a T instruction passes its checks and writes nothing that an earlier one still has to write. -/
def startsFree (s : State) (x : Except Trouble (State × RunOp)) : Bool :=
  match x with
  | .ok (_, r) => !s.writesWait r
  | .error _ => false

theorem witness_tensor_start : (tileForms (tile ten) 0 1 4 5 7 2).all (fun e => isFree e.1 (tile ten)) = true ∧
    (tile ten).th.lastTX = none ∧ ((tile ten).threads.all fun t => t.runs.isEmpty) = true ∧
    (tileForms (tile ten) 0 1 4 5 7 2).map (fun e => startsFree (tile ten) e.2.2) = List.replicate 12 true := by decide +kernel
theorem witness_tensor_checks : tilePair 7 8 = none ∧ (withArch ten fun a => { a with tstr := 257 }).th.arch.tstr.toNat % 64 ≠ 0 ∧
    (next (exec (.tzero 0 1) (tile ten)) ten).th.lastTX ≠ none ∧
    ((next (exec (.tzero 0 1) (tile ten)) ten).threads.any fun t => t.runs.any fun r => decide (tileUnit r.instr = 1)) = true := by decide +kernel
theorem witness_promises : (([0, 1, 2]).all fun k => decide (
    (let s := withTh ten fun t => { t with promises := [(1, k, 0)] }
     s.th.arch.tchk ≠ 0 ∧ s.th.promises = (1, k, 0) :: [] ∧ 0 + 16 * (4 : BitVec 3).toNat = 64 ∧ 0 + 16 * (3 : BitVec 3).toNat < 64))) = true := by decide +kernel

/-- TZERO of tile 1 running, and TADDA into it with its first row about to be read or written. -/
def clearing : State := next (exec (.tzero 0 1) (tile ten)) ten
def adding (n : Nat) : State := next (exec (.tadda 0 1 4) (tile ten)) ten n
/-- The access that comes next, its instruction, and whether its cycle has passed. -/
def nextAccess (s : State) : Option (Nat × Instr × Bool) :=
  match s.th.nextRun with
  | some (n, time) => (s.th.runs[n]?).map fun r => (time % 2, r.instr, decide (time / 2 < s.coreCycle))
  | none => none
/-- After k further accesses. -/
def accesses : Nat → State → State
  | 0, s => s
  | k + 1, s => accesses k (next (exec .accumulatorRowAccess s) s s.lcc)
def storing : State := next (exec (.tacc 0 1 4 5) (tile ten)) ten
def loading : State := next (exec (.tload 0 4 6 7) (tile ten)) ten
def saving : State := next (exec (.tstore 0 4 6 7) (tile ten)) ten

theorem witness_accumulator : nextAccess clearing = some (1, .tzero 0 1, true) ∧ nextAccess (adding 40) = some (0, .tadda 0 1 4, true) ∧
    nextAccess (accesses 2 (adding 40)) = some (1, .tadda 0 1 4, true) ∧
    ((accesses 2 (adding 40)).th.runs.map fun r => r.latch.map (·.1)) = [[0, 1]] ∧
    (nextAccess (adding 40)).map (·.2.2) = some true ∧ nextAccess { clearing with lcc := 0 } = some (1, .tzero 0 1, false) ∧
    nextAccess storing = some (0, .tacc 0 1 4 5, true) ∧ ((storing.th.runs.map fun r => r.writes[32 + r.readRow]?) = [none]) ∧
    isMultiply (.tmma 0 1 4 5) = true := by decide +kernel
/-- A store watchpoint on the bytes at 384. -/
def watched (s : State) : State := withTh s fun t => { t with dbg := { t.dbg with dctl := 0x10, dwa := t.dbg.dwa.set 0 384, dwc := t.dbg.dwc.set 0 0x43 } }
/-- Row by row: the last of its instructions stands at a row. -/
def atRow (n : Nat) (s : State) : State := withTh s fun t => { t with runs := t.runs.map fun r => { r with row := n } }
theorem witness_tile_rows : (loading.th.runs.map fun r => (r.instr, r.row, r.writes.head?.map (·.2))) = [(.tload 0 4 6 7, 0, some 256)] ∧
    passesC loading 384 256 true false false = true ∧ (saving.th.runs.map fun r => (r.instr, r.row)) = [(.tstore 0 4 6 7, 0)] ∧
    passesC saving 384 256 false true false = true ∧ (saving.allowEvent [] true).isOk = true ∧
    (match (watched saving).checkC 384 256 false true true with
      | .error (.trap ..) => true
      | _ => false) = true ∧ isTransfer (.tload 0 4 6 7) = true ∧ ((atRow 32 loading).th.runs.map (·.row)) = [32] ∧ loading.th.tileSectors = 0 ∧
    isTransfer (.tdec 0 4 5) = false ∧ ((next (exec (.tdec 0 4 5) (tile ten)) ten).th.runs.all (next (exec (.tdec 0 4 5) (tile ten)) ten).runOver) = true ∧
    ((loading.th.runs.map fun r => loading.runOver r)) = [false] ∧
    ((loading.openTransfer.bind fun s => s.th.transferring.bind fun r => r.ahead.bind List.head?).map fun l => l.map (·.1)) = some [384] := by decide +kernel
theorem witness_tile_settled : settled loading := by
  unfold settled
  decide +kernel

/-! ### Witnesses: exchange, supervisor -/

/-- A slot table whose slot 7 departs at 10 of a frame of 100 with an issue window of 20, travels 5 and is received. -/
def planned (s : State) (lcc : Nat) : State :=
  let e : BitVec 128 := BitVec.ofNat 128 (10 + 20 * 2 ^ 13 + 3 * 2 ^ 26 + 512 * 2 ^ 41 + 5 * 2 ^ 64)
  { withTh s fun t => { t with arch := { t.arch with xframe := 100, xbase := 0 }, slots := t.slots.set 7 e } with lcc := lcc }
/-- The first byte of the thread's window. -/
def win : BitVec 64 := 192 * 2 ^ 32
def bound (t frame : Nat) : Departure := { slot := 7, frame := frame, departs := 10, arrives := 15, sent := decide (10 ≤ t), bad := false, data := 5 }
def withBound (s : State) (t : Nat) (frame : Nat := 0) : State := withTh s fun x => { x with departures := [bound t frame] }
/-- The current thread issued a T or X instruction at a core cycle. -/
def issuedAt (s : State) (c : Nat) : State := withTh s fun t => { t with lastTX := some c }
def freshAt7 (s : State) : State := withTh s fun t => { t with fresh := 128 }

theorem witness_frames : firstFrame 0 100 10 8 0 ∧ firstFrame 0 100 10 60 1 ∧ firstFrame 0 100 15 8 0 ∧ firstFrame 0 100 10 10 1 ∧
    firstFrame 0 100 10 5 0 :=
  ⟨⟨by decide, fun _ _ => by omega⟩, ⟨by decide, fun _ _ => by omega⟩, ⟨by decide, fun _ _ => by omega⟩, ⟨by decide, fun _ _ => by omega⟩,
    ⟨by decide, fun _ _ => by omega⟩⟩
theorem witness_pace : paceMet ten 7 ∧ ¬paceMet (issuedAt ten 100) 1 := by
  have h : ten.th.lastTX = none := by decide +kernel
  refine ⟨?_, fun e => absurd (e 100 rfl) (by decide +kernel)⟩
  intro t e
  rw [h] at e
  cases e
theorem witness_sends : ((([8, 60]).all fun l => decide (let s := planned ten l; isFree (.xsend 0 1 7) (withG s [(1, win)]) = true ∧ s.sourceBusy win = false ∧
      slotOwn s.th.slots[7] = true ∧ slotStart s.th.slots[7] = 10 ∧ slotWindow s.th.slots[7] = 20 ∧ passesC s win 256 true false false = true)) = true) ∧
    slotOwn (planned ten 8).th.slots[8] = false ∧ isFree (.xsend 0 1 8) (planned ten 8) = true ∧ (planned ten 8).neveKey (win + 1) 256 64 = none ∧
    (planned ten 8).neveKey win 256 64 ≠ none ∧ 110 > 60 / 4 * 4 + 20 ∧ 10 ≤ 8 / 4 * 4 + 20 ∧ bound 8 0 ∈ (withBound (planned ten 8) 8).th.departures := by
  decide +kernel
theorem witness_sends_settled : settled (planned ten 8) := rfl
theorem witness_receives : (let s := planned ten 8
     slotRecv s.th.slots[7] = true ∧ (freshAt7 s).th.fresh.getLsbD 7 = true ∧ s.th.fresh.getLsbD 7 = false ∧ s.th.wait = none ∧ slotTravel s.th.slots[7] = 5 ∧
     ((([Instr.xrecv 0 7, .xrecvS 0 7, .xwait 0 7, .xslot 0 1]).all fun i => decide (isFree i s = true ∧ isFree i (freshAt7 s) = true)) = true)) ∧
    (10 ≤ 8 + 20) ∧ (60 + 20 < 110) ∧ isFree (.xwait 0 7) (planned ten 60) = true := by decide +kernel
theorem witness_arrivals : (withBound (planned ten 20) 20).arrivalDue = some (15, some (bound 20 0)) ∧ (planned ten 20).arrivalDue = none ∧
    (planned ten 20).th.place ≠ .absent ∧
    ((([waiting (planned ten 20) (.arrival 7 15) (.xrecv 0 7), waiting (freshAt7 (planned ten 20)) (.arrival 7 15) (.xrecv 0 7)]).all fun s => decide (
      s.arrivalDue = some (15, none) ∧ isFree (.xrecv 0 7) s = true)) = true) ∧
    isFree (.xwait 0 7) (waiting (planned ten 60) (.window 90) (.xwait 0 7)) = true ∧
    isFree (.xwait 0 7) (waiting (planned ten 100) (.window 90) (.xwait 0 7)) = true ∧ (110 ≤ 100 + 20) := by decide +kernel

/-- A second thread of the launch, held, with the dense number 1, beside the current one. -/
def mate (s : State) (held : Bool := true) : State :=
  { withLaunch s fun l => { l with threads := 2, info := { l.info with tree := [{ vl := false, fanout := 2, declared := none, bound := 0, domains := [] }] } } with
    others := [{ s.th with handle := s.th.handle ||| 1, wid := 1, held := held, slot := 1 }] }
/-- The handle of the second thread, in g1. -/
def named (s : State) (b : BitVec 64 := 192) : State := withG (mate s) [(1, (s.th.handle ||| 1).setWidth 64), (2, b)]
/-- In the state that returns at a level, to 64. -/
def returning (s : State) (bits : BitVec 5) : State := withSup s fun u => { u with sstat := bits, tpc := 64 }
/-- The second thread of a state. -/
def second (s : State) : Thread := s.others.headD s.th

theorem witness_returns : isFree .tret (returning super 0x4) = true ∧ (returning super 0x4).th.sup.sstat.getLsbD 4 = false ∧
    (returning super 0x4).th.sup.sstat.getLsbD 2 = true ∧ super.th.core = (withTh super fun t => { t with trapCore := t.core }).th.trapCore ∧
    isFree .tret (returning super 0x10) = true ∧ (returning super 0x10).th.sup.sstat.getLsbD 4 = true ∧ super.th.runs = [] := by decide +kernel
theorem witness_idle : isFree .idle super = true ∧ super.ipendNow &&& super.th.sup.imask = 0 ∧
    (let s := withSup super fun u => { u with ipend := 8, imask := 0x00C }
     isFree .idle (waiting s .idle .idle) = true ∧ s.ipendNow &&& s.th.sup.imask ≠ 0) ∧ isFree .idle (waiting super .idle .idle) = true := by decide +kernel
theorem witness_ipi : isFree (.ipi 1 2) (named super 7) = true ∧ isFree (.ipi 1 2) (named super 8) = true ∧
    ((named super).target ((named super).g 1)).map (·.wid) = some 1 ∧ ((named super).g 2).toNat = 192 ∧
    (named super).target 77 = none := by decide +kernel
theorem witness_interrupts : (([0, 3, 9, 11]).all fun n => decide ((([withSup user fun u => { u with sstat := 1, ipend := 1 <<< n, imask := 0xFFF }]).all fun s => decide (
    s.interruptLine = some n ∧ (s.atStop.map (·.th.sup)) = some s.th.sup ∧ user.interruptLine = none)) = true)) = true := by decide +kernel
theorem witness_targets : ((([Instr.ctxsave 1 2, .ctxload 1 2, .migr 1 2]).all fun i => decide ((([super, named super]).all fun s => decide (isFree i s = true)) = true)) = true) ∧
    super.target 77 = none ∧ (super.target (super.th.handle.setWidth 64)).map (·.wid) = some 0 ∧
    (((named super).target ((named super).g 1)).map fun t => (t.handle, t.held, ((named super).thread? t.handle).isSome)) =
      some (super.th.handle ||| 1, true, true) ∧ super.th.handle ||| 1 ≠ super.th.handle ∧
    ((named super 200).g 2).toNat % 192 ≠ 0 ∧ passesC (named super) 192 58176 false true false = true := by decide +kernel
/-- An image of the second thread, of any class but of its handle and grant, with a loop count, at 192. -/
def imaged (grant : BitVec 8) : State :=
  withBytes (named super) 192 ([1, 0, 3, 0] ++ leBytes 4 (super.th.handle ||| 1).toNat ++ List.replicate 8 0 ++ [0, grant])

theorem image_bytes (s : State) (x : Span) (h : s.skewClash x.key = false) : leBytes x.len (wordAt s [x]) = readCells s.mem x.key x.len := by
  have e : wordAt s [x] = leNat (readCells s.mem x.key x.len) := by simp [wordAt, State.spanBytes, h]
  have := leBytes_leNat (readCells s.mem x.key x.len)
  rwa [readCells_length, ← e] at this
/-- The one span of an access that the current thread may read. -/
def spanC (s : State) (a : BitVec 64) (n : Nat) : Option Span :=
  match s.checkC a n true false false with
  | .ok [x] => some x
  | _ => none
/-- The first 18 bytes of that image; the others are zero. -/
def imageHead (grant : BitVec 8) : List (BitVec 8) := [1, 0, 3, 0] ++ leBytes 4 (super.th.handle ||| 1).toNat ++ List.replicate 8 0 ++ [0, grant]
theorem readCells_tail {m : List Host.Cell} {k a n : Nat} (h : a ≤ n) (hz : (m.all fun c => decide (c.1 < k + a) || decide (k + n ≤ c.1)) = true) :
    readCells m k n = readCells m k a ++ List.replicate (n - a) 0 := by
  apply List.ext_getElem (by simp; omega)
  intro i h1 h2
  rw [readCells_getElem]
  by_cases hi : i < a
  · rw [List.getElem_append_left (by simpa using hi), readCells_getElem]
  · rw [List.getElem_append_right (by simpa using Nat.le_of_not_lt hi), List.getElem_replicate]
    apply readCell_absent
    intro c hc he
    have := List.all_eq_true.mp hz c hc
    simp at this h1
    omega
theorem witness_image_bytes : readCells (imaged 11).mem 192 58176 = imageHead 11 ++ List.replicate 58158 0 := by
  rw [readCells_tail (a := 18) (by decide) (by decide +kernel)]
  congr 1
theorem witness_image_fits : imageFits (second (imaged 11)) (imageHead 11 ++ List.replicate 58158 0) = true := by decide +kernel
theorem witness_image_misfits : imageFits (second (imaged 10)) (readCells (imaged 10).mem 192 58176) = false := by decide +kernel
theorem witness_image : (([(11 : BitVec 8), 10]).all fun e => decide (
    (spanC (imaged e) 192 58176).map (fun x => (x.key, x.len, (imaged e).skewClash x.key)) = some (192, 58176, false) ∧
    (imaged e).imageSize (second (imaged e)) = 58176 ∧ isFree (.ctxload 1 2) (imaged e) = true)) = true := by decide +kernel
theorem witness_image_settled : settled (imaged 11) := by
  unfold settled
  decide +kernel
/-- Two threads of which the second runs. -/
def both (s : State) (b : BitVec 64) : State := withG (mate s false) [(1, (s.th.handle ||| 1).setWidth 64), (2, b)]
theorem witness_migr : (named super).actsOn (second (named super)).handle ≠ 2 ∧
    ((([super.th.core.toNat, 0]).all fun c => decide ((named super).couldHold (second (named super)) c = true)) = true) ∧ (named super).couldHold (second (named super)) 8191 = false ∧
    (second (named super)).arch.anchor = .none ∧ (second (named super)).migrTo = none ∧ (both super 0x1200).fifoServable = false ∧ isFree (.migr 1 2) (both super 0x1200) = true ∧ (second (both super 0x1200)).held = false ∧
    (second (both super 0x1200)).place = .resident ∧ (second (both super 0x1200)).core.toNat = 0x1200 ∧
    (withLaunch (named super) fun l => { l with info := { l.info with mode := 2 }, enforced := true }).actsOn (second (named super)).handle = 2 := by decide +kernel
/-- Translations of device context 0, of a page and of all, and of another one, and the host's. -/
def translated (s : State) : State :=
  { s with tlb := [{ part := 0, dc := 0, page := 0, leaf := 0x1D13F, level := 4 }, { part := 1, dc := 9, page := 0, leaf := 1, level := 0 }],
           host := [{ part := 0, pasid := 0, page := 0, hpa := 0, r := true, w := true, x := true, level := 0 }] }
def remoteFrom (s : State) : State := { remoteOut s with remote := [elem0] }
theorem witness_tlbinv : super.partOf super.th.handle = some 0 ∧
    ((([translated super, remoteFrom (translated super)]).all fun s => decide ((([Instr.tlbinv, .tlbinvP 1, .tlbinvPv 1 2]).all fun i => decide (
      isFree i s = true ∧ isFree i (waiting s (.tlbinv (some 5)) i) = true ∧ isFree i (withG s [(1, 0x100000)]) = true)) = true)) = true) ∧
    (translated super).ownPending = false ∧ (remoteFrom super).ownPending = true ∧
    (translated super).servedBefore [0] 5 = false ∧ ({ remoteFrom super with remote := [{ elem0 with handle := 7 }] } : State).servedBefore [0] 5 = true ∧
    ((translated super).dctxsOf 0 (some 0)).length = 1 := by decide +kernel

/-! ### Witnesses: threads that move, proxies, convoys -/

def moving (s : State) : State := withTh s fun t => { t with place := .transit }
/-- A control thread that stands at VADD v0, v0, v0. -/
def atVector : State := withBytes user 0 [0, 0, 0, 0x88]
/-- Its module has vector cores in one pod of die 0 alone. -/
def onePod (s : State) : State :=
  { withLaunch s fun l => { l with info := { l.info with affin := 1 } } with
    mod := { s.mod with pods := s.mod.pods.set 0 1 } }
/-- A thread that fills the vector core c. -/
def filler (s : State) (c : Nat) : Thread := { s.th with handle := BitVec.ofNat 32 (c + 2), place := .resident, core := BitVec.ofNat 13 c, lgG0 := 11, lanes := 0xFF }
def packed (s : State) : State := { onePod s with others := (List.range 16).map (filler s) }
def withOther (s : State) (f : Thread → Thread) : State := { mate s false with others := (mate s false).others.map f }
def lined (s : State) : State :=
  let s1 := withTh (withTh s fun t => { t with place := .fifo .va }) fun t => { t with areaHead := t.header.take 64 }
  withBytes s1 (192 * 2 ^ 21) (s1.th.header.take 64)

theorem witness_thread_moves : (moving user).th.place = .transit ∧ user.th.place = .resident ∧ user.fifoPick user.th = none ∧
    (lined (onePod atVector)).fifoPick (lined (onePod atVector)).th = some 0 ∧ (lined (onePod atVector)).firstWaiter (lined (onePod atVector)).th 0 = true ∧
    ((lined (onePod atVector)).restoreArea user.th.handle (coreClass 0)).2 = true ∧ (lined (onePod atVector)).fifoMay (lined (onePod atVector)).th 0 = true ∧ (lined atVector).th.held = false ∧ user.boundary = true ∧
    (lined user).boundary = false ∧ (lined (onePod atVector)).schedMay (lined (onePod atVector)).th 1 = true ∧
    (withOther (onePod user) fun t => { t with place := .fifo .va }).fifoServable = true ∧ (onePod user).fifoServable = false ∧
    ((moving user).readSave (moving user).th.handle (moving user).th.lastClass (moving user).th.cls).2 = true := by decide +kernel
theorem witness_altered_area : (let s := withBytes (withTh (moving ten) fun t => { t with lastClass := .control }) (192 * 2 ^ 21 + 53760 + 9) [1]
      (s.readSave s.th.handle s.th.lastClass s.th.cls).2 = false) := by decide +kernel
theorem witness_trap_migration : ((([onePod atVector, packed atVector, withArch atVector fun a => { a with migctl := 1 }]).all fun s => decide (
      s.boundary = true ∧ s.instrHere = some (.vadd 0 0 0 0 0) ∧ s.th.cls.implements (groupOf (.vadd 0 0 0 0 0)) = false ∧
      s.breakpoint (.vadd 0 0 0 0 0) = none ∧ s.actsOn s.th.handle ≠ 2 ∧ s.proxies (.vadd 0 0 0 0 0) = false ∧ s.th.runs = [] ∧
      s.th.transferStarted = false ∧ s.schedMay s.th 1 = true ∧ s.th.sup.level = false)) = true) ∧
    (onePod atVector).th.arch.migctl.getLsbD 0 = false ∧ (onePod atVector).anyCore atVector.th (fun c => c.implements .va) = true ∧
    (onePod atVector).nearest atVector.th (fun c => c.implements .va) = some 0 ∧
    (packed atVector).anyCore atVector.th (fun c => c.implements .va) = true ∧
    (packed atVector).nearest atVector.th (fun c => c.implements .va) = none := by decide +kernel
/-- A thread with a standing MIGH, and one at its anchor. -/
def asked (k : CoreClass) : State := withTh (onePod user) fun t => { t with migh := k }
def anchored : State := withTh user fun t => { t with arch := { t.arch with anchor := .control, mighold := 5 }, calm := 5 }
theorem witness_scheduler : user.wanted = .none ∧ (asked .control).wanted = .control ∧ (asked .control).wanted = (asked .control).th.cls ∧
    (asked .vector).wanted = .vector ∧ ((asked .vector).grantMove .vector).isSome = true ∧ user.actsOn user.th.handle = 0 ∧
    anchored.releaseDue = true ∧ anchored.schedMay anchored.th 4 = true ∧ anchored.actsOn anchored.th.handle = 0 ∧ user.releaseDue = false ∧
    user.th.arch.anchor = .none := by decide +kernel

/-- The thread waits for its proxy server at core 5, in arrival order behind the other thread when it came later. -/
def proxied (first : Bool) : State :=
  { waiting (mate user) (.proxy 5 (if first then 1 else 3)) (.xslot 0 1) with
    others := (mate user).others.map fun t => { t with wait := some { kind := .proxy 5 2, instr := .xslot 0 1 } } }
/-- A convoy of two whose last member has executed. -/
def passed (target : Option (BitVec 64)) : Convoy :=
  { head := 0, members := [(0, .nop), (4, .nop)], next := 2, saved := vec.th.arch, savedPoison := vec.th.poison, reads := [], written := [], sampled := []
    events := [], passing := some (target, false) }
def inConvoy (target : Option (BitVec 64)) : State := withTh vec fun t => { t with convoy := some (passed target), arch := { t.arch with pc := 4 } }
/-- A thread that waits, to stop at a slice watch. -/
def sliced : State := withTh (waiting user .signal .nop) fun t => { t with sliceStop := some (3, 400, 0) }
theorem witness_proxies : (proxied true).servedNext 5 = true ∧ (proxied false).servedNext 5 = false ∧
    (proxied true).th.wait = some { kind := .proxy 5 1, instr := .xslot 0 1 } ∧
    (waiting user (.served 5) (.xslot 0 1)).th.wait = some { kind := .served 5, instr := .xslot 0 1 } := by decide +kernel
theorem witness_convoys : (([none, some (64 : BitVec 64)]).all fun a => decide (((inConvoy a).th.convoy.map fun c => (c.passing, c.events)) = some (some (a, false), []) ∧ (passed a).passing = some (a, false) ∧
    (passed a).events = [] ∧ (inConvoy a).th.dbg.dctl.getLsbD 6 = false ∧ (inConvoy a).th.arch.loops = [] ∧ user.th.convoy = none)) = true := by decide +kernel
theorem witness_slice_stop : sliced.th.sliceStop = some (3, 400, 0) ∧ sliced.sliceStopNow = true ∧ sliced.atStop.isSome = true ∧
    (sliced.atStop.map fun s => s.th.sup.tip) = some false ∧ user.sliceStopNow = false := by decide +kernel

/-! ### Witnesses: block transfers -/

/-- An address of a page that the host translates. -/
def atsVa : BitVec 64 := 12 * 2 ^ 40 * 9 / 8
/-- The second 12 TiB are an ATS page. -/
def hosted (s : State) : State := withBytes s 65544 (leBytes 8 0x1E23F)
/-- A copy, or an operation, of n bytes. -/
def move (op n : Nat) (src dst : BitVec 64) : Transfer :=
  { w0 := BitVec.ofNat 64 (op + n * 2 ^ 32), w1 := src, w2 := dst, w3 := 4096, vrotS := 0, vrotD := 0, control := false, stamp := 0, event := none, started := true
    engine := 0, done := 0, ended := none, faddr := 0, held := false, waitPage := none, olds := [] }
def busyWith (x : Transfer) : State := withTh (hosted user) fun t => { t with bxq := [x] }
/-- Whether a source can be read, or what fails. -/
def sourceOf (s : State) (x : Transfer) : Option (Option (BitVec 8)) :=
  match s.myDctx with
  | some d => (match s.transferSource d s.th x x.part with
    | .ok _ => some none
    | .error (.fail r _ _ _ _) => some (some r)
    | .error _ => none)
  | none => none
/-- Whether a destination can be written (some true), or its page is asked for (some false). -/
def destOf (s : State) (x : Transfer) : Option Bool :=
  match s.myDctx with
  | some d => (match s.translate d (s.engineAccess s.th false true) (x.w2 + BitVec.ofNat 64 x.done) x.part with
    | .ok _ => some true
    | .error (.page ..) => some false
    | .error _ => none)
  | none => none
/-- A ring of 16 at 4096 with a write index. -/
def ringAt (s : State) (wr : Nat) : State := withBytes s 4096 (leBytes 8 8192 ++ leBytes 8 4 ++ leBytes 8 wr)
def postsOf (s : State) (desc : BitVec 64) (bs : List (BitVec 8)) : Option Bool :=
  match s.myDctx with
  | some d => (match s.postRing d desc 1 fun _ => bs with
    | .posted _ => some true
    | .full => some false
    | _ => none)
  | none => none
theorem witness_engine_start : ((([(move 0 100 384 1000, 0), (move 0 0 384 1000, 0), (move 2 100 384 1000, 0x10)]).all fun e => decide (
      let x := { e.1 with started := false }
      (busyWith x).th.bxq = [x] ∧ (busyWith x).myDctx.isSome = true ∧ (busyWith x).transferCode (busyWith x).th.handle x = e.2)) = true) ∧
    user.th.place = .resident := by decide +kernel
theorem witness_engine_pages : (([(move 0 100 384 1000, none, some true), (move 1 100 384 1000, none, some true),
      (move 0 100 hole 1000, some (0x03 : BitVec 8), some true), (move 0 100 384 atsVa, none, some false)]).all fun e => decide (
    (e.1.dkind, e.1.overlaps, (busyWith e.1).th.bxq) = (0, false, [e.1]) ∧ (sourceOf (busyWith e.1) e.1 = some e.2.1) ∧
    (destOf (busyWith e.1) e.1 = e.2.2) ∧ ((busyWith e.1).myDctx.map fun d => d.pageAsked e.1.waitPage) = some false)) = true := by decide +kernel
theorem witness_engine_records : (([(0, true), (15, true), (16, false)]).all fun e => decide (
    let x := { move 0 100 384 1000 with ended := some (0, 0) }
    postsOf (ringAt (busyWith x) e.1) x.w3 (x.record 0 0 false 0) = some e.2)) = true := by decide +kernel
theorem witness_engine_record_thread : (match (ringAt user 0).myDctx with
    | some d => (match (ringAt user 0).postRing d 4096 1 fun _ => List.replicate 32 1 with
      | .posted t => decide (t.th = user.th)
      | _ => false)
    | none => false) = true := by decide +kernel

/-! ### Witnesses: coherence -/

def lineOf (st : BitVec 2) (own : AgentId) (shr : BitVec 10) (trans : Transient := .stable) (cached : Bool := true) : DirLine :=
  { line := 2, st := st, own := own, shr := shr, trans := trans, queue := [], cached := cached }
/-- The fabric with a line, what agent 3 holds of it, and messages on their way. -/
def linked (d : DirLine) (held : Option AgentState := none) (down : List HomeMsg := []) (up : List AgentMsg := []) : State :=
  { user with
    ev := .line 2 3
    fab := { dir := [d], toDie := down.map fun m => (3, 2, m), toHub := up.map fun m => (3, 2, m)
             agents := match held with
               | some st => [{ line := 2, agent := 3, state := st, firn := false, valid := 0, dirty := 0, age := 0, way := 0 }]
               | none => [] } }
theorem witness_directory : sharers 0x009 3 = [0] ∧ sharers 0x008 3 = [] ∧ (9 : AgentId).toNat < 10 ∧ (lineOf 0 0 0).st = 0 ∧ (lineOf 1 0 9).st = 1 ∧
    (lineOf 2 3 0).own = 3 ∧ (lineOf 3 2 9).own ≠ 3 ∧ (lineOf 3 2 9).shr.getLsbD 3 = true ∧ (lineOf 3 3 9).st = 3 := by decide +kernel
theorem witness_home : (linked (lineOf 0 0 0)).homeDie (192 * 2) = some 0 ∧ (3 : AgentId).toNat < 10 ∧
    ((([(none, AgentState.i), (some AgentState.s, .s), (some .o, .o)]).all fun e => decide ((linked (lineOf 1 0 9) e.1).fab.agentState 2 3 = e.2 ∧
      (linked (lineOf 1 0 9) e.1).fab.channelFree 3 = true)) = true) ∧ (linked (lineOf 0 0 0)).lineCached 2 = true ∧ (9 : AgentId).toNat < 10 ∧
    ((linked (lineOf 1 0 9)).fab.dirLine 2 = lineOf 1 0 9) ∧ ((linked (lineOf 0 0 0 .stable false)).fab.dirLine 2).cached = false ∧
    ((([Request.putM, .putO, .putE]).all fun q => decide ((linked (lineOf 2 3 0) none [] [.put q]).fab.nextToHub 3 = some (2, .put q) ∧
      (linked (lineOf 2 3 0)).fab.nextToHub 3 ≠ some (2, .put q))) = true) := by decide +kernel
theorem witness_home_answers : ((([(8 : BitVec 10), 9]).all fun m => decide ((linked (lineOf 1 0 m (.acks 1 m true)) none [] [.invAck]).fab.nextToHub 3 = some (2, .invAck) ∧
      ((linked (lineOf 1 0 m (.acks 1 m true))).fab.dirLine 2).trans = .acks 1 m true)) = true) ∧
    (8 : BitVec 10) &&& ~~~((1 : BitVec 10) <<< (3 : AgentId).toNat) = 0 ∧ (9 : BitVec 10) &&& ~~~((1 : BitVec 10) <<< (3 : AgentId).toNat) ≠ 0 ∧
    (linked (lineOf 2 3 0 (.bS 1)) none [] [.fwdReply .o]).fab.nextToHub 3 = some (2, .fwdReply .o) ∧
    ((linked (lineOf 2 3 0 (.bM 1 0 false))).fab.dirLine 2).trans = .bM 1 0 false ∧ ((linked (lineOf 0 0 0 .fill)).fab.dirLine 2).trans = .fill ∧
    (lineOf 0 0 0).trans ≠ .fill := by decide +kernel
theorem witness_agents : ((([HomeMsg.inv, .fwdGetS, .fwdGetM, .dataS, .dataE, .dataM, .upgAck, .putAck]).all fun m => decide (
      (linked (lineOf 1 0 9) none [m]).fab.nextToDie 3 = some (2, m) ∧ (linked (lineOf 1 0 9)).fab.nextToDie 3 ≠ some (2, m))) = true) ∧
    ((([AgentState.s, .e, .m, .o, .isD, .imD, .smA, .miA]).all fun st => decide ((linked (lineOf 1 0 9) (some st) [.inv]).fab.agentState 2 3 = st)) = true) ∧
    ((([AgentState.s, .m, .o]).all fun st => decide (((linked (lineOf 1 0 9) (some st)).fab.agentLine 2 3).map (·.state) = some st)) = true) ∧
    ({ linked (lineOf 1 0 9) (some .s) with ev := .evict 2 3 false } : State).ev = .evict 2 3 false := by decide +kernel

/-! ### Witnesses: the host's answers -/

def struck (s : State) (e : Operands) : State := { s with ev := e }
def withPages (s : State) (ps : List PageRequest) : State := withDctx s fun d => { d with pages := ps }
def asks (write fetch failed : Bool) : PageRequest :=
  { page := 5, pri := true, asked := 0, device := false, write := write, fetch := fetch, failed := failed }
theorem witness_host_pages : (struck user (.page 0 20500 0 true false false)).ev = .page 0 20500 0 true false false ∧ user.dctx? 0 = user.myDctx ∧
    user.myDctx.isSome = true ∧ (5 : BitVec 64).toNat = (20500 : BitVec 64).toNat / 4096 ∧
    ((([asks false false false, asks true false false, asks false true false]).all fun q => decide (
      ((withPages user [q]).dctx? 0).map (·.pages) = some [q] ∧ (if q.write then true else if q.fetch then true else true) = true)) = true) ∧
    (asks true false true).failed = true ∧
    (((withPages user [asks true false false]).dctx? 0).map fun d => (withPages user [asks true false false]).outstanding d (asks true false false)) = some true ∧
    (((withPages user [asks true false true]).dctx? 0).map fun d => (withPages user [asks true false true]).outstanding d (asks true false true)) = some false ∧
    user.pageUsers 0 5 = 0 ∧ (waiting user (.page 20500 false false) .nop).pageUsers 0 5 = 1 := by decide +kernel
theorem witness_invalidations : ((([translated user, remoteFrom (translated user)]).all fun s => decide ((([Operands.pages 0 0 1, .invalidate 0 none, .invalidate 0 (some 7)]).all fun e => decide (
      (struck s e).ev = e)) = true)) = true) ∧ (((translated user).dctxsOf 0 (some 0)).map (·.id)) = [0] := by decide +kernel

/-! ### Witnesses: waiting records, rings, launches -/

def faultAt (k : BitVec 8) : FaultRecord := FaultRecord.plain k 0x05 0x30 user.th.handle 0
/-- A fault record waits for a ring of 16 at 4096 that holds n records. -/
def faulty (n : Nat) (k : BitVec 8) : State := withDctx (ringAt user n) fun d => { d with fqdesc := 4096, fqWait := [faultAt k] }
def faultPosts (s : State) (r : FaultRecord) : Option Bool :=
  match s.myDctx with
  | some d => (match s.postFault d r with
    | .posted t => if (t.dctx? 0).map (·.fqWait) = (s.dctx? 0).map (·.fqWait) then some true else none
    | .full => some false
    | _ => none)
  | none => none
/-- A moraine ring of 16 that holds n records. -/
def moraineRing (n : Nat) : State := withDctx (ringAt user n) fun d => { d with mrdesc := 4096 }
def roomFor (s : State) : Option Bool := s.myDctx.map fun d => s.moraineRoom d 1
theorem witness_fault_posts : ((([(0, (0x01 : BitVec 8), true), (15, 0x06, true), (16, 0x01, false)]).all fun e => decide (
      (((faulty e.1 e.2.1).dctx? 0).map (·.fqWait)) = some [faultAt e.2.1] ∧ faultPosts (faulty e.1 e.2.1) (faultAt e.2.1) = some e.2.2)) = true) ∧
    ((user.dctx? 0).map fun d => (d.fqWait, d.heldItems)) = some ([], []) ∧ roomFor (moraineRing 15) = some true ∧
    roomFor (moraineRing 16) = some false ∧ (user.threads.all fun t => t.moraineDebt.isEmpty) = true ∧
    (waiting user .replay .nop).th.wait = some { kind := .replay, instr := .nop } ∧
    (waiting user .replay .nop).replayNext = true ∧ user.th.wait = none := by decide +kernel

def header0 : Ring :=
  { base := 8192, lg := 4, prio := 0, enabled := true, quantum := 1, headw := 4096, head := 0, tail := 1, errors := 0, deficit := 0, atHead := none }
/-- A packet of a kind with a target at the head of ring 0. -/
def packet (kind : BitVec 8) (target : Nat) (version : BitVec 8 := 1) : State :=
  struck (withBytes (withDctx user fun d => { d with rings := [header0] }) 8192 ([kind, version, 0, 0, 0, 0, 0, 0] ++ leBytes 8 target)) (.ring 0 0)
/-- What stands at the head of ring 0. -/
def head0 (s : State) : Option (List (BitVec 8)) :=
  match s.myDctx with
  | some d => (match s.packetAt d 0 with
    | .ok x => x
    | .error _ => none)
  | none => none
/-- A launch header at 12288 and a floe image at 16384, of one control thread. -/
def withImage (s : State) (affin : Nat := 0x3FF) : State :=
  let put (a : State) (x : Nat × Nat × Nat) : State := withBytes a x.1 (leBytes x.2.1 x.2.2)
  [(12288, 2, 1), (12288 + 8, 8, 16384), (12288 + 0x38, 8, 192 * 2 ^ 20), (12288 + 0x40, 8, 4096), (12288 + 0x48, 8, 192 * 2 ^ 21),
   (12288 + 0x50, 8, 58176), (12288 + 0x58, 2, affin), (16384, 4, 0x454F4C46), (16384 + 4, 2, 1), (16384 + 0xC, 1, 1), (16384 + 0xE, 1, 7),
   (16384 + 0xF, 1, 11), (16384 + 0x11, 1, 1), (16384 + 0x24, 4, 96), (16384 + 0x30, 4, 104), (16384 + 0x34, 2, 1), (16384 + 0x36, 2, 1),
   (16384 + 0x38, 4, 120), (16384 + 0x3C, 4, 144), (16384 + 96, 4, 1), (16384 + 100, 1, 1), (16384 + 120 + 4, 4, 64), (16384 + 120 + 12, 4, 4)].foldl put s
/-- The threads and late code of the launch that a header describes, or its refusal. -/
def described (s : State) (a : BitVec 64) : Option (Nat × BitVec 8 × Bool) :=
  match s.myDctx with
  | some d => (match s.describe d a with
    | .ok (info, _, n, late) => some (n, late, info.deps.isEmpty)
    | .error (.refuse code none) => some (0, code, false)
    | .error _ => none)
  | none => none
theorem witness_packets : ((([((0 : BitVec 8), (1 : BitVec 8)), (2, 1), (1, 1), (3, 1), (0, 0)]).all fun e => decide (
      ((packet e.1 12288 e.2).takeTurn 0 0).isSome = true ∧ (head0 (packet e.1 12288 e.2)).map (fun bs => (packetKind bs, packetBad bs)) =
        some (e.1.toNat, decide (e.1 = 3) || decide (e.2 = 0)))) = true) ∧
    (head0 (struck user (.ring 0 0))) = none ∧ (packet 1 12288).freeLaunchSlot 0 = some 1 := by decide +kernel
theorem witness_launch_packets : described (withImage (packet 1 12288)) 12288 = some (1, 0, true) ∧
    described (withImage (packet 1 12288) 0) 12288 = some (0, 0x0A, false) := by decide +kernel
def fullSlots : State :=
  let s := packet 1 12288
  { s with launches := (List.range 32).map fun k => { loadLaunch .control with slot := BitVec.ofNat 5 k } }
/-- A ring of higher priority that is ready takes the turn from ring 0. -/
def behind : State := withDctx (packet 0 0) fun d => { d with rings := [header0, { header0 with prio := 3 }] }
theorem witness_packet_waits : fullSlots.freeLaunchSlot 0 = none ∧ (behind.takeTurn 0 0).isSome = false ∧ (head0 behind).isSome = true ∧
    (packet 0 0).ev = .ring 0 0 ∧ ((packet 0 0).myDctx.bind fun d => d.rings[0]?) = some header0 ∧
    (struck (packet 0 0) (.kick 0 0 17)).ev = .kick 0 0 17 ∧
    ((packet 0 0).myDctx.map fun d => ((packet 0 0).deviceSpans d 4096 8 false).isOk) = some true := by decide +kernel

def launchAt (st : LaunchState) (deps : List (BitVec 64 × BitVec 64) := []) : State :=
  struck (withDctx (withLaunch user fun l => { l with state := st, started := none, info := { l.info with deps := deps } }) fun d =>
    { d with rings := [{ header0 with atHead := some 0 }] }) (.launch 0 0)
/-- Of an admitting launch: whether it may be admitted, its turn has come, and the code it is bound with. -/
def bindsWith (s : State) : Option (Bool × Option (BitVec 8)) :=
  match s.dctx? 0, s.launch? 0 0 with
  | some d, some l => some (s.mayAdmit d l, (s.takeTurn 0 l.ring).bind fun a => match a.bindLaunch d (l.sampled d) with
    | .ok (_, code) => some code
    | .error _ => none)
  | _, _ => none
def overAt (s : State) : Option Bool := (s.launch? 0 0).map s.launchOver
/-- The thread of a launch has ended. -/
def endedLaunch (cring : BitVec 64) : State :=
  struck (ringAt (withTh (withLaunch user fun l => { l with cring := cring }) fun t => { t with place := .ended }) 0) (.launch 0 0)
theorem witness_admission : bindsWith (launchAt .admitting) = some (true, some 0) ∧ bindsWith (launchAt .waiting) = some (false, none) ∧
    bindsWith (withLaunch (launchAt .admitting) fun l => { l with refusal := 0x0B }) = some (true, some 0x0B) ∧
    ((launchAt .waiting [(400, 3)]).launch? 0 0).map (fun l => (l.state, l.info.deps)) = some (.waiting, [(400, 3)]) ∧
    ((([2, 3]).all fun n => decide (((withBytes (launchAt .waiting [(400, 3)]) 400 [n]).myDctx.map fun d =>
      match (withBytes (launchAt .waiting [(400, 3)]) 400 [n]).deviceRead d 400 8 with
      | .ok (bs, _) => leNat bs
      | .error _ => 0) = some n.toNat)) = true) := by decide +kernel
theorem witness_completion : overAt (endedLaunch 0) = some true ∧ overAt user = some false ∧
    ((endedLaunch 4096).launch? 0 0).map (fun l => (l.cring, l.csig)) = some (4096, 0) ∧
    postsOf (endedLaunch 4096) 4096 (launchRecord 0 0 0 0 0 false 1 0 0) = some true := by decide +kernel
/-- A gang that waits. -/
def gangWaits : State :=
  struck (withTh (withLaunch user fun l => { l with waiting := [0], resident := [], started := some 0 }) fun t => { t with place := .unstarted }) (.gang 0 0 0)
def gangGoes (s : State) : Option (List Nat × Bool × Option Nat) :=
  (s.launch? 0 0).map fun l => (s.gangNeeds l 0, s.isHere 0 l 0, (s.mayDispatch l 0).map (·.1))
theorem witness_gangs : gangGoes gangWaits = some ([0], true, some 4608) ∧ gangGoes (onePod gangWaits) = some ([0], true, none) ∧
    ((gangWaits.launch? 0 0).map fun l => (l.waiting.contains 0, l.started.isSome)) = some (true, true) ∧
    (struck user (.meter 0 5 100)).ev = .meter 0 5 100 := by decide +kernel

/-! ### Witnesses: errors, resets, other packages -/

theorem witness_errors : user.th.exists = true ∧ user.th.handle = 0 ∧ user.spokePart 0 = some 0 ∧ user.spokePart 9 = none ∧
    (struck user (.ecc (.gReg 0 31) false)).ev = .ecc (.gReg 0 31) false ∧ (struck user (.die 8)).ev = .die 8 ∧ (0 : DieId) ≠ 8 ∧
    (struck user (.part 3)).ev = .part 3 ∧ (user.part 3).resetting = none ∧ (user.part 3).resetAsked = none ∧ user.inTransit 3 = false ∧
    (moving user).inTransit 0 = true ∧ user.areaAt (48 * 20) = none ∧ (user.part 0).abortRing = none ∧
    ((user.modPart 0 fun p => { p with abortRing := some 96 }).part 0).abortRing.isSome = true ∧
    (struck user (.reset 3 0x04)).ev = .reset 3 0x04 := by decide +kernel
def stopAsked (lcc : Nat) : State :=
  { withTh (user.modPart 0 fun p => { p with resetting := some (4, 0) }) fun t => { t with stopAsked := some 5 } with lcc := lcc, ev := .part 0 }
theorem witness_watchdog : (stopAsked 0).th.stopAsked = some 5 ∧ (stopAsked 0).partOf (stopAsked 0).th.handle = some 0 ∧ ((stopAsked 0).part 0).resetting = some (4, 0) ∧
    5 + 4400000 ≤ (stopAsked 4400005).lcc ∧ (stopAsked 4400004).lcc < 5 + 4400000 := by decide +kernel
def delivery (kind : RemoteKind) (dc : DctxId) : RemoteDelivery :=
  { port := 1, dc := dc, kind := kind, addr := 400, bytes := 8, op := 0, fmt := 3, value := 5, tag := 0, source := 0, number := 77 }
def ported : State := user.modPart 0 fun p => { p with ports := 2 }
theorem witness_deliveries : (((allParts).all fun p => decide ((user.part p).ports.getLsbD 1 = false)) = true) ∧ allParts.find? (fun p => (ported.part p).ports.getLsbD 1) = some 0 ∧
    allParts = [0, 1, 2, 3] ∧
    ported.dctx? 5 = none ∧ (ported.dctx? 0).map (fun d => (d.part, (ported.translate d (deviceAccess false true) 400 8).isOk)) = some (0, true) := by
  decide +kernel
theorem witness_delivery_other : ((withDctx ported fun d => { d with part := 1 }).dctx? 0).map (·.part) = some 1 := by decide +kernel
def away (lcc : Nat) : State := { user with remote := [{ elem0 with home := 15, left := 1 }], lcc := lcc, ev := .index 0 }
theorem witness_away : (((away 0).awayAt 0).map (·.left)) = some 1 ∧ (user.awayAt 0).isSome = false ∧ 1 + 440000000 ≤ (away 440000001).lcc ∧
    (away 440000000).lcc < 1 + 440000000 := by decide +kernel

/-! ### Witnesses: registers and the controller -/

def unready (s : State) : State := { s with mod := { s.mod with ready := false } }
def mailbox (off : Nat) (v : BitVec 64) (go : Bool := false) : State :=
  { struck user (.mmio (BitVec.ofNat 26 off) v) with mod := { user.mod with mbGo := go, mbData := List.replicate 4096 0 } }
theorem witness_registers : user.mod.ready = true ∧ (unready user).mod.ready = false ∧ 4671 % 2 ^ 13 < 4672 ∧
    (struck user (.value 4671)).ev = .value 4671 ∧ (mailbox 0x301000 5).mod.mbData.length = 4096 ∧
    ¬(0x30_1000 ≤ 0x30_1FFC ∧ 0x30_1FFC + 8 ≤ 0x30_2000 ∧ 0x30_1FFC % 8 = 0) ∧ 0x30_1000 + 8 * 511 = 0x30_1FF8 := by decide +kernel
theorem witness_mailbox : ((([(0x1_0000_0001, true), (0x1_1000_0001, true), (0x1_1001_0010, true), (0x1_0000_00FF, false)]).all fun e => decide (
      (e.1 : Nat).testBit 32 = true ∧ mailboxOps.contains (e.1 % 2 ^ 16) = e.2)) = true) ∧ 4096 < 0x1_1001_0010 / 2 ^ 16 % 2 ^ 16 ∧
    0x1_1000_0001 / 2 ^ 16 % 2 ^ 16 ≤ 4096 ∧ (mailbox 0x300000 0).mod.mbRun = none ∧ (mailbox 0x300000 0).mod.mbQueue = [] ∧
    ({ user with mod := { user.mod with mbRun := some { i3c := false, op := 1 } } } : State).mod.mbRun.isSome = true := by decide +kernel

def underReset (s : State) (p : PartId) : State := s.modPart p fun x => { x with resetting := some (1, 0) }
theorem witness_partitions : (((allParts).all fun p => decide (user.busy p = false ∧ (underReset user p).busy p = true)) = true) ∧
    ((allParts.filter fun q => decide (q ≠ 1)).map fun q => (user.part q).channels) = [0, 0, 0] ∧
    (((allParts).all fun q => decide (q ≠ 0 → (user.part q).spokes &&& 0x0FF = 0 ∧ (user.part q).windows &&& 0xFFFF = 0 ∧ (user.part q).ports &&& 0xFF = 0)) = true) ∧
    (0x0FF : BitVec 10) &&& 0x300 = 0 ∧ ((allParts.filter fun q => decide (q ≠ 1)).map fun q => (user.part q).budget) = [0, 0, 0] ∧
    (user.modPart 2 fun p => { p with budget := 1 }).busy 1 = false ∧ user.holdings 1 = [(0, 0, 0, 0)] ∧ user.inTransit 0 = false ∧
    (moving user).inTransit 0 = true ∧ (96 : BitVec 64).toNat % 48 = 0 ∧ (97 : BitVec 64).toNat % 48 ≠ 0 := by decide +kernel
/-- A device context's descriptor at 19200, its tables at 131072 (the first 12 TiB for the supervisor, the same bytes at the second for all), and a supervisor image with an entry at 196608. -/
def dctxAt (version : Nat) : State :=
  let put (a : State) (x : Nat × Nat × Nat) : State := withBytes a x.1 (leBytes x.2.1 x.2.2)
  let s := user.modPart 0 fun p => { p with images := [{ base := 196608, bytes := 96, svn := 1, entries := [196608], texts := [(196608, 4)] }] }
  struck ([(19200, 2, version), (19200 + 0x10, 8, 131072), (19200 + 0x18, 8, 196608), (19200 + 0x20, 8, 96), (19200 + 0x30, 4, 10), (19200 + 0x38, 8, 8192), (19200 + 0x40, 8, 13194139533312 + 4096),
    (131072, 8, 0x1E01F), (131080, 8, 0x1E03F), (4096, 2, 1)].foldl put s) (.create 5 0 19200)
/-- What creation finds: an installed, unpoisoned, free place; a sound descriptor and entry; and a capability block it can read. -/
def created (s : State) : Bool × Bool × Bool × Bool × Bool × Bool :=
  let b := readCells s.mem 19200 96
  let d := dctxOf 5 0 b
  (s.installed 0 19200 && (poisonedSector s.poison 19200 96).isNone, (s.dctx? 5).isNone, descriptorSound b, s.sentrySound d,
    (match s.deviceRead d d.capblk 64 with
     | .ok (cap, _) => decide (fieldAt cap 0 2 ≠ 0)
     | .error _ => false), (s.deviceSpans d (d.capblk + 32) 32 false).isOk)
theorem witness_creation : created (dctxAt 1) = (true, true, true, true, true, true) ∧ (created (dctxAt 2)).2.2.1 = false ∧
    (user.dctx? 0).isSome = true ∧ (19200 : BitVec 64).toNat % 192 = 0 ∧ user.busy 0 = false := by decide +kernel
theorem witness_contexts : user.dctx? 7 = none ∧ (user.launches.map (·.dc)) = [0] ∧ ({ user with launches := [] } : State).launches = [] ∧
    (user.myDctx.map fun d => (user.deviceRead d (d.ringTable + BitVec.ofNat 64 (32 * 63)) 32).isOk) = some true ∧
    user.live 0xFFFF_FFFF = false ∧ user.live 0 = true := by decide +kernel

/-! ### Witnesses: module commands -/

def cxl (n : Nat) : State := { user with mod := { user.mod with cxlPort := user.mod.cxlPort.set 1 (2 ^ 40), windows := Vector.replicate 16 none, heat := user.mod.heat.set 0 (if n = 0 then none else some n) } }
theorem witness_windows : (BitVec.ofNat 52 (cxlBase + (if cxlBase % (3 * 2 ^ 29) = 0 then 0 else 3 * 2 ^ 29 - cxlBase % (3 * 2 ^ 29)))).toNat % (3 * 2 ^ 29) = 0 ∧
    0 + 3 * 2 ^ 29 ≤ (cxl 0).mod.cxlPort[1] ∧ (∀ i : Fin 16, (cxl 0).mod.windows[i] = none) ∧
    (((allParts).all fun p => decide (((cxl 0).part p).windows.getLsbD 15 = false)) = true) ∧ (cxl 0).busy 0 = false ∧ cxlBase < 2 ^ 52 - 3 * 2 ^ 30 := by decide +kernel
/-- The entry of an endpoint table for the package itself, valid or not, of n packages in a rack's. -/
def self (valid n : BitVec 8) : List (BitVec 8) := [valid, 0, 1, n] ++ Machine.zeros 20
theorem witness_endpoints : endpointsSound true [self 1 1] = true ∧ endpointsSound false (List.replicate 63 (self 0 0) ++ [self 1 0]) = true ∧
    endpointsSound true [self 1 1, self 1 1] = false ∧ endpointsSound true [self 1 65] = false ∧ endpointsSound false [self 2 0] = false ∧
    (endpointEntry true ([1, 3, 0, 2, 0, 0, 0, 0, 0xFE] ++ Machine.zeros 14 ++ [0x11])).address = 0xFE00_0000_0000_0000_0000_0000_0000_0011 ∧ (struck user (.sensor 38 1151)).ev = .sensor 38 1151 ∧ (38 : BitVec 6).toNat < 39 ∧ (9 : BitVec 6).toNat < 10 ∧
    (cxl 0).mod.heat[0] = none ∧ (cxl 3).mod.heat[0] = some 3 := by decide +kernel
/-- An image in the inactive slot, with an owner or without. -/
def slotted (owner : Option (BitVec 384)) : State :=
  { user with mod := { user.mod with owner := owner, fw := user.mod.fw.set (~~~user.mod.fwActive).toNat { image := some { bytes := [], version := 3, signature := [] }, verified := false } } }
theorem witness_firmware : (slotted none).mod.fw[(~~~(slotted none).mod.fwActive).toNat].image = some { bytes := [], version := 3, signature := [] } ∧
    user.mod.fw[(~~~user.mod.fwActive).toNat].image = none ∧ (slotted none).signed [] [] = false ∧ (slotted none).mod.owner = none ∧
    (slotted (some 0)).mod.owner = some 0 ∧ (slotted none).mod.fwFloor.toNat ≤ 3 ∧ user.mod.ready = true ∧ (unready user).mod.ready = false := by
  decide +kernel
/-- A supervisor image of 136 bytes with its trailer, at 19200. -/
def supervisorImage (magic : Nat) : State :=
  let put (a : State) (x : Nat × Nat × Nat) : State := withBytes a x.1 (leBytes x.2.1 x.2.2)
  struck ([(19200, 4, magic), (19200 + 4, 2, 1), (19200 + 0xC, 1, 1), (19200 + 0xD, 1, 1), (19200 + 0x30, 4, 96), (19200 + 0x34, 2, 1), (19200 + 0x36, 2, 1),
    (19200 + 0x38, 4, 112), (19200 + 0x3C, 4, 136 + 112), (19200 + 112 + 4, 4, 64), (19200 + 112 + 12, 4, 4), (19200 + 136, 4, 0x4E474953), (19200 + 140, 4, 7)].foldl put user)
    (.supervisor 0 0 19200 196608 248)
def supervisorParts (s : State) : Option (List Nat) × Nat × Nat × Bool × Bool :=
  let image := (readCells s.mem 19200 248).take 136
  let trailer := (readCells s.mem 19200 248).drop 136
  (supervisorEntries image, fieldAt image 0x3C 4, fieldAt trailer 0 4, zeroBytes (trailer.drop 104), supervisorSound image)
theorem witness_supervisor : supervisorParts (supervisorImage 0x454F4C46) = (some [0], 248, 0x4E474953, true, true) ∧
    ([19200, 19200 + 247, 196608, 196608 + 135].all fun a => user.installed 0 a) = true ∧ (poisonedSector user.poison 19200 248).isSome = false ∧
    (user.part 0).images = [] ∧ (supervisorImage 0x454F4C46).mod.owner = none ∧ user.busy 0 = false := by decide +kernel

/-! ### Witnesses: steps, decoding, invariants, frames -/

/-- `AtRest` as a computation. -/
def rests (s : State) : Bool :=
  let u := s.takeSlot
  s.owed.isNone && decide (s.candidates = []) && s.others.isEmpty && decide (s.th.place = .resident) && !s.frozen s.th && s.th.convoy.isNone &&
  (s.th.parked.isNone && !s.th.held && s.th.wait.isNone && !s.th.grant && !s.th.stepDue && s.th.due.isNone && s.th.halted.isNone) &&
  (!u.sliceDue && !u.interruptDue && !u.releaseDue && !u.moveDue) && !(u.instrHere.any u.awaitsTrap) && s.mayIssue
theorem rest_of {s : State} (h : rests s = true) : AtRest s := by
  simp only [rests, Bool.and_eq_true, Option.isNone_iff_eq_none, Bool.not_eq_true', decide_eq_true_eq, List.isEmpty_iff, and_assoc] at h
  obtain ⟨h1, h2, h3, h4, h5, h6, h7, h8, h9, h10, h11, h12, h13, h14, h15, h16, h17, h18, h19⟩ := h
  exact ⟨by simp [h1], h2, h3, h4, h5, h6, ⟨h7, h8, h9, h10, h11, h12, h13⟩, ⟨h14, h15, h16, h17⟩, h18, h19⟩
def fetched (s : State) : Option (BitVec 32) :=
  match s.takeSlot.fetchWord s.th.arch.pc with
  | .ok w => some w
  | .error _ => none
def decodesTo (w : BitVec 32) : Option Instr :=
  match decode w with
  | .ok i => some i
  | .error _ => none
def atPc (s : State) (pc : BitVec 64) : State := withArch s fun a => { a with pc := pc }
theorem witness_at_rest : AtRest user ∧ AtRest vec ∧ AtRest (atPc user 400) ∧ AtRest (atPc user 2) ∧ AtRest (atPc user hole) :=
  ⟨rest_of (by decide +kernel), rest_of (by decide +kernel), rest_of (by decide +kernel), rest_of (by decide +kernel), rest_of (by decide +kernel)⟩
theorem witness_fetch : (fetched user).bind decodesTo = some .nop ∧ user.takeSlot.convoys .nop = false ∧
    (fetched vec).bind decodesTo = some (.vadd 0 0 0 0 0) ∧ vec.takeSlot.convoys (.vadd 0 0 0 0 0) = true ∧
    fetched (atPc user 400) = some 0 ∧ (decodesTo 0).isNone = true ∧ fetched (atPc user hole) = none ∧ hole.toNat % 4 = 0 ∧
    (atPc user 2).th.arch.pc.toNat % 4 ≠ 0 := by decide +kernel
def member : State := withTh vec fun t => { t with convoy := some { passed none with next := 1, passing := none } }
theorem witness_member : member.owed.isNone = true ∧ member.candidates = [] ∧ member.others = [] ∧ member.th.place = .resident ∧
    (member.th.convoy.map fun c => (c.passing, c.members[c.next]?)) = some (none, some (4, .nop)) ∧ member.sliceDue = false ∧
    member.frozen member.th = false ∧ member.th.due = none ∧ member.th.halted = none ∧ member.mayIssue = true ∧
    member.th.parked = none ∧ member.th.held = false ∧ member.th.wait = none := by decide +kernel
theorem witness_agenda : ({ user with agenda := [.event .interrupt .none] } : State).nextPosting = none ∧
    ({ user with agenda := [.event .interrupt .none] } : State).agenda = .event .interrupt .none :: [] := by decide +kernel
theorem witness_encode : (Instr.vadd 3 1 2 1 1).wellFormed = true ∧ (encode (.vadd 3 1 2 1 1)).isSome = true := by decide +kernel
def aged : State := withTh user fun t => { t with readyAt := some 0 }
/-- `agesKept` as a computation. -/
def agesHold (s : State) : Bool :=
  s.threads.all fun t => (!t.ready || t.readyAt.isSome) && (t.readyAt.isNone || t.ready || t.wait.any fun w => w.kind.retries)
theorem witness_ages : agesHold State.reset = true ∧ agesHold aged = true ∧ agesHold (withTh (waiting aged .drain .nop) fun t => t) = true ∧
    after (step aged) (fun t => agesHold t) = true := by decide +kernel
theorem witness_canonical : ((([State.reset, user, withG (withBytes user 192 [1]) [(1, 192)]]).all fun s => Memory.wf s.mem) = true) ∧
    after (step user) (fun _ => true) = true ∧ after (exec (.st 2 1 3 0) (withG user [(1, 192), (2, 7)])) (fun t => Memory.wf t.mem && t.mem != user.mem) = true := by
  decide +kernel
/-- Free at a state, where it answers another. -/
def goes (i : Instr) (s : State) : Bool := isFree i s && after (exec i s) fun _ => true
/-- It answers a state in which no abandoned convoy has taken registers back. -/
def keeps (i : Instr) (s : State) : Bool := isFree i s && after (exec i s) fun t => s.th.convoy.isNone || t.th.convoy.isSome
theorem witness_integer_frame : ((registerForms 3 1 2 63 1 1).all fun i => decide (isFree i user = true ∧ after (exec i user) (fun _ => true) = true)) = true := by decide +kernel
theorem witness_branch_frame : ((((branchForms 1 2 16).map (·.1)).all fun i => decide (isFree i user = true ∧ after (exec i user) (fun _ => true) = true)) = true) ∧
    isFree (.jmp 31 3) user = true ∧ after (exec (.jmp 31 3) user) (fun _ => true) = true ∧ user.th.dbg.dctl.getLsbD 6 = false := by decide +kernel
theorem witness_store_frame : (([Instr.st 2 1 3 0, .stIndexed 2 1 3 0, .stq 2 1 3 0 0, .atom 2 1 0 0 0 3, .cas 2 1 0 0 3, .snowpub 2 1 0]).all fun i => decide (
    let s := withG super [(1, 192)]
    isFree i s = true ∧ s.th.convoy = none ∧ s.th.sup.level = true ∧ s.th.sup.tip = false ∧ after (exec i s) (fun _ => true) = true ∧
    passesC s 192 8 true true false = true)) = true := by decide +kernel
theorem witness_user_stores : (([Instr.st 2 1 3 0, .stIndexed 2 1 3 0, .stq 2 1 3 0 0, .atom 2 1 0 0 0 3, .cas 2 1 0 0 3, .snowpub 2 1 0]).all fun i =>
      let s := withG user [(1, 192)]
      keeps i s && !s.th.sup.tip && decide (s.actsOn s.th.handle ≠ 1) && decide (s.th.sup.level = false) &&
      (match s.checkC 192 8 true true true with
       | .ok sp => !onLPage sp
       | .error _ => false)) = true ∧
    goes (.jr 31 1 2) (withG user [(1, 2)]) = true ∧ (2 + (2 : BitVec 16).signExtend 64 : BitVec 64).toNat % 4 = 0 ∧
    ((([Instr.lp 1 2, .lpImmediate 1 2]).all fun i => goes i (withG user [(1, 2)])) = true) ∧ user.th.arch.loops.length < 6 := by decide +kernel
theorem witness_element_frame : (lanewiseForms 3 1 2 4 5 3 0 1 1).all (fun i => goes i vec) = true ∧
    (fpElementForms (formed 9 vec) 3 1 2 4 0 1).all (fun e => goes e.1 (formed 9 vec)) = true ∧ (formFmt (formed 9 vec).th.arch.vform).isSome = true ∧
    vec.th.poison.v = Vector.replicate 64 0 := by decide +kernel
theorem witness_scan_frame : (([Instr.vscan 3 1 0 0 1 0, .vred 3 1 0 1 0]).all fun i => goes i vec) = true ∧ (reduceOp vec.th.arch.vform vec.mode 0).isSome = true ∧
    (([Instr.vcmp 0 1 1 2 1 0, .plog 0 1 2 3 1 0]).all fun i => goes i vec) = true ∧ goes (.vfcmp 0 1 1 2 1 0) (formed 9 vec) = true ∧
    (floatForms 3 1 2 4 0 0 0 0 0).all (fun i => goes i vec) = true := by decide +kernel
theorem witness_vector_memory_frame : ((.vldseg 3 1 0x0D 3 0 :: (loadForms (one vec) 3 1 2 4 3 0 0 0).map (·.1)).all fun i => keeps i (one vec)) = true ∧
    ((.vstseg 3 1 0x0D 3 0 :: .vscadd 3 1 4 3 0 0 :: .vrdst 3 1 5 3 0 :: (storeForms (one vec) 3 1 2 4 3 0 0 0).map (·.1)).all fun i => keeps i (one vec)) = true ∧
    (one vec).th.sup.tip = false ∧ (one vec).actsOn (one vec).th.handle ≠ 1 := by decide +kernel
/-- Whether CWR of a register may write it. -/
def writable (s : State) (x : BitVec 12) : Bool := (match s.crWrite x.toNat (s.g 1) with
    | .ok _ => true
    | _ => false) && (crKind x.toNat).any fun k => decide (k ≠ .ro)
theorem witness_control_frame : (([(user, (0x011 : BitVec 12)), (vec, 0x011), (super, 0x801)]).all fun e =>
      writable e.1 e.2 && goes (.crd 3 e.2) e.1 && goes (.cwr 1 e.2) e.1 && goes (.cxg 3 1 e.2) e.1 &&
      (decide (e.2.toNat < 0x800) || e.1.th.sup.level)) = true ∧ ten.th.cls = .tensor ∧ savedCrs.contains 0x011 = false := by decide +kernel
theorem witness_tensor_frame : ((tileForms (tile ten) 0 1 4 5 7 2).map (·.1)).all (fun i => goes i (tile ten)) = true ∧ (tile ten).th.convoy = none ∧
    (tile ten).th.sup.tip = false ∧
    (([Instr.xsend 0 1 7, .xrecv 0 7, .xrecvS 0 7, .xwait 0 7, .xslot 0 1]).all fun i => goes i (withG (planned ten 8) [(1, win)])) = true ∧
    (planned ten 8).th.convoy = none ∧ (planned ten 8).th.sup.tip = false := by decide +kernel

/-! ### Witnesses: groups, coherence and moves -/

/-- Two packages of a node, one member in each, and a group of both whose chunks are n bytes long. -/
def grouped (n : BitVec 48) (s : State) : State :=
  let s1 := withLaunch s fun l => { l with threads := 2, info := { l.info with
    tree := [{ vl := false, fanout := 2, declared := some 1, bound := 5, domains := [] }, { vl := false, fanout := 1, declared := none, bound := 6, domains := [] }] } }
  let s2 := s1.modPart 0 fun p => { p with node := [{ valid := true, ports := 0, isSelf := true, packages := 1, address := 0 }, { valid := true, ports := 1, isSelf := false, packages := 1, address := 5 }] }
  withArch s2 fun a => { a with vcgroup := 1, vcstride := n }
/-- How many of an instruction's units this package serves, and how many others. -/
def splits (s : State) (i : Instr) : Nat × Nat :=
  let x := s.splitOwners (s.todo (s.units i))
  (x.1.length, x.2.length)
theorem witness_groups : (([Instr.vgath 3 1 4 3 0 0, .vscat 3 1 4 3 0 0]).all fun i => decide (
    let s := grouped 48 (one vec)
    let t := withG s [(1, 432)]
    s.th.arch.vcgroup.extractLsb' 0 5 ≠ 0 ∧ isFree i s = true ∧ (s.groupTrap i false).isNone = true ∧ splits s i = (1, 0) ∧ splits t i = (0, 1) ∧
    ((grouped 0 s).groupTrap i false).isSome = true ∧ ((grouped 49 s).groupTrap i false).isSome = true ∧ s.vl * s.w ≤ 2048 ∧
    reads s 0 (fun _ => 384) = true ∧ (storeUnits 1 (s.elemBytes 3) s (s.splitOwners (s.todo (s.units i))).1).2.2.isNone = true ∧
    s.anyOnL (s.splitOwners (s.todo (s.units i))).1 = false)) = true := by decide +kernel
theorem witness_grouped_updates : (([Instr.vscadd 3 1 4 3 0 0, .vrdst 3 1 5 3 0]).all fun i => decide (
    let s := grouped 48 (one vec)
    isFree i s = true ∧ (s.groupTrap i true).isNone = true ∧ ((grouped 0 s).groupTrap i true).isSome = true)) = true := by decide +kernel

/-- Agent 3 holds line 2 (the bytes from 384) in a state, or another line. -/
def heldBy (st : AgentState) (s : State) (line : Nat := 2) : State :=
  { s with fab := { s.fab with agents := [{ line := line, agent := 3, state := st, firn := false, valid := 0, dirty := 0, age := 0, way := 0 }] } }
/-- The wait of a store at 384. -/
def storeWaits (s : State) : Option (Option Nat) :=
  match s.checkC 384 256 false true true with
  | .error (.wait (.home l)) => some (some l)
  | .ok _ => some none
  | .error _ => none
theorem witness_lines : storeWaits saving = some none ∧ storeWaits (heldBy .m saving) = some (some 2) ∧
    (heldBy .m saving).missingLine [{ key := 384, len := 256, leaf := 0 }] = some 2 ∧ saving.missingLine [{ key := 384, len := 256, leaf := 0 }] = none := by
  decide +kernel
/-- The recording launch's sectors of the store on a log-all page, without room in its ring. -/
def savingLogged : State := withLaunch (logged saving) fun l => { l with info := { l.info with mode := 1 } }
theorem witness_tile_records : (match savingLogged.checkC 384 256 false true true with
    | .ok sp => decide (onLPage sp = true) && (match (savingLogged.setTransfer none).allowEvent (sectorItems savingLogged savingLogged sp 384 0) true with
      | .error (.wait k) => decide (k = .moraine)
      | _ => false)
    | .error _ => false) = true := by decide +kernel
theorem witness_transpose : (0 : Nat) < ([5] : List Nat).length ∧ tileWidth 2 = 8 ∧ tileWidth 4 = 4 := by decide

/-- The second thread has started on core 0x1200 and lies in its save area; the image goes to 192, or its source holds a poisoned sector. -/
def poisonedImage (q : Nat) : State := { imaged 11 with poison := [q] }
def poisonOf (s : State) : Option (List Nat) :=
  match s.readImageC 192 58176 with
  | .ok (_, bad, _) => some (bad.map (·.1))
  | .error _ => none
theorem witness_poisoned_image : poisonOf (poisonedImage 4) = some [0] ∧ poisonOf (poisonedImage 12) = some [384] := by decide +kernel
/-- A second thread that was resident at count 5 and is on its way, or stands on its core. -/
def underWay (moving : Bool) : State :=
  let s := both super 0x1200
  { waiting s (.migr (some 5)) (.migr 1 2) with others := s.others.map fun t => { t with place := if moving then .transit else .resident, since := 5 } }
theorem witness_migr_waits : isFree (.migr 1 2) (underWay true) = true ∧ (underWay true).th.wait = some { kind := .migr (some 5), instr := .migr 1 2 } ∧
    (((underWay true).thread? (((underWay true).g 1).setWidth 32)).any fun t => decide (t.place = .transit) && decide (t.since = 5)) = true ∧
    (((underWay false).thread? (((underWay false).g 1).setWidth 32)).any fun t => decide (t.place = .transit) && decide (t.since = 5)) = false ∧
    (named super).migrBegan = none := by decide +kernel
/-- A running target that another core of its class can take. -/
def movable : State := both super 0x1201
theorem witness_migr_moves : isFree (.migr 1 2) movable = true ∧ movable.migrBegan = none ∧ (second movable).held = false ∧ (second movable).place = .resident ∧
    (second movable).core.toNat ≠ 0x1201 ∧ movable.fits (second movable) 0x1201 = true ∧ movable.schedMay (second movable) 2 = true ∧
    movable.fifoServable = false ∧ ((movable.stopOther (second movable).handle).bind fun s => s.schedMigrateTo (second movable).handle 0x1201).isSome = true ∧
    movable.actsOn (second movable).handle ≠ 2 ∧ movable.couldHold (second movable) 0x1201 = true ∧ (second movable).arch.anchor = .none := by
  decide +kernel
theorem witness_link_down : (let s : State := { moving user with mod := { user.mod with linksDown := 2 } }
     s.partOf s.th.handle = some 0 ∧ s.mod.linksDown &&& (s.part 0).spokes ≠ 0 ∧ s.th.place = .transit) ∧
    user.mod.linksDown &&& (user.part 0).spokes = 0 ∧ user.partOf user.th.handle = some 0 := by decide +kernel
/-- A recording launch whose ring holds n records of 16. -/
def roomy (n : Nat) : State := withDctx (ringAt (withLaunch (onePod atVector) fun l => { l with info := { l.info with mode := 1 } }) n) fun d => { d with mrdesc := 4096 }
/-- The thread is on a round trip from the vector class that will anchor it. -/
def tripping (s : State) : State := withTh s fun t => { t with tripHome := .vector, trip := some 0, lastTrip := some 0, arch := { t.arch with mighold := 5 } }
theorem witness_move_stalls : (roomy 16).schedMay (roomy 16).th 1 = false ∧ (roomy 15).schedMay (roomy 15).th 1 = true ∧
    (roomy 15).nearest (roomy 15).th (fun c => c.implements .va) = some 0 ∧ (roomy 14).trapMay (tripping (roomy 14)).th .control 0 = true ∧
    (tripping (roomy 15)).trapMay (tripping (roomy 15)).th .control 0 = false ∧ (tripping (roomy 15)).schedMay (tripping (roomy 15)).th 1 = true ∧ (roomy 15).fifoServable = false ∧ user.moveStalls = false ∧
    (withTh (roomy 16) fun t => { t with migh := .vector }).moveStalls = true := by decide +kernel
/-- A copy from the first bytes of the névé window, made after the running TTRN of rows there. -/
def copying (stamp : Nat) : State :=
  let s := next (exec (.ttrn 0 4 5) (tile ten)) ten
  withTh s fun t => { t with bxq := [{ move 0 100 (192 * 2 ^ 32) 1000 with stamp := stamp }] }
theorem witness_tiles_first : ((copying 1000).myDctx.map fun d => (copying 1000).tilesFirst d ((copying 1000).th.bxq.headD request) 100) = some true ∧
    ((copying 0).myDctx.map fun d => (copying 0).tilesFirst d ((copying 0).th.bxq.headD request) 100) = some false := by decide +kernel

/-- Agent 3 has asked for line 2, at the last count or at this. -/
def asking (write : Bool) (at_ : Nat) (st : AgentState := .i) : State :=
  let s := heldBy st user
  { s with ev := .line 2 3, lcc := 1, fab := { s.fab with agents := if st = .i then [] else s.fab.agents, asks := [{ line := 2, agent := 3, write := write, at_ := at_ }] } }
theorem witness_requests : ((asking false 0).askRows.map (·.1)) = [.homeGets] ∧ ((asking true 0).askRows.map (·.1)) = [.homeGetm] ∧
    ((asking true 0 .s).askRows.map (·.1)) = [.homeUpg] ∧ (asking false 1).askRows = [] ∧
    (((asking false 0).askRows.map (·.2)).all fun x => decide (x ∈ (asking false 0).fab.asks)) = true ∧
    (user.fab.asks.all fun x => decide (x.line ≠ 2) || decide (x.agent ≠ 3)) = true ∧ user.fab.agentState 2 3 = .i ∧ user.lineCached 2 = true ∧
    (user.homeDie (192 * 2)).isSome = true := by decide +kernel
theorem witness_write_backs : ((([Transient.bS 1, .bM 1 0 false, .bM 1 4 false]).all fun t => decide (
      let s := linked (lineOf 2 3 0 t) none [] [.put .putM]
      s.fab.nextToHub 3 = some (2, .put .putM) ∧ (s.fab.dirLine 2).cached = true ∧ (s.fab.dirLine 2).queue = [] ∧ (s.fab.dirLine 2).own = 3 ∧
      (s.fab.dirLine 2).trans = t)) = true) ∧
    ((([AgentState.o, .s, .i]).all fun st => decide ((linked (lineOf 2 3 0 (.bS 1)) none [] [.fwdReply st]).fab.nextToHub 3 = some (2, .fwdReply st))) = true) := by
  decide +kernel
theorem witness_upgrades : sharers 0x008 3 = [] ∧ sharers 0x009 3 = [0] ∧ (lineOf 3 3 0).own = 3 ∧ (lineOf 3 2 8).own ≠ 3 ∧ (lineOf 3 2 8).shr.getLsbD 3 = true ∧
    (lineOf 3 2 1).shr.getLsbD 3 = false ∧ (lineOf 3 2 1).st = 3 := by decide +kernel
theorem witness_answers : ((([HomeMsg.inv, .fwdGetS, .fwdGetM, .dataM, .putAck]).all fun m => decide (
      let s := linked (lineOf 1 0 9) (some .miA) [m]
      s.fab.nextToDie 3 = some (2, m) ∧ s.mayAnswer 2 3 m = true ∧ s.fab.agentState 2 3 = .miA)) = true) ∧
    (let s : State := { linked (lineOf 1 0 9) (some .m) [.inv] with th := { (waiting user (.home 2) .nop).th with core := 0x700, bound := 0x700 } }
     s.th.agent = 3 ∧ s.mayAnswer 2 3 .inv = false) ∧
    (let s : State := { user with fab := { user.fab with toDie := [(9, 2, .dataM)], hostStores := [{ key := 384, bytes := [1] }], agents := [{ line := 2, agent := 9, state := .imD, firn := false, valid := 0, dirty := 0, age := 0, way := 0 }] } }
     s.fab.nextToDie 9 = some (2, .dataM) ∧ s.mayAnswer 2 9 .dataM = true ∧ s.fab.agentState 2 9 = .imD ∧ s.fab.hostStores = [{ key := 384, bytes := [1] }]) := by
  decide +kernel
/-- Agent 3's line 2, about to leave L2; its set of firn holds n lines. -/
def firnWay (sets k : Nat) : AgentLine :=
  { line := 2 + sets * (k + 1), agent := 3, state := .s, firn := true, valid := 15, dirty := 0, age := BitVec.ofNat 4 k, way := BitVec.ofNat 4 k }
def evicting (n : Nat) (st : AgentState := .s) : State :=
  let x : AgentLine := { line := 2, agent := 3, state := st, firn := false, valid := 0, dirty := 0, age := 0, way := 0 }
  { user with ev := .evict 2 3 false, fab := { user.fab with agents := x :: (List.range n).map (firnWay (firnSets 2)) } }
def leaving (s : State) (held takes : Bool) (n : Nat) (way : Nat) : Bool :=
  (s.fab.agentLine 2 3).any fun x => x.state.held == held && s.firnTakes x == takes && (s.fab.agents.filter (s.sameSet x)).length == n &&
    ((s.firnVictim x).map (·.way.toNat)).getD 99 == way
/-- No ways of its cirques serve as firn. -/
def noFirn (s : State) : State := { s with mod := { s.mod with carve := Vector.replicate 10 0 } }
theorem witness_evictions : leaving (evicting 0) true true 0 99 = true ∧ leaving (evicting 15) true true 15 14 = true ∧
    leaving (evicting 16) true true 16 15 = true ∧ leaving (evicting 0 .miA) false true 0 99 = true ∧
    ([AgentState.s, .e, .m, .o].all fun st => leaving (noFirn (evicting 0 st)) true false 0 99) = true := by decide +kernel
theorem witness_eviction_row : (evicting 0).ev = .evict 2 3 false := rfl

/-! ### Witnesses: answers that fail, launches, packages, commands -/

/-- A device context with a page request of a unit of the device, and a thread and an engine that wait for the page. -/
def unitAsks : State :=
  let s := withPages (waiting user (.page 20500 false false) .nop) [{ asks false false false with device := true }]
  withTh s fun t => { t with bxq := [{ move 0 100 384 1000 with waitPage := some 20500 }] }
theorem witness_failed_pages : ((unitAsks.dctx? 0).map fun d => d.pages.map fun q => (q.device, unitAsks.outstanding d q)) = some [(true, true)] ∧
    unitAsks.th.waitsFor 5 = true ∧ (unitAsks.th.bxq.map (·.waitPage)) = [some 20500] ∧ (20500 : Nat) / 4096 = 5 := by decide +kernel
/-- A fault record for a ring whose descriptor lies on a page of the host, or nowhere. -/
def faultAway (desc : BitVec 56) : State := withDctx (hosted user) fun d => { d with fqdesc := desc, fqWait := [faultAt 0x02] }
/-- What the post of the first waiting fault record runs into: 1 a page, 2 a failure. -/
def faultRuns (s : State) : Nat :=
  match s.myDctx with
  | some d => (match s.postFault d (faultAt 0x02) with
    | .failed (.page ..) => 1
    | .failed (.fail ..) => 2
    | _ => 0)
  | none => 0
theorem witness_fault_waits : faultRuns (faultAway (atsVa.setWidth 56)) = 1 ∧ faultRuns (faultAway (hole.setWidth 56)) = 2 := by decide +kernel
/-- A ring without a packet waits for its retry; a launch's record does. -/
def heldBack (x : HeldItem) : State := withDctx (packet 0 0) fun d => { d with heldItems := [x] }
theorem witness_held : (((heldBack (.packet 0)).dctx? 0).map fun d => d.heldItems) = some [.packet 0] ∧
    (((heldBack (.launchRecord 0)).dctx? 0).map fun d => d.heldItems) = some [.launchRecord 0] ∧ (head0 (heldBack (.packet 0))).isSome = true ∧
    ((heldBack (.launchRecord 0)).launch? 0 0).isSome = true := by decide +kernel
/-- A launch of a moraine mode to be admitted; its ring has room, and its replay source, at 24576, holds the launch's record and no other. -/
def launchOf (mode : Nat) : State :=
  let s := withLaunch (launchAt .admitting) fun l => { l with info := { l.info with mode := mode } }
  let s1 := withDctx (ringAt s 0) fun d => { d with mrdesc := 4096, mpbase := 24576, mpcnt := 2 }
  let l := s1.launches.headD (loadLaunch .control)
  withBytes s1 24576 (l.moraineRecord ++ schedBytes user.th 0 4608 0 false)
theorem witness_modes : bindsWith (launchOf 1) = some (true, some 0) ∧ ((launchOf 1).launch? 0 0).map (·.info.mode) = some 1 ∧
    ((launchOf 2).launch? 0 0).map (·.info.mode) = some 2 := by decide +kernel
theorem witness_replayed_launch : bindsWith (launchOf 2) = some (true, some 0) := by decide +kernel
theorem witness_signalled : (withLaunch (endedLaunch 4096) fun l => { l with csig := 400 }).launchOver (loadLaunch .control) = true ∧
    (user.myDctx.map fun d => (user.counterSpans d 400).isOk) = some true := by decide +kernel
/-- Every vector core is full, the first of the thread's own launch; a launch of a priority waits since a count. -/
def crowded (prio : Nat) (lcc : Nat := 0) : State :=
  let s : State := withTh (onePod vec) fun t => { t with lanes := 0xFF, lgG0 := 11 }
  { s with lcc := lcc, ev := .gang 0 0 0, others := (List.range 15).map fun k => { filler s (k + 1) with handle := BitVec.ofNat 32 (2 ^ 27 + k) }
           launches := s.launches ++ [{ loadLaunch .vector with slot := 1, state := .binding, prio := prio, waiting := [0], resident := [], started := none, info := { (loadLaunch .vector).info with affin := 1 } }] }
def roomFor? (s : State) : Option (Bool × Bool × Bool) :=
  (s.launch? 0 0).map fun l => ((s.makesRoomFor l 0 fun _ => true).isSome, s.mustLeave l 0 fun w => decide (w.prio = l.prio), (s.stopAll (s.gangResident l 0)).isSome)
theorem witness_preemption : roomFor? (crowded 3) = some (true, false, true) ∧ roomFor? (crowded 0) = some (false, false, true) ∧
    roomFor? (crowded 0 100000000) = some (true, true, true) ∧ (user.sliceCycles 0 = (crowded 0).sliceCycles 0) := by decide +kernel

/-! ### Witnesses: failed links, deliveries, commands and their turns -/

/-- Window 0 is partition 0's, over the first 3 GiB of the second tier, on port 1. -/
def windowed : State :=
  { (user.modPart 0 fun p => { p with windows := 1 }) with
    mod := { (user.modPart 0 fun p => { p with windows := 1 }).mod with
      windows := (Vector.replicate 16 none).set 0 (some { part := 0, base := cxlBase, size := 3 * 2 ^ 29, ports := [(1, 0)] })
      cxlPort := user.mod.cxlPort.set 1 (2 ^ 40) } }
theorem witness_second_tier : ((windowed.windowAt (192 * (cxlBase / 192 + 1))).map fun x => (x.1, x.2.part)) = some (0, 0) ∧
    user.resetHeld 0 = false ∧ (moving user).resetHeld 0 = true ∧ 3 * 2 ^ 29 ≤ windowed.portUsable 1 ∧ 3 * 2 ^ 29 ≤ windowed.cxlUsable ∧
    ((1 : BitVec 2) ≠ 0) := by decide +kernel
/-- What a delivery that reads at an address meets: its bytes, a refusal or a page. -/
def readAnswer (s : State) (a : BitVec 64) : Option (Nat × Bool) :=
  match s.dctx? 0 with
  | some d => (match s.translate d (deviceAccess true false) a 8 with
    | .ok sp => some (0, (spanPoison s.poison sp 0).isSome)
    | .error (.fail ..) => some (1, false)
    | .error (.page ..) => some (2, false)
    | .error _ => none)
  | none => none
theorem witness_delivery_reads : readAnswer ported 400 = some (0, false) ∧ readAnswer { ported with poison := [8] } 400 = some (0, true) ∧
    readAnswer ported hole = some (1, false) ∧ readAnswer (hosted ported) atsVa = some (2, false) ∧ (ported.part 0).resetting = none ∧
    ({ ported with arriving := [delivery .read 0] } : State).arriving[0]? = some (delivery .read 0) := by decide +kernel
/-- A command of an opcode runs by the mailbox, and some wait. -/
def commanded (op : BitVec 16) (queue : List (Instr × Operands)) : State :=
  { user with mod := { user.mod with mbRun := some { i3c := false, op := op }, mbQueue := queue } }
theorem turn_of {s : State} {r : MbRun} (h : s.mod.mbRun = some r) (w : s.mod.mbWait = none) (x : s.mod.mbHeld = none) : turnOf s r.op.toNat :=
  ⟨fun _ e => by rw [h] at e; cases e; rfl, w, fun _ e => by simp [x] at e⟩
theorem witness_turns : turnOf (commanded 0x10 []) 0x10 ∧ ¬turnOf (commanded 0x10 []) 0x11 ∧
    (commanded 0x10 [(.identify, .none)]).mod.mbQueue = [(.identify, .none)] ∧ user.mod.mbRun = none ∧ user.mod.mbQueue = [] :=
  ⟨turn_of (r := { i3c := false, op := 0x10 }) rfl rfl rfl, fun h => absurd (h.1 _ rfl) (by decide), rfl, rfl, rfl⟩
/-- The host stores 8 bytes to line 2, which agent 9 holds in M or not at all. -/
def hostStores (held : Bool) : State :=
  { (if held then { user with fab := { user.fab with agents := [{ line := 2, agent := 9, state := .m, firn := false, valid := 0, dirty := 0, age := 0, way := 0 }] } } else user) with
    ev := .hostStore 384 [1, 2, 3, 4, 5, 6, 7, 8] }
theorem witness_host_stores : (hostStores true).fab.agentState (384 / 192) 9 = .m ∧ (hostStores true).fab.hostStores = [] ∧
    (hostStores false).fab.agentState (384 / 192) 9 = .i ∧ (user.homeDie 384).isSome = true ∧ 384 / 192 = (384 + 8 - 1) / 192 := by decide +kernel
/-- The ring table lies on a page of the host. -/
theorem witness_ring_page : ((withDctx (hosted user) fun d => { d with ringTable := atsVa }).dctx? 0).map (fun d =>
    match (withDctx (hosted user) fun d => { d with ringTable := atsVa }).deviceRead d (d.ringTable + 0) 32 with
    | .error (.page ..) => true
    | _ => false) = some true := by decide +kernel
theorem witness_boot : (unready user).slotGood (unready user).mod.fwActive = true ∧ (unready user).slotGood (~~~(unready user).mod.fwActive) = false ∧
    (unready (slotted none)).slotGood (~~~user.mod.fwActive) = true ∧
    ((user.modPart 0 fun p => { p with resetAsked := some 1 }).part 0).resetAsked.isSome = true ∧ ((allParts).all fun p => (user.part p).resetAsked.isNone) = true := by
  decide +kernel

end Sys2Proof.Tests
end

section
/-! PROOFS. How an issued instruction's effect becomes a completion or a stop; what the shared operations of group B do; the
multiplications, divisions, branches, jumps and hardware loops (R142, R144, R145, R146). -/

namespace Sys2Proof.Machine

/-! ### From an effect to a completion or a stop -/

/-- An instruction whose effect leaves s1 completes there, and control passes on. -/
theorem completes_of_next {i : Instr} {s s1 : State} {body : State → Effect} (hexec : exec i s = issue i s body) (hfree : Free i s)
    (hbody : body s = .next s1) : Completes i s s1 none :=
  ⟨s1.touched, by rw [hexec, issue_free hfree, hbody]; rfl⟩

/-- An instruction whose effect leaves s1 and transfers control completes there, at its target. -/
theorem completes_of_jump {i : Instr} {s s1 : State} {target : BitVec 64} {body : State → Effect} (hexec : exec i s = issue i s body)
    (hfree : Free i s) (hbody : body s = .jump s1 target) : Completes i s s1 (some target) :=
  ⟨s1.touched, by rw [hexec, issue_free hfree, hbody]; rfl⟩

/-- An instruction whose effect meets trouble stops with it. -/
theorem stops_of_trouble {i : Instr} {s s1 : State} {t : Trouble} {elem : Option Nat} {body : State → Effect}
    (hexec : exec i s = issue i s body) (hfree : Free i s) (hbody : body s = .trouble s1 t elem) : Stops i s s1 t elem :=
  ⟨s1.touched, by rw [hexec, issue_free hfree, hbody]; rfl⟩

/-! ### The shared operation that each instruction is -/

section
variable (s : State) (d a b : BitVec 5) (o : BitVec 16)

theorem exec_mul : exec (.mul d a b) s = rr (.mul d a b) d a b (· * ·) s := rfl
theorem exec_mulh : exec (.mulh d a b) s =
    rr (.mulh d a b) d a b (fun x y => BitVec.ofInt 64 (x.toInt * y.toInt / 2 ^ 64)) s := rfl
theorem exec_mulhn : exec (.mulhn d a b) s =
    rr (.mulhn d a b) d a b (fun x y => BitVec.ofNat 64 (x.toNat * y.toNat / 2 ^ 64)) s := rfl
theorem exec_div : exec (.div d a b) s = rr (.div d a b) d a b divSigned s := rfl
theorem exec_rem : exec (.rem d a b) s = rr (.rem d a b) d a b remSigned s := rfl
theorem exec_divn : exec (.divn d a b) s = rr (.divn d a b) d a b divUnsigned s := rfl
theorem exec_remn : exec (.remn d a b) s = rr (.remn d a b) d a b remUnsigned s := rfl

theorem exec_beq : exec (.beq d a o) s = branch (.beq d a o) d a o (fun x y => decide (x = y)) s := rfl
theorem exec_bne : exec (.bne d a o) s = branch (.bne d a o) d a o (fun x y => decide (x ≠ y)) s := rfl
theorem exec_blt : exec (.blt d a o) s = branch (.blt d a o) d a o (fun x y => x.slt y) s := rfl
theorem exec_bge : exec (.bge d a o) s = branch (.bge d a o) d a o (fun x y => !x.slt y) s := rfl
theorem exec_bltn : exec (.bltn d a o) s = branch (.bltn d a o) d a o (fun x y => x.ult y) s := rfl
theorem exec_bgen : exec (.bgen d a o) s = branch (.bgen d a o) d a o (fun x y => !x.ult y) s := rfl

theorem exec_jmp (o : BitVec 21) : exec (.jmp d o) s =
    issue (.jmp d o) s fun s => .jump (s.setG d (s.th.arch.pc + 4)) (s.th.arch.pc + (o.signExtend 64 <<< 2)) := rfl
theorem exec_jr : exec (.jr d a o) s = issue (.jr d a o) s fun s =>
    if (s.g a + o.signExtend 64).toNat % 4 ≠ 0 then .trouble s (misaligned (s.g a + o.signExtend 64)) none
    else .jump (s.setG d (s.th.arch.pc + 4)) (s.g a + o.signExtend 64) := rfl

theorem exec_lp (o : BitVec 15) : exec (.lp a o) s =
    issue (.lp a o) s fun s => openLoop (.lp a o) ((s.g a).setWidth 32) o s := rfl
theorem exec_lpImmediate (n : BitVec 5) (o : BitVec 15) : exec (.lpImmediate n o) s =
    issue (.lpImmediate n o) s fun s => openLoop (.lpImmediate n o) (n.setWidth 32) o s := rfl

end

/-! ### Operations of two registers -/

/-- An operation of two general registers leaves its value in g[d]. -/
theorem rr_completes {i : Instr} {s : State} {d a b : BitVec 5} {f : BitVec 64 → BitVec 64 → BitVec 64} {v : BitVec 64}
    (hexec : exec i s = rr i d a b f s) (hvalue : f (s.g a) (s.g b) = v) (hfree : Free i s) :
    Completes i s (s.setG d v) none :=
  completes_of_next hexec hfree (by rw [hvalue])

/-! ### The values of multiplications and divisions (R142) -/

theorem mul_eq_ofInt (x y : BitVec 64) : x * y = BitVec.ofInt 64 (x.toInt * y.toInt) := by
  rw [BitVec.ofInt_mul, BitVec.ofInt_toInt, BitVec.ofInt_toInt]

/-- The overflowing division, as the model tests for it and as the spec names it. -/
theorem overflows_iff (x y : BitVec 64) :
    x = 0x8000_0000_0000_0000 ∧ y = BitVec.allOnes 64 ↔ x.toInt = -(2 ^ 63) ∧ y.toInt = -1 :=
  and_congr (BitVec.toInt_inj (y := 0x8000_0000_0000_0000)).symm (BitVec.toInt_inj (y := BitVec.allOnes 64)).symm

theorem divSigned_eq (x y : BitVec 64) :
    divSigned x y = if y = 0 then BitVec.ofInt 64 (-1)
      else if x.toInt = -(2 ^ 63) ∧ y.toInt = -1 then BitVec.ofInt 64 (-(2 ^ 63))
      else BitVec.ofInt 64 (x.toInt.tdiv y.toInt) := by
  unfold divSigned
  simp only [overflows_iff]
  split
  · rfl
  · split
    · next overflow => rw [← overflow.1, BitVec.ofInt_toInt]
    · rfl

theorem remSigned_eq (x y : BitVec 64) :
    remSigned x y = if y = 0 then BitVec.ofInt 64 x.toInt
      else if x.toInt = -(2 ^ 63) ∧ y.toInt = -1 then 0
      else BitVec.ofInt 64 (x.toInt - y.toInt * x.toInt.tdiv y.toInt) := by
  unfold remSigned
  simp only [overflows_iff, BitVec.ofInt_toInt, Int.tmod_def]

theorem divUnsigned_eq (x y : BitVec 64) :
    divUnsigned x y = if y = 0 then BitVec.ofNat 64 (2 ^ 64 - 1) else BitVec.ofNat 64 (x.toNat / y.toNat) := by
  have ones : BitVec.allOnes 64 = BitVec.ofNat 64 (2 ^ 64 - 1) := by decide
  rw [divUnsigned, ones]

/-- The special cases of R142 are those of the truncated remainder itself. -/
theorem remSigned_eq_srem (x y : BitVec 64) : remSigned x y = x.srem y := by
  have general : BitVec.ofInt 64 (x.toInt.tmod y.toInt) = x.srem y := by rw [← BitVec.toInt_srem, BitVec.ofInt_toInt]
  unfold remSigned
  split
  · next zero => rw [zero]; exact BitVec.srem_zero.symm
  · split
    · next overflow => rw [overflow.1, overflow.2]; rfl
    · exact general

/-- A remainder that is not zero has the sign of the dividend. -/
theorem remSigned_neg_iff (x y : BitVec 64) (h : remSigned x y ≠ 0) : (remSigned x y).toInt < 0 ↔ x.toInt < 0 := by
  have value : (remSigned x y).toInt = x.toInt.tmod y.toInt := by rw [remSigned_eq_srem, BitVec.toInt_srem]
  have nonzero : x.toInt.tmod y.toInt ≠ 0 := fun e => h (BitVec.eq_of_toInt_eq (value.trans e))
  rw [value]
  constructor
  · intro hneg
    refine Int.not_le.1 fun hx => ?_
    have := Int.tmod_nonneg y.toInt hx
    omega
  · intro hx
    have : 0 ≤ (-x.toInt).tmod y.toInt := Int.tmod_nonneg y.toInt (by omega)
    rw [Int.neg_tmod] at this
    omega

/-! ### Branches and loops -/

theorem not_slt_eq_decide (x y : BitVec 64) : (!x.slt y) = decide (y.toInt ≤ x.toInt) := by
  rw [BitVec.slt_eq_decide, ← decide_not, decide_eq_decide, Int.not_lt]

theorem not_ult_eq_decide (x y : BitVec 64) : (!x.ult y) = decide (y.toNat ≤ x.toNat) := by
  rw [BitVec.ult_eq_decide, ← decide_not, decide_eq_decide, Nat.not_lt]

/-- An offset in words is four times as many bytes. -/
theorem shiftLeft_two_eq (x : BitVec 64) : x <<< 2 = 4 * x := by
  rw [BitVec.shiftLeft_eq_mul_twoPow, BitVec.mul_comm]; rfl

/-- A conditional branch writes nothing and is taken exactly when its condition holds. -/
theorem branch_completes {i : Instr} {s : State} {d a : BitVec 5} {o : BitVec 16} {f : BitVec 64 → BitVec 64 → Bool} {c : Bool}
    (hexec : exec i s = branch i d a o f s) (hcond : f (s.g d) (s.g a) = c) (hfree : Free i s) :
    Completes i s s (if c then some (s.th.arch.pc + 4 * o.signExtend 64) else none) := by
  subst hcond
  rw [← shiftLeft_two_eq]
  cases hc : f (s.g d) (s.g a) with
  | true => exact completes_of_jump hexec hfree (by simp only [hc, if_true])
  | false => exact completes_of_next hexec hfree (by simp only [hc, if_false, Bool.false_eq_true])

/-- LP of either form: skipped at count 0, else pushed, else trapped where the stack is full. -/
theorem openLoop_completes {i : Instr} {s : State} {n : BitVec 32} {o : BitVec 15} {body : State → Effect}
    (hexec : exec i s = issue i s body) (hbody : body s = openLoop i n o s) (hfree : Free i s) :
    let pc := s.th.arch.pc
    let last := pc + 4 * o.setWidth 64
    (n = 0 → Completes i s s (some (last + 4))) ∧
    (n ≠ 0 → s.th.arch.loops.length < 6 →
      Completes i s { s with th := { s.th with arch :=
        { s.th.arch with loops := { start := pc + 4, last := last, count := n } :: s.th.arch.loops } } } none) ∧
    (n ≠ 0 → 6 ≤ s.th.arch.loops.length → Stops i s s (.trap 0x01 (wordOf i) 0) none) := by
  unfold openLoop at hbody
  simp only [shiftLeft_two_eq] at hbody
  refine ⟨fun hn => ?_, fun hn hroom => ?_, fun hn hfull => ?_⟩
  · exact completes_of_jump hexec hfree (by rw [hbody, if_pos hn])
  · exact completes_of_next hexec hfree (by rw [hbody, if_neg hn, if_neg (Nat.not_le.2 hroom)])
  · exact stops_of_trouble hexec hfree (by rw [hbody, if_neg hn, if_pos hfull]; rfl)

end Sys2Proof.Machine

namespace Sys2Proof.Claims
open Sys2Proof.Machine

/-- Settles O4: each form is an operation of two registers, whose value is R142's. -/
theorem multiplyAndDivide : Obligations.MultiplyAndDivide := by
  refine ⟨fun s d a b e he hfree => ?_, remSigned_neg_iff⟩
  simp only [productForms, List.mem_cons, List.not_mem_nil, or_false] at he
  obtain rfl | rfl | rfl | rfl | rfl | rfl | rfl := he
  · exact rr_completes (exec_mul s d a b) (mul_eq_ofInt _ _) hfree
  · exact rr_completes (exec_mulh s d a b) rfl hfree
  · exact rr_completes (exec_mulhn s d a b) rfl hfree
  · exact rr_completes (exec_div s d a b) (divSigned_eq _ _) hfree
  · exact rr_completes (exec_rem s d a b) (remSigned_eq _ _) hfree
  · exact rr_completes (exec_divn s d a b) (divUnsigned_eq _ _) hfree
  · exact rr_completes (exec_remn s d a b) rfl hfree

/-- Settles O6: each form is the model's `branch` on its comparison. -/
theorem conditionalBranches : Obligations.ConditionalBranches := by
  intro s d a o e he hfree
  simp only [branchForms, List.mem_cons, List.not_mem_nil, or_false] at he
  obtain rfl | rfl | rfl | rfl | rfl | rfl := he
  · exact branch_completes (exec_beq s d a o) rfl hfree
  · exact branch_completes (exec_bne s d a o) rfl hfree
  · exact branch_completes (exec_blt s d a o) BitVec.slt_eq_decide hfree
  · exact branch_completes (exec_bge s d a o) (not_slt_eq_decide _ _) hfree
  · exact branch_completes (exec_bltn s d a o) BitVec.ult_eq_decide hfree
  · exact branch_completes (exec_bgen s d a o) (not_ult_eq_decide _ _) hfree

/-- Settles O7: the target is computed before the link is written, and only JR's can be misaligned. -/
theorem jumpsLinkAndTransfer : Obligations.JumpsLinkAndTransfer := by
  refine ⟨fun s d o hfree => ?_, fun s d a o hfree => ⟨fun aligned => ?_, fun misalign => ?_⟩⟩
  · rw [← shiftLeft_two_eq]
    exact completes_of_jump (exec_jmp s d o) hfree rfl
  · exact completes_of_jump (exec_jr s d a o) hfree (if_neg fun unaligned => unaligned aligned)
  · exact stops_of_trouble (exec_jr s d a o) hfree (if_pos misalign)

/-- Settles O8: both forms open their loop by `openLoop`, with the count of the register or of the field. -/
theorem hardwareLoopOpens : Obligations.HardwareLoopOpens := by
  intro s f o e he hfree
  simp only [List.mem_cons, List.not_mem_nil, or_false] at he
  obtain rfl | rfl := he
  · exact openLoop_completes (exec_lp s f o) rfl hfree
  · exact openLoop_completes (exec_lpImmediate s f o) rfl hfree

end Sys2Proof.Claims
end
